-- ==== Sys2Proof/Word.lean ====
section
/-! DEFINITION. The words of the Pengan G9 and their plainest arithmetic (spec/00_scope.md R5, spec/01 Table 1-10). -/

namespace Sys2Proof

/-- A byte of memory. -/
abbrev Byte := BitVec 8

/-- One 32-bit register or instruction word. -/
abbrev Word := BitVec 32

/-- A 64-bit register pair, pointer or literal. -/
abbrev Dword := BitVec 64

/-- A flat register index of Table 1-2. -/
abbrev RegIdx := BitVec 9

/-- The pair whose low half is `lo` (R5). -/
def pairOf (lo hi : Word) : Dword := hi ++ lo

/-- The low half of a pair. -/
def lowHalf (x : Dword) : Word := x.setWidth 32

/-- The high half of a pair. -/
def highHalf (x : Dword) : Word := BitVec.ofNat 32 (x.toNat / 4294967296)

/-- `Sat` of Table 1-10. -/
def satInt (x lo hi : Int) : Int := if x < lo then lo else if hi < x then hi else x

/-- A Bool as a number. -/
def bit01 (b : Bool) : Nat := if b then 1 else 0

end Sys2Proof
end

