-- ==== Sys2Proof/Config.lean ====
section
/-! DEFINITION. What the manual leaves open: free values without a body (nothing can be proved of the value they take), and the
figures of the package (spec/00 Tables 0-1 and 0-2). -/

namespace Sys2Proof.Config

/-- A value left open, drawn by the counter State.fresh (log entry 2). -/
opaque freeNat : Nat → Nat

/-- Which value within the bound of Table 6-6 a special function gives, by minor and operand (log entry 6). -/
opaque sfuChoice : Nat → Word → Nat

/-- The bytes Nightjar answers an SPDM message with, by message, function and draw (log entry 14). -/
opaque spdmByte : Nat → Nat → Nat → Nat → Byte

/-- Which ECC words of a failed stack are uncorrectable, by the first key of the word (R369; log entry 17). -/
opaque stackDead : Nat → Bool

/-- The device root key (R354; log entry 14). -/
opaque rootKey : Nat

/-- The partition key derived from the root key, a partition's number and its creation counter (R354; log entry 14). -/
opaque deriveKey : Nat → Nat → Nat → Nat

/-- How a line's port number and port offset make the 128 bits of its tweak (R354; log entry 14). -/
opaque lineTweak : Nat → Nat → Nat

/-- The measurement of a firmware: 1 Nightjar's, 2 Badger's and Owl's (Table 17-5; log entry 14). -/
opaque firmware : Nat → Nat

/-- Bytes of a save image for what Table 13-4 gives no size: a BULK command, an MCAST command, the marks of a parked tile (log entry 16). -/
opaque queueBytes : Nat → Nat

/-- Cores of a die. -/
def coresPerDie : Nat := 64
/-- Dies. -/
def dies : Nat := 4
/-- Memory-side ports. -/
def ports : Nat := 48
/-- Bytes of a port (R219). -/
def portBytes : Nat := 9000000000
/-- Bytes of a slice (R215). -/
def sliceBytes : Nat := 16777216
/-- Issue slots of a core (spec/00). -/
def issueSlots : Nat := 4
/-- Warp slots of a core. -/
def warpSlots : Nat := 32
/-- 32-bit registers of a core (R14). -/
def coreRegs : Nat := 131072

end Sys2Proof.Config
end

