-- ==== Sys2Proof/Syntax.lean ====
section
/-! DEFINITION. The syntax of every step of spec/opcode_table.json: the 53 base forms, the 177 extended forms
(spec/02 Tables 2-2, 2-4, 2-5) and the 78 steps of the agents beside the threads. -/

namespace Sys2Proof

/-- A gang: partition, launch number, gang index (R25, R266). -/
structure GangId where
  part : Nat
  launch : Nat
  gang : Nat
deriving DecidableEq, Repr

/-- A workgroup: the member of a gang (R7). -/
structure WgId where
  gang : GangId
  member : Nat
deriving DecidableEq, Repr

/-- A warp of a workgroup. -/
structure WarpId where
  wg : WgId
  warp : Nat
deriving DecidableEq, Repr

/-- A thread: a lane of a warp. -/
structure ThreadId where
  warp : WarpId
  lane : Nat
deriving DecidableEq, Repr

/-- What a peer device asks for over Xouth (R364). -/
inductive PeerOp where
  | read
  | write (bytes : List Byte)
  | atom (op ty operand : Nat)
  | cas (compare new : Nat)
deriving DecidableEq, Repr

/-- A request that arrives from a peer device (R363, R364). -/
structure PeerRequest where
  device : Nat
  part : Nat
  target : Nat
  lane : Nat
  seq : Nat
  pa : Nat
  len : Nat
  op : PeerOp
deriving DecidableEq, Repr

/-- The engines of R350. -/
inductive DmaEngine where
  | host
  | xouth
  | ethernet
deriving DecidableEq, Repr

/-- The fields of the extended form (Table 2-5) with the literal of R47. -/
structure Ext where
  guard : BitVec 4
  la : BitVec 4
  retain : BitVec 2
  modA : BitVec 6
  modB : BitVec 5
  d : RegIdx
  a : RegIdx
  b : RegIdx
  c : RegIdx
  imm : BitVec 23
  lit : Option Dword
deriving DecidableEq, Repr

/-- Every step of the part, one constructor per row of the opcode table, in its order. -/
inductive Instr where
  | iaddBase (d b : RegIdx) (lit : Option Dword)
  | isubBase (d b : RegIdx) (lit : Option Dword)
  | iaddcBase (d b : RegIdx) (lit : Option Dword)
  | iminBase (d b : RegIdx) (lit : Option Dword)
  | imaxBase (d b : RegIdx) (lit : Option Dword)
  | iabsBase (d : RegIdx)
  | inegBase (d : RegIdx)
  | iaminBase (d b : RegIdx) (lit : Option Dword)
  | iamaxBase (d b : RegIdx) (lit : Option Dword)
  | isadBase (d b : RegIdx) (lit : Option Dword)
  | iadd64Base (d b : RegIdx) (lit : Option Dword)
  | isub64Base (d b : RegIdx) (lit : Option Dword)
  | shlBase (d b : RegIdx) (lit : Option Dword)
  | shrBase (d b : RegIdx) (lit : Option Dword)
  | sarBase (d b : RegIdx) (lit : Option Dword)
  | rotlBase (d b : RegIdx) (lit : Option Dword)
  | bandBase (d b : RegIdx) (lit : Option Dword)
  | borBase (d b : RegIdx) (lit : Option Dword)
  | bxorBase (d b : RegIdx) (lit : Option Dword)
  | bnotBase (d : RegIdx)
  | bool3Base (d b : RegIdx) (lit : Option Dword)
  | popcBase (d : RegIdx)
  | clzBase (d : RegIdx)
  | ctzBase (d : RegIdx)
  | brevBase (d : RegIdx)
  | bfeBase (d b : RegIdx) (lit : Option Dword)
  | bfiBase (d b : RegIdx) (lit : Option Dword)
  | funnelBase (d b : RegIdx) (lit : Option Dword)
  | shl64Base (d b : RegIdx) (lit : Option Dword)
  | shr64Base (d b : RegIdx) (lit : Option Dword)
  | sar64Base (d b : RegIdx) (lit : Option Dword)
  | faddBase (d b : RegIdx) (lit : Option Dword)
  | fsubBase (d b : RegIdx) (lit : Option Dword)
  | fmulBase (d b : RegIdx) (lit : Option Dword)
  | ffmaBase (d b : RegIdx) (lit : Option Dword)
  | fminBase (d b : RegIdx) (lit : Option Dword)
  | fmaxBase (d b : RegIdx) (lit : Option Dword)
  | movBase (d b : RegIdx) (lit : Option Dword)
  | addi (d : RegIdx) (imm : BitVec 15) (lit : Option Dword)
  | moviBase (d : RegIdx) (imm : BitVec 15) (lit : Option Dword)
  | andi (d : RegIdx) (imm : BitVec 15) (lit : Option Dword)
  | shli (d : RegIdx) (imm : BitVec 15) (lit : Option Dword)
  | shri (d : RegIdx) (imm : BitVec 15) (lit : Option Dword)
  | sari (d : RegIdx) (imm : BitVec 15) (lit : Option Dword)
  | braBase (cond : BitVec 4) (off : BitVec 20)
  | rjmarkBase (j : BitVec 3)
  | rjwaitBase (j : BitVec 3)
  | sealBase (s1 s2 : RegIdx)
  | yieldBase (live : BitVec 5) (dexp : BitVec 4)
  | tailBase
  | exitBase
  | trapBase (code : BitVec 16)
  | brkBase (code : BitVec 16)
  | iadd (x : Ext)
  | isub (x : Ext)
  | iaddc (x : Ext)
  | imin (x : Ext)
  | imax (x : Ext)
  | iabs (x : Ext)
  | ineg (x : Ext)
  | iamin (x : Ext)
  | iamax (x : Ext)
  | isad (x : Ext)
  | iadd64 (x : Ext)
  | isub64 (x : Ext)
  | lea (x : Ext)
  | lea64 (x : Ext)
  | imul (x : Ext)
  | imulh (x : Ext)
  | imad (x : Ext)
  | imulw (x : Ext)
  | imadw (x : Ext)
  | idiv (x : Ext)
  | irem (x : Ext)
  | shl (x : Ext)
  | shr (x : Ext)
  | sar (x : Ext)
  | rotl (x : Ext)
  | band (x : Ext)
  | bor (x : Ext)
  | bxor (x : Ext)
  | bnot (x : Ext)
  | bool3 (x : Ext)
  | popc (x : Ext)
  | clz (x : Ext)
  | ctz (x : Ext)
  | brev (x : Ext)
  | bfe (x : Ext)
  | bfi (x : Ext)
  | funnel (x : Ext)
  | shl64 (x : Ext)
  | shr64 (x : Ext)
  | sar64 (x : Ext)
  | iset (x : Ext)
  | iset64 (x : Ext)
  | fset (x : Ext)
  | fset64 (x : Ext)
  | pset (x : Ext)
  | sel (x : Ext)
  | pmovGet (x : Ext)
  | pmovPut (x : Ext)
  | fadd (x : Ext)
  | fsub (x : Ext)
  | fmul (x : Ext)
  | ffma (x : Ext)
  | fmin (x : Ext)
  | fmax (x : Ext)
  | fdiv (x : Ext)
  | fsqrt (x : Ext)
  | fscale (x : Ext)
  | frnd (x : Ext)
  | fadd64 (x : Ext)
  | fsub64 (x : Ext)
  | fmul64 (x : Ext)
  | ffma64 (x : Ext)
  | fmin64 (x : Ext)
  | fmax64 (x : Ext)
  | fdiv64 (x : Ext)
  | fsqrt64 (x : Ext)
  | fscale64 (x : Ext)
  | frnd64 (x : Ext)
  | hadd2 (x : Ext)
  | hmul2 (x : Ext)
  | hfma2 (x : Ext)
  | hmin2 (x : Ext)
  | hmax2 (x : Ext)
  | cvt (x : Ext)
  | cvtpk (x : Ext)
  | cvtx (x : Ext)
  | rcp (x : Ext)
  | rsq (x : Ext)
  | ex2 (x : Ext)
  | lg2 (x : Ext)
  | sin (x : Ext)
  | cos (x : Ext)
  | tanh (x : Ext)
  | rand (x : Ext)
  | shfl (x : Ext)
  | shflx (x : Ext)
  | lsh (x : Ext)
  | vote (x : Ext)
  | ballot (x : Ext)
  | matchKey (x : Ext)
  | reduce (x : Ext)
  | scan (x : Ext)
  | had32 (x : Ext)
  | qblk (x : Ext)
  | dqblk (x : Ext)
  | mov (x : Ext)
  | movi (x : Ext)
  | sread (x : Ext)
  | swrite (x : Ext)
  | wid (x : Ext)
  | kset (x : Ext)
  | ld (x : Ext)
  | ldparam (x : Ext)
  | prefetch (x : Ext)
  | st (x : Ext)
  | atom (x : Ext)
  | cas (x : Ext)
  | red (x : Ext)
  | join (x : Ext)
  | jinc (x : Ext)
  | ldlt (x : Ext)
  | ldltn (x : Ext)
  | xflush (x : Ext)
  | fence (x : Ext)
  | qfence (x : Ext)
  | copy (x : Ext)
  | bulkIn (x : Ext)
  | bulkOut (x : Ext)
  | mcast (x : Ext)
  | mcrecv (x : Ext)
  | tiledef (x : Ext)
  | tilefree (x : Ext)
  | tileq (x : Ext)
  | barinit (x : Ext)
  | bararr (x : Ext)
  | barwait (x : Ext)
  | bartest (x : Ext)
  | bardrop (x : Ext)
  | wsync (x : Ext)
  | gsync (x : Ext)
  | sclaim (x : Ext)
  | srel (x : Ext)
  | sldt (x : Ext)
  | sstt (x : Ext)
  | pack (x : Ext)
  | unpack (x : Ext)
  | azero (x : Ext)
  | mma (x : Ext)
  | kread (x : Ext)
  | dtctx (x : Ext)
  | dt2 (x : Ext)
  | dt1 (x : Ext)
  | dtcmp (x : Ext)
  | dteval (x : Ext)
  | dtstat (x : Ext)
  | bra (x : Ext)
  | brx (x : Ext)
  | brv (x : Ext)
  | call (x : Ext)
  | callx (x : Ext)
  | ret (x : Ext)
  | rjmark (x : Ext)
  | rjwait (x : Ext)
  | rjdrop (x : Ext)
  | rjread (x : Ext)
  | sealExt (x : Ext)
  | yield (x : Ext)
  | tail (x : Ext)
  | exit (x : Ext)
  | nap (x : Ext)
  | trap (x : Ext)
  | brk (x : Ext)
  | eret (x : Ext)
  | launch (x : Ext)
  | spill (x : Ext)
  | fill (x : Ext)
  | tlbinv (x : Ext)
  | rgnset (x : Ext)
  | smap (x : Ext)
  | ctxsave (x : Ext)
  | ctxload (x : Ext)
  | pmctlRead (x : Ext)
  | pmctlSel (x : Ext)
  | pmctlStart (x : Ext)
  | pmctlStop (x : Ext)
  | pmctlClr (x : Ext)
  | pgpin (x : Ext)
  | spanSeal (w : WarpId)
  | slowGear (w : WarpId)
  | slowGearComplete (w : WarpId)
  | loadDataReturn (t : ThreadId) (n : Nat)
  | memoryAccessPerform (id : Nat)
  | badgerSettle (part : Nat) (va : Dword)
  | operandLogReplay (w : WarpId)
  | evictionWritebackComplete (part : Nat) (va : Dword) (ok : Bool)
  | faultReply (fn : Nat) (va addr : Dword)
  | faultQueueTimeout (fn seq : Nat)
  | watchdogFault (t : ThreadId)
  | napEnd (t : ThreadId)
  | ldltTimeout (t : ThreadId)
  | copyComplete (core : Nat)
  | walkTileComplete (core : Nat)
  | bulkComplete (core : Nat)
  | mcastParked (core : Nat)
  | mcrecvComplete (core : Nat)
  | matrixEntryStart (core : Nat)
  | matrixEntryComplete (core : Nat)
  | exitComplete (t : ThreadId)
  | trackerEntryFree (core entry : Nat)
  | owlRound (part entry : Nat)
  | owlMerge (id : Nat)
  | latticeWindowWrite (fn off width : Nat) (value : BitVec 128)
  | commandCellWrite (fn : Nat) (value : Dword)
  | create (fn : Nat)
  | destroy (fn : Nat)
  | setreg (fn : Nat)
  | getreg (fn : Nat)
  | suspend (fn : Nat)
  | resume (fn : Nat)
  | fencedie (fn : Nat)
  | gangRangeHandout (part die : Nat)
  | gangPlace (die : Nat)
  | placementComplete (g : GangId)
  | gangRetire (g : GangId)
  | launchEnd (part launch : Nat)
  | replayGateTimeout (id : Nat)
  | replayStuckAdmit (part launch : Nat)
  | launchMerge (part launch : Nat)
  | preemptionStart (part : Nat)
  | drainComplete (g : GangId)
  | saveComplete (g : GangId)
  | gangResume (g : GangId)
  | resumeComplete (g : GangId)
  | gangLevelFault (g : GangId) (kind : Byte)
  | dieFence (die : Nat)
  | powerGood
  | functionStartupComplete (bit : Nat)
  | startupBoundExpiry (bit : Nat)
  | linkRetryFailure (link : Nat)
  | peerUnreachableTimeout (device : Nat)
  | peerRequestReceive (req : PeerRequest)
  | ethernetRetransmit (port : Nat)
  | engineSliceStart (engine : DmaEngine)
  | budgetRefill
  | thermalThrottle
  | thermalPowerOff
  | powercapWrite (value : Word)
  | peerRouteWrite (device : Nat) (entry : BitVec 256)
  | barRegisterWrite (fn off width : Nat) (value : BitVec 128)
  | getVersion (fn : Nat)
  | getCapabilities (fn : Nat)
  | negotiateAlgorithms (fn : Nat)
  | getDigests (fn : Nat)
  | getCertificate (fn : Nat)
  | challenge (fn : Nat)
  | getMeasurements (fn : Nat)
  | keyExchange (fn : Nat)
  | finish (fn : Nat)
  | ideKm (fn : Nat)
  | lockInterface (fn : Nat)
  | stopInterface (fn : Nat)
  | tdispBreach (fn : Nat)
  | functionFailure (bit : Nat)
  | startInterface (fn : Nat)
  | powerAboveCap
deriving DecidableEq, Repr

end Sys2Proof
end

