-- ==== Sys2Proof/Machine/Fields.lean ====
section
/-! DEFINITION. What the fields of an extended instruction say (spec/02 R43, and the encoding tables of spec/05 to spec/09). -/

namespace Sys2Proof

/-- The unsigned bits hi..lo of the 23-bit immediate. -/
def Ext.immBits (x : Ext) (hi lo : Nat) : Nat := x.imm.toNat / 2 ^ lo % 2 ^ (hi + 1 - lo)

/-- SExt(imm23, 23). -/
def Ext.simm (x : Ext) : Int := x.imm.toInt

/-- SExt(imm23[15:0], 16), the offset of atomics and joins (R126). -/
def Ext.simm16 (x : Ext) : Int := (x.imm.setWidth 16).toInt

/-- Bits hi..lo of modA. -/
def Ext.modABits (x : Ext) (hi lo : Nat) : Nat := x.modA.toNat / 2 ^ lo % 2 ^ (hi + 1 - lo)

/-- Bits hi..lo of modB. -/
def Ext.modBBits (x : Ext) (hi lo : Nat) : Nat := x.modB.toNat / 2 ^ lo % 2 ^ (hi + 1 - lo)

/-- Bit n of modA. -/
def Ext.modABit (x : Ext) (n : Nat) : Bool := x.modA.getLsbD n

/-- No modifier and no immediate is set. -/
def Ext.plain (x : Ext) : Bool := x.modA == 0 && x.modB == 0 && x.imm == 0

/-- The modifiers set no bit outside the masks. -/
def Ext.modsIn (x : Ext) (maskA : BitVec 6) (maskB : BitVec 5) : Bool :=
  (x.modA &&& ~~~maskA) == 0 && (x.modB &&& ~~~maskB) == 0

/-- A comparison's relation code at most n, its combine as R111 says. -/
def Ext.relOk (x : Ext) (n : Nat) : Bool :=
  decide (x.modABits 2 0 ≤ n) && x.modABits 5 4 == 0 && (x.modBBits 4 3 != 0 || x.modB == 0)

/-- The rounding code of modA (R112). -/
def Ext.roundA (x : Ext) : Nat := x.modABits 2 0

/-- The flush code of modA (R112). -/
def Ext.flushA (x : Ext) : Nat := x.modABits 4 3

/-- The rounding code of modB (R115). -/
def Ext.roundB (x : Ext) : Nat := x.modBBits 2 0

/-- The flush code of modB (R115). -/
def Ext.flushB (x : Ext) : Nat := x.modBBits 4 3

/-- The float modifiers of R112; modA[5] only for the half-width major. -/
def Ext.fmtOk (x : Ext) (half : Bool) : Bool :=
  decide (x.roundA ≤ 4) && decide (x.flushA ≤ 2) && (half || !x.modABit 5) && x.modB == 0

/-- The rounding and flush of the conversions (R115). -/
def Ext.fmtBOk (x : Ext) : Bool := decide (x.roundB ≤ 4) && decide (x.flushB ≤ 2)

/-- The destination type code of CVT (R115). -/
def Ext.cvtDst (x : Ext) : Nat := x.modABits 2 0

/-- The source type code of CVT (R115). -/
def Ext.cvtSrc (x : Ext) : Nat := x.modABits 5 3

/-- SHFL's index is the constant imm23[10:6] (R122). -/
def Ext.shflConst (x : Ext) : Bool := x.imm.getLsbD 11

/-- The fields of SHFL and SHFLX (R122). -/
def Ext.shflOk (x : Ext) : Bool :=
  x.modsIn 3 0 && decide (x.immBits 5 3 ≤ 5) && x.immBits 22 12 == 0 && (x.shflConst || x.immBits 10 6 == 0)

/-- LSH's width code (R121). -/
def Ext.width5 (x : Ext) : Nat := x.immBits 7 5

/-- The special register's number (R118, R119). -/
def Ext.sreg (x : Ext) : Nat := x.immBits 7 0

/-- The 64-bit special registers of Table 1-4. -/
def sregIsWide (n : Nat) : Bool :=
  [0x04, 0x0A, 0x0B, 0x0C, 0x0D, 0x0E, 0x12, 0x13, 0x19, 0x1A, 0x1C].contains n

/-- The numbers Table 1-4 assigns. -/
def sregAssigned (n : Nat) : Bool :=
  sregIsWide n || [0x00, 0x01, 0x02, 0x03, 0x05, 0x06, 0x08, 0x09, 0x10, 0x11, 0x14, 0x18, 0x1B, 0x1D, 0x20].contains n

/-- SREAD reads a 64-bit register. -/
def Ext.sregWide (x : Ext) : Bool := sregIsWide x.sreg

/-- SREAD names a register of Table 1-4 (R118). -/
def Ext.sreadOk (x : Ext) : Bool :=
  sregAssigned x.sreg && (if x.sreg == 0x20 then x.immBits 22 11 == 0 else x.immBits 22 8 == 0)

/-- SWRITE names %fmode, %fflags or %frpc (R119). -/
def Ext.swriteOk (x : Ext) : Bool := x.imm == 0x10 || x.imm == 0x11 || x.imm == 0x19

/-- WID's field range (R118). -/
def Ext.widOk (x : Ext) : Bool :=
  decide (x.immBits 2 0 ≤ x.immBits 5 3) && decide (x.immBits 5 3 ≤ 5) && x.immBits 22 6 == 0

/-- The access size code of LD, LDPARAM and ST (R131). -/
def Ext.sizeCode (x : Ext) : Nat := x.modABits 2 0

/-- The address mode (Table 7-1). -/
def Ext.addrMode (x : Ext) : Nat := x.modBBits 2 1

/-- The address base is a pair (R126). -/
def Ext.baseIsPair (x : Ext) : Bool := x.modB.getLsbD 0

/-- The address fields of an instruction whose modB holds nothing else (Table 7-1). -/
def Ext.addrModeOk (x : Ext) : Bool := x.addrMode != 3 && x.modBBits 4 3 == 0

/-- LD's modifiers (R131). -/
def Ext.ldOk (x : Ext) : Bool :=
  decide (x.sizeCode ≤ 4) && x.modABits 5 3 != 7 && x.addrMode != 3 && !x.modB.getLsbD 4 &&
    (!x.modB.getLsbD 3 || decide (x.sizeCode ≤ 1))

/-- LDPARAM's modifiers and immediate (R131, R134). -/
def Ext.ldparamOk (x : Ext) : Bool :=
  decide (x.sizeCode ≤ 4) && x.modABits 5 3 == 0 && x.modBBits 2 0 == 0 && !x.modB.getLsbD 4 &&
    (!x.modB.getLsbD 3 || decide (x.sizeCode ≤ 1)) && decide (x.imm.toNat ≤ 65535) && x.imm.toNat % 2 ^ x.sizeCode == 0

/-- ST's modifiers (R131). -/
def Ext.stOk (x : Ext) : Bool := decide (x.sizeCode ≤ 4) && x.modABits 5 3 != 7 && x.addrModeOk

/-- The literal ST takes: up to .b64 (Table 7-4). -/
def Ext.stLit (x : Ext) : Nat := if x.sizeCode ≤ 2 then 32 else if x.sizeCode = 3 then 64 else 0

/-- The operation code of an atomic (Table 7-6). -/
def Ext.atomOp (x : Ext) : Nat := x.modABits 3 0

/-- The type code of an atomic (Table 7-6). -/
def Ext.atomType (x : Ext) : Nat := x.modABits 5 4

/-- The type code is defined for the operation (Table 7-6). -/
def Ext.atomTypeOk (x : Ext) : Bool :=
  let op := x.atomOp
  let ty := x.atomType
  if op == 0 || op == 4 || op == 5 then true
  else if op == 1 || op == 2 || op == 3 || op == 6 then ty == 0 || ty == 2
  else decide (op ≤ 9) && ty == 0

/-- An atomic acts on 64 bits. -/
def Ext.atomWide (x : Ext) : Bool := decide (2 ≤ x.atomType) || x.atomOp == 8

/-- The scope code of R136. -/
def Ext.scope (x : Ext) : Nat := x.immBits 22 20

/-- The ordering code of R136. -/
def Ext.ordering (x : Ext) : Nat := x.immBits 19 17

/-- The scope of a release, none where the ordering has none (R129, R130, R136). -/
def Ext.releaseScope (x : Ext) : Option Nat := if x.ordering = 2 ∨ x.ordering = 3 ∨ x.ordering = 4 then some x.scope else none

/-- The ordering acquires (R129, R130). -/
def Ext.acquires (x : Ext) : Bool := x.ordering == 1 || x.ordering == 3 || x.ordering == 4

/-- The scope of an acquire, none where the ordering has none. -/
def Ext.acquireScope (x : Ext) : Option Nat := if x.acquires then some x.scope else none

/-- The ordering is .sc (R129). -/
def Ext.sequenced (x : Ext) : Bool := x.ordering == 4

/-- The ordering is one of those allowed, its scope as Table 7-3 and R129 say. -/
def Ext.orderOk (x : Ext) (allowed : List Nat) : Bool :=
  decide (x.scope ≤ 5) && allowed.contains x.ordering && x.immBits 16 16 == 0 && (x.ordering != 0 || x.scope == 0)

/-- The register units of a PACK or UNPACK run (R169). -/
def Ext.runCount (x : Ext) : Nat := x.immBits 18 13 + 1

/-- The .cont modifier of the DT group (Table 9-3). -/
def Ext.cont (x : Ext) : Bool := x.modABit 2

/-- The predicate number of a field (R111). -/
def predNum (f : RegIdx) : Nat := f.toNat % 8

end Sys2Proof
end

