-- ==== Sys2Proof/Machine/Forms.lean ====
section
/-! DEFINITION. The form of every instruction: what each field names, whether a literal stands for B, its class (R43 to R45,
R48, R81, and the encoding tables of spec/05 to spec/09). -/

namespace Sys2Proof

/-- What a register field names. -/
inductive Use where
  | none
  | reg
  | pair
  | quad
  | pred
  | selPred
  | name
  | run (units : Nat)
deriving DecidableEq, Repr

/-- The form of an instruction. -/
structure Form where
  d : Use := .none
  a : Use := .none
  b : Use := .none
  c : Use := .none
  lit : Nat := 0
  longLatency : Bool := false
  boundary : Bool := false
  guarded : Bool := true
  privileged : Bool := false
  writesC : Bool := false
  readsC : Bool := false
  readsD : Bool := false
  predReads : List Nat := []
  predWrites : List Nat := []
  ok : Bool := true
deriving DecidableEq, Repr

/-- The register use of a CVT type code (R115). -/
def cvtUse (code : Nat) : Use := if code == 2 || code == 3 || code == 7 then .pair else .reg

/-- The address base (R126). -/
def Ext.baseUse (x : Ext) : Use := if x.baseIsPair then .pair else .reg

/-- The data registers of a size (R131). -/
def Ext.sizeUse (x : Ext) : Use := if x.sizeCode == 4 then .quad else if x.sizeCode == 3 then .pair else .reg

/-- The data registers of an atomic (Table 7-6). -/
def Ext.atomUse (x : Ext) : Use := if x.atomWide then .pair else .reg

/-- The data registers of CAS (Table 7-5). -/
def Ext.casUse (x : Ext) : Use := if x.atomType == 2 then .pair else .reg

/-- The cell registers of a lattice operation (R139). -/
def Ext.cellUse (x : Ext) : Use := if x.modABits 1 0 == 2 then .quad else if x.modABits 1 0 == 1 then .pair else .reg

/-- The threshold registers of LDLT and LDLTN (R139). -/
def Ext.thrUse (x : Ext) : Use := if x.modABits 1 0 == 0 then .reg else .pair

/-- A predicate number as a list, 7 naming none. -/
def preds7 (n : Nat) : List Nat := if n = 7 then [] else [n]

/-- The extended fields of a base RR instruction (R38). -/
def Ext.ofRR (d b : RegIdx) (readsA : Bool) (lit : Option Dword) : Ext :=
  { guard := 7, la := 0, retain := 0, modA := 0, modB := 0, d := d, a := if readsA then d else 0, b := b, c := 0, imm := 0, lit := lit }

/-- The fields a base RI instruction shares with the extended form (R39). -/
def Ext.ofRI (d : RegIdx) (readsD : Bool) (lit : Option Dword) : Ext :=
  { guard := 7, la := 0, retain := 0, modA := 0, modB := 0, d := d, a := if readsD then d else 0, b := 0, c := 0, imm := 0, lit := lit }

/-- The form of a base RI instruction (R39); a literal stands in place of imm15. -/
def riForm (readsD : Bool) (imm : BitVec 15) (lit : Option Dword) (ok : Bool) : Form :=
  { d := .reg, a := if readsD then .reg else .none, lit := 32, ok := (lit == none || imm == 0) && ok }

/-- v of Table 2-3. -/
def riValue (imm : BitVec 15) (lit : Option Dword) : Word :=
  match lit with
  | some v => v.setWidth 32
  | none => imm.signExtend 32

/-- A shift count of a base RI shift (R39). -/
def riShiftOk (imm : BitVec 15) (lit : Option Dword) : Bool := decide ((riValue imm lit).toNat ≤ 31)

/-- The form of every instruction; a step of another agent has none. DESIGN CHOICE: TLBINV.all takes any size field (log entry 73). -/
def Instr.form (i : Instr) : Form :=
  match i with
  | .iaddBase d b lit => { d := .reg, a := .reg, b := .reg, lit := 32, ok := (Ext.ofRR d b true lit).modsIn 3 0 && (Ext.ofRR d b true lit).imm == 0 }
  | .isubBase d b lit => { d := .reg, a := .reg, b := .reg, lit := 32, ok := (Ext.ofRR d b true lit).modsIn 3 0 && (Ext.ofRR d b true lit).imm == 0 }
  | .iaddcBase d b lit => { d := .reg, a := .reg, b := .reg, c := .reg, lit := 32, ok := (Ext.ofRR d b true lit).modsIn 4 0 && (Ext.ofRR d b true lit).imm == 0 }
  | .iminBase d b lit => { d := .reg, a := .reg, b := .reg, lit := 32, ok := (Ext.ofRR d b true lit).modsIn 1 0 && (Ext.ofRR d b true lit).imm == 0 }
  | .imaxBase d b lit => { d := .reg, a := .reg, b := .reg, lit := 32, ok := (Ext.ofRR d b true lit).modsIn 1 0 && (Ext.ofRR d b true lit).imm == 0 }
  | .iabsBase d => { d := .reg, a := .reg, ok := (Ext.ofRR d 0 true none).modsIn 2 0 && (Ext.ofRR d 0 true none).imm == 0 }
  | .inegBase d => { d := .reg, a := .reg, ok := (Ext.ofRR d 0 true none).modsIn 3 0 && (Ext.ofRR d 0 true none).imm == 0 }
  | .iaminBase d b lit => { d := .reg, a := .reg, b := .reg, c := .reg, lit := 32, ok := (Ext.ofRR d b true lit).modsIn 3 0 && (Ext.ofRR d b true lit).imm == 0 }
  | .iamaxBase d b lit => { d := .reg, a := .reg, b := .reg, c := .reg, lit := 32, ok := (Ext.ofRR d b true lit).modsIn 3 0 && (Ext.ofRR d b true lit).imm == 0 }
  | .isadBase d b lit => { d := .reg, a := .reg, b := .reg, c := .reg, lit := 32, ok := (Ext.ofRR d b true lit).modsIn 3 0 && (Ext.ofRR d b true lit).imm == 0 }
  | .iadd64Base d b lit => { d := .pair, a := .pair, b := .pair, lit := 64, ok := (Ext.ofRR d b true lit).modsIn 3 0 && (Ext.ofRR d b true lit).imm == 0 }
  | .isub64Base d b lit => { d := .pair, a := .pair, b := .pair, lit := 64, ok := (Ext.ofRR d b true lit).modsIn 3 0 && (Ext.ofRR d b true lit).imm == 0 }
  | .shlBase d b lit => { d := .reg, a := .reg, b := .reg, lit := 32, ok := (Ext.ofRR d b true lit).plain }
  | .shrBase d b lit => { d := .reg, a := .reg, b := .reg, lit := 32, ok := (Ext.ofRR d b true lit).plain }
  | .sarBase d b lit => { d := .reg, a := .reg, b := .reg, lit := 32, ok := (Ext.ofRR d b true lit).plain }
  | .rotlBase d b lit => { d := .reg, a := .reg, b := .reg, lit := 32, ok := (Ext.ofRR d b true lit).plain }
  | .bandBase d b lit => { d := .reg, a := .reg, b := .reg, lit := 32, ok := (Ext.ofRR d b true lit).plain }
  | .borBase d b lit => { d := .reg, a := .reg, b := .reg, lit := 32, ok := (Ext.ofRR d b true lit).plain }
  | .bxorBase d b lit => { d := .reg, a := .reg, b := .reg, lit := 32, ok := (Ext.ofRR d b true lit).plain }
  | .bnotBase d => { d := .reg, a := .reg, ok := (Ext.ofRR d 0 true none).plain }
  | .bool3Base d b lit => { d := .reg, a := .reg, b := .reg, c := .reg, lit := 32, ok := (Ext.ofRR d b true lit).modsIn 0 0 && decide ((Ext.ofRR d b true lit).imm.toNat ≤ 255) }
  | .popcBase d => { d := .reg, a := .reg, ok := (Ext.ofRR d 0 true none).plain }
  | .clzBase d => { d := .reg, a := .reg, ok := (Ext.ofRR d 0 true none).plain }
  | .ctzBase d => { d := .reg, a := .reg, ok := (Ext.ofRR d 0 true none).plain }
  | .brevBase d => { d := .reg, a := .reg, ok := (Ext.ofRR d 0 true none).plain }
  | .bfeBase d b lit => { d := .reg, a := .reg, b := .reg, lit := 32, ok := (Ext.ofRR d b true lit).modsIn 1 0 && (Ext.ofRR d b true lit).imm == 0 }
  | .bfiBase d b lit => { d := .reg, a := .reg, b := .reg, c := .reg, lit := 32, ok := (Ext.ofRR d b true lit).plain }
  | .funnelBase d b lit => { d := .reg, a := .reg, b := .reg, c := .reg, lit := 32, ok := (Ext.ofRR d b true lit).plain }
  | .shl64Base d b lit => { d := .pair, a := .pair, b := .pair, lit := 64, ok := (Ext.ofRR d b true lit).plain }
  | .shr64Base d b lit => { d := .pair, a := .pair, b := .pair, lit := 64, ok := (Ext.ofRR d b true lit).plain }
  | .sar64Base d b lit => { d := .pair, a := .pair, b := .pair, lit := 64, ok := (Ext.ofRR d b true lit).plain }
  | .faddBase d b lit => { d := .reg, a := .reg, b := .reg, lit := 32, ok := (Ext.ofRR d b true lit).fmtOk false && (Ext.ofRR d b true lit).imm == 0 }
  | .fsubBase d b lit => { d := .reg, a := .reg, b := .reg, lit := 32, ok := (Ext.ofRR d b true lit).fmtOk false && (Ext.ofRR d b true lit).imm == 0 }
  | .fmulBase d b lit => { d := .reg, a := .reg, b := .reg, lit := 32, ok := (Ext.ofRR d b true lit).fmtOk false && (Ext.ofRR d b true lit).imm == 0 }
  | .ffmaBase d b lit => { d := .reg, a := .reg, b := .reg, c := .reg, lit := 32, ok := (Ext.ofRR d b true lit).fmtOk false && (Ext.ofRR d b true lit).imm == 0 }
  | .fminBase d b lit => { d := .reg, a := .reg, b := .reg, lit := 32, ok := (Ext.ofRR d b true lit).fmtOk false && (Ext.ofRR d b true lit).roundA == 0 && (Ext.ofRR d b true lit).imm == 0 }
  | .fmaxBase d b lit => { d := .reg, a := .reg, b := .reg, lit := 32, ok := (Ext.ofRR d b true lit).fmtOk false && (Ext.ofRR d b true lit).roundA == 0 && (Ext.ofRR d b true lit).imm == 0 }
  | .movBase d b lit => { d := (if (Ext.ofRR d b false lit).modA.getLsbD 0 then .pair else .reg), b := (if (Ext.ofRR d b false lit).modA.getLsbD 0 then .pair else .reg), lit := (if (Ext.ofRR d b false lit).modA.getLsbD 0 then 64 else 32), ok := (Ext.ofRR d b false lit).modsIn 1 0 && (Ext.ofRR d b false lit).imm == 0 }
  | .addi _ imm lit => riForm true imm lit true
  | .moviBase _ imm lit => riForm false imm lit true
  | .andi _ imm lit => riForm true imm lit true
  | .shli _ imm lit => riForm true imm lit (riShiftOk imm lit)
  | .shri _ imm lit => riForm true imm lit (riShiftOk imm lit)
  | .sari _ imm lit => riForm true imm lit (riShiftOk imm lit)
  | .braBase cond _ => { boundary := true, predReads := [cond.toNat % 8] }
  | .rjmarkBase _ => { boundary := true, guarded := false }
  | .rjwaitBase _ => { boundary := true, guarded := false }
  | .sealBase _ _ => { boundary := true, guarded := false, d := .name, a := .name }
  | .yieldBase _ _ => { boundary := true }
  | .tailBase => { boundary := true }
  | .exitBase => { boundary := true }
  | .trapBase _ => { boundary := true }
  | .brkBase _ => { boundary := true }
  | .iadd x => { d := .reg, a := .reg, b := .reg, lit := 32, ok := x.modsIn 3 0 && x.imm == 0 }
  | .isub x => { d := .reg, a := .reg, b := .reg, lit := 32, ok := x.modsIn 3 0 && x.imm == 0 }
  | .iaddc x => { d := .reg, a := .reg, b := .reg, c := .reg, lit := 32, ok := x.modsIn 4 0 && x.imm == 0 }
  | .imin x => { d := .reg, a := .reg, b := .reg, lit := 32, ok := x.modsIn 1 0 && x.imm == 0 }
  | .imax x => { d := .reg, a := .reg, b := .reg, lit := 32, ok := x.modsIn 1 0 && x.imm == 0 }
  | .iabs x => { d := .reg, a := .reg, ok := x.modsIn 2 0 && x.imm == 0 }
  | .ineg x => { d := .reg, a := .reg, ok := x.modsIn 3 0 && x.imm == 0 }
  | .iamin x => { d := .reg, a := .reg, b := .reg, c := .reg, lit := 32, ok := x.modsIn 3 0 && x.imm == 0 }
  | .iamax x => { d := .reg, a := .reg, b := .reg, c := .reg, lit := 32, ok := x.modsIn 3 0 && x.imm == 0 }
  | .isad x => { d := .reg, a := .reg, b := .reg, c := .reg, lit := 32, ok := x.modsIn 3 0 && x.imm == 0 }
  | .iadd64 x => { d := .pair, a := .pair, b := .pair, lit := 64, ok := x.modsIn 3 0 && x.imm == 0 }
  | .isub64 x => { d := .pair, a := .pair, b := .pair, lit := 64, ok := x.modsIn 3 0 && x.imm == 0 }
  | .lea x => { d := .reg, a := .reg, b := .reg, lit := 32, ok := x.modsIn 0 0 && decide (x.imm.toNat ≤ 31) }
  | .lea64 x => { d := .pair, a := .pair, b := .reg, lit := 32, ok := x.modsIn 1 0 && decide (x.imm.toNat ≤ 31) }
  | .imul x => { d := .reg, a := .reg, b := .reg, lit := 32, ok := x.modsIn 3 0 && x.imm == 0 }
  | .imulh x => { d := .reg, a := .reg, b := .reg, lit := 32, ok := x.modsIn 1 0 && x.imm == 0 }
  | .imad x => { d := .reg, a := .reg, b := .reg, c := .reg, lit := 32, ok := x.modsIn 3 0 && x.imm == 0 }
  | .imulw x => { d := .pair, a := .reg, b := .reg, lit := 32, ok := x.modsIn 1 0 && x.imm == 0 }
  | .imadw x => { d := .pair, a := .reg, b := .reg, c := .pair, lit := 32, ok := x.modsIn 3 0 && x.imm == 0 }
  | .idiv x => { d := .reg, a := .reg, b := .reg, lit := 32, longLatency := true, ok := x.modsIn 3 0 && x.imm == 0 }
  | .irem x => { d := .reg, a := .reg, b := .reg, lit := 32, longLatency := true, ok := x.modsIn 1 0 && x.imm == 0 }
  | .shl x => { d := .reg, a := .reg, b := .reg, lit := 32, ok := x.plain }
  | .shr x => { d := .reg, a := .reg, b := .reg, lit := 32, ok := x.plain }
  | .sar x => { d := .reg, a := .reg, b := .reg, lit := 32, ok := x.plain }
  | .rotl x => { d := .reg, a := .reg, b := .reg, lit := 32, ok := x.plain }
  | .band x => { d := .reg, a := .reg, b := .reg, lit := 32, ok := x.plain }
  | .bor x => { d := .reg, a := .reg, b := .reg, lit := 32, ok := x.plain }
  | .bxor x => { d := .reg, a := .reg, b := .reg, lit := 32, ok := x.plain }
  | .bnot x => { d := .reg, a := .reg, ok := x.plain }
  | .bool3 x => { d := .reg, a := .reg, b := .reg, c := .reg, lit := 32, ok := x.modsIn 0 0 && decide (x.imm.toNat ≤ 255) }
  | .popc x => { d := .reg, a := .reg, ok := x.plain }
  | .clz x => { d := .reg, a := .reg, ok := x.plain }
  | .ctz x => { d := .reg, a := .reg, ok := x.plain }
  | .brev x => { d := .reg, a := .reg, ok := x.plain }
  | .bfe x => { d := .reg, a := .reg, b := .reg, lit := 32, ok := x.modsIn 1 0 && x.imm == 0 }
  | .bfi x => { d := .reg, a := .reg, b := .reg, c := .reg, lit := 32, ok := x.plain }
  | .funnel x => { d := .reg, a := .reg, b := .reg, c := .reg, lit := 32, ok := x.plain }
  | .shl64 x => { d := .pair, a := .pair, b := .pair, lit := 64, ok := x.plain }
  | .shr64 x => { d := .pair, a := .pair, b := .pair, lit := 64, ok := x.plain }
  | .sar64 x => { d := .pair, a := .pair, b := .pair, lit := 64, ok := x.plain }
  | .iset x => { d := .pred, a := .reg, b := .reg, lit := 32, predReads := [x.modBBits 2 0], ok := x.relOk 5 && x.imm == 0 }
  | .iset64 x => { d := .pred, a := .pair, b := .pair, lit := 64, predReads := [x.modBBits 2 0], ok := x.relOk 5 && x.imm == 0 }
  | .fset x => { d := .pred, a := .reg, b := .reg, lit := 32, predReads := [x.modBBits 2 0], ok := x.relOk 7 && x.imm == 0 }
  | .fset64 x => { d := .pred, a := .pair, b := .pair, lit := 64, predReads := [x.modBBits 2 0], ok := x.relOk 7 && x.imm == 0 }
  | .pset x => { d := .pred, a := .pred, b := .pred, c := .pred, ok := x.modsIn 0 0 && decide (x.imm.toNat ≤ 255) }
  | .sel x => { d := .reg, a := .reg, b := .reg, c := .selPred, lit := 32, ok := x.plain }
  | .pmovGet x => { d := .reg, predReads := [0, 1, 2, 3, 4, 5, 6], ok := x.plain }
  | .pmovPut x => { a := .reg, predWrites := ((List.range 7).filter fun n => x.imm.getLsbD n), ok := x.modA == 1 && x.modB == 0 && decide (x.imm.toNat ≤ 127) }
  | .fadd x => { d := .reg, a := .reg, b := .reg, lit := 32, ok := x.fmtOk false && x.imm == 0 }
  | .fsub x => { d := .reg, a := .reg, b := .reg, lit := 32, ok := x.fmtOk false && x.imm == 0 }
  | .fmul x => { d := .reg, a := .reg, b := .reg, lit := 32, ok := x.fmtOk false && x.imm == 0 }
  | .ffma x => { d := .reg, a := .reg, b := .reg, c := .reg, lit := 32, ok := x.fmtOk false && x.imm == 0 }
  | .fmin x => { d := .reg, a := .reg, b := .reg, lit := 32, ok := x.fmtOk false && x.roundA == 0 && x.imm == 0 }
  | .fmax x => { d := .reg, a := .reg, b := .reg, lit := 32, ok := x.fmtOk false && x.roundA == 0 && x.imm == 0 }
  | .fdiv x => { d := .reg, a := .reg, b := .reg, lit := 32, longLatency := true, ok := x.fmtOk false && x.imm == 0 }
  | .fsqrt x => { d := .reg, a := .reg, longLatency := true, ok := x.fmtOk false && x.imm == 0 }
  | .fscale x => { d := .reg, a := .reg, b := .reg, lit := 32, ok := x.fmtOk false && x.imm == 0 }
  | .frnd x => { d := .reg, a := .reg, ok := x.fmtOk false && x.imm == 0 }
  | .fadd64 x => { d := .pair, a := .pair, b := .pair, lit := 64, ok := x.fmtOk false && x.imm == 0 }
  | .fsub64 x => { d := .pair, a := .pair, b := .pair, lit := 64, ok := x.fmtOk false && x.imm == 0 }
  | .fmul64 x => { d := .pair, a := .pair, b := .pair, lit := 64, ok := x.fmtOk false && x.imm == 0 }
  | .ffma64 x => { d := .pair, a := .pair, b := .pair, c := .pair, lit := 64, ok := x.fmtOk false && x.imm == 0 }
  | .fmin64 x => { d := .pair, a := .pair, b := .pair, lit := 64, ok := x.fmtOk false && x.roundA == 0 && x.imm == 0 }
  | .fmax64 x => { d := .pair, a := .pair, b := .pair, lit := 64, ok := x.fmtOk false && x.roundA == 0 && x.imm == 0 }
  | .fdiv64 x => { d := .pair, a := .pair, b := .pair, lit := 64, longLatency := true, ok := x.fmtOk false && x.imm == 0 }
  | .fsqrt64 x => { d := .pair, a := .pair, longLatency := true, ok := x.fmtOk false && x.imm == 0 }
  | .fscale64 x => { d := .pair, a := .pair, b := .reg, lit := 32, ok := x.fmtOk false && x.imm == 0 }
  | .frnd64 x => { d := .pair, a := .pair, ok := x.fmtOk false && x.imm == 0 }
  | .hadd2 x => { d := .reg, a := .reg, b := .reg, lit := 32, ok := x.fmtOk true && x.imm == 0 }
  | .hmul2 x => { d := .reg, a := .reg, b := .reg, lit := 32, ok := x.fmtOk true && x.imm == 0 }
  | .hfma2 x => { d := .reg, a := .reg, b := .reg, c := .reg, lit := 32, ok := x.fmtOk true && x.imm == 0 }
  | .hmin2 x => { d := .reg, a := .reg, b := .reg, lit := 32, ok := x.fmtOk true && x.roundA == 0 && x.imm == 0 }
  | .hmax2 x => { d := .reg, a := .reg, b := .reg, lit := 32, ok := x.fmtOk true && x.roundA == 0 && x.imm == 0 }
  | .cvt x => { d := (cvtUse x.cvtDst), a := (cvtUse x.cvtSrc), ok := x.fmtBOk && x.imm == 0 }
  | .cvtpk x => { d := .reg, a := .reg, b := .reg, lit := 32, ok := decide (x.modA.toNat ≤ 1) && x.fmtBOk && x.imm == 0 }
  | .cvtx x => { d := .reg, a := .reg, ok := decide (x.modA.toNat ≤ 1) && x.fmtBOk && x.roundB == 0 && decide (x.imm.toNat ≤ 1) }
  | .rcp x => { d := .reg, a := .reg, longLatency := true, ok := x.modsIn 24 0 && decide (x.flushA ≤ 2) && x.imm == 0 }
  | .rsq x => { d := .reg, a := .reg, longLatency := true, ok := x.modsIn 24 0 && decide (x.flushA ≤ 2) && x.imm == 0 }
  | .ex2 x => { d := .reg, a := .reg, longLatency := true, ok := x.modsIn 24 0 && decide (x.flushA ≤ 2) && x.imm == 0 }
  | .lg2 x => { d := .reg, a := .reg, longLatency := true, ok := x.modsIn 24 0 && decide (x.flushA ≤ 2) && x.imm == 0 }
  | .sin x => { d := .reg, a := .reg, longLatency := true, ok := x.modsIn 24 0 && decide (x.flushA ≤ 2) && x.imm == 0 }
  | .cos x => { d := .reg, a := .reg, longLatency := true, ok := x.modsIn 24 0 && decide (x.flushA ≤ 2) && x.imm == 0 }
  | .tanh x => { d := .reg, a := .reg, longLatency := true, ok := x.modsIn 24 0 && decide (x.flushA ≤ 2) && x.imm == 0 }
  | .rand x => { d := .reg, a := .reg, b := .reg, lit := 32, longLatency := true, ok := x.modsIn 1 0 && x.imm == 0 }
  | .shfl x => { d := .reg, a := .reg, b := (if x.shflConst then .none else .reg), predWrites := (preds7 (x.immBits 2 0)), ok := x.shflOk }
  | .shflx x => { d := .pair, a := .pair, b := (if x.shflConst then .none else .reg), predWrites := (preds7 (x.immBits 2 0)), ok := x.shflOk }
  | .lsh x => { d := .reg, a := .reg, c := .reg, ok := x.modsIn 1 0 && decide (x.imm.toNat ≤ 255) && decide (x.width5 ≤ 5) }
  | .vote x => { d := .pred, predReads := [x.modABits 5 3], ok := decide (x.modABits 2 0 ≤ 5) && decide (x.modB.toNat ≤ 1) && decide (x.imm.toNat ≤ 5) }
  | .ballot x => { d := .reg, predReads := [x.modABits 2 0], ok := x.modsIn 15 0 && decide (x.imm.toNat ≤ 5) }
  | .matchKey x => { d := .reg, a := (if x.modA.getLsbD 0 then .pair else .reg), ok := x.modsIn 3 0 && decide (x.imm.toNat ≤ 5) }
  | .reduce x => { d := .reg, a := .reg, ok := decide (x.modA.toNat ≤ 10) && x.modB == 0 && decide (x.imm.toNat ≤ 5) }
  | .scan x => { d := .reg, a := .reg, ok := decide (x.modABits 3 0 ≤ 10) && x.modsIn 31 0 && decide (x.imm.toNat ≤ 5) }
  | .had32 x => { d := .reg, a := .reg, ok := x.modsIn 1 0 && x.imm == 0 }
  | .qblk x => { d := .reg, a := .reg, ok := x.modsIn 1 0 && decide (1 ≤ x.imm.toNat) && decide (x.imm.toNat ≤ 15) }
  | .dqblk x => { d := .reg, a := .reg, ok := x.modsIn 1 0 && x.imm == 0 }
  | .mov x => { d := (if x.modA.getLsbD 0 then .pair else .reg), b := (if x.modA.getLsbD 0 then .pair else .reg), lit := (if x.modA.getLsbD 0 then 64 else 32), ok := x.modsIn 1 0 && x.imm == 0 }
  | .movi x => { d := (if x.modA.getLsbD 0 then .pair else .reg), ok := x.modsIn 1 0 }
  | .sread x => { d := (if x.sregWide then .pair else .reg), ok := x.modsIn 0 0 && x.sreadOk }
  | .swrite x => { a := (if x.imm == 0x19 then .pair else .reg), boundary := true, ok := x.modsIn 0 0 && x.swriteOk }
  | .wid x => { d := .pair, ok := x.modsIn 0 0 && x.widOk }
  | .kset x => { a := (if x.modB == 1 then .reg else .none), boundary := true, ok := decide (x.modA.toNat ≤ 7) && ((x.modB == 0 && decide (1 ≤ x.imm.toNat) && decide (x.imm.toNat ≤ 1024)) || (x.modB == 1 && x.imm == 0)) }
  | .ld x => { d := x.sizeUse, a := x.baseUse, longLatency := true, ok := x.ldOk }
  | .ldparam x => { d := x.sizeUse, longLatency := true, ok := x.ldparamOk }
  | .prefetch x => { a := x.baseUse, ok := x.modA == 0 && x.addrModeOk }
  | .st x => { a := x.baseUse, b := x.sizeUse, lit := x.stLit, ok := x.stOk }
  | .atom x => { d := x.atomUse, a := x.baseUse, b := x.atomUse, boundary := true, ok := x.atomTypeOk && x.addrModeOk && x.orderOk [0, 1, 2, 3, 4] }
  | .cas x => { d := x.casUse, a := x.baseUse, b := x.casUse, c := x.casUse, boundary := true, ok := (x.modA == 0 || x.modA == 32) && x.addrModeOk && x.orderOk [0, 1, 2, 3, 4] }
  | .red x => { a := x.baseUse, b := x.atomUse, boundary := true, ok := x.atomTypeOk && !(x.atomOp == 6) && x.addrModeOk && x.orderOk [0, 2] }
  | .join x => { a := x.baseUse, b := x.cellUse, boundary := true, ok := decide (x.modA.toNat ≤ 2) && x.addrModeOk && x.orderOk [0, 2] }
  | .jinc x => { a := x.baseUse, b := .reg, boundary := true, ok := x.modA == 0 && x.addrModeOk && x.orderOk [0, 2] }
  | .ldlt x => { d := x.cellUse, a := x.baseUse, b := x.thrUse, c := .pred, boundary := true, writesC := true, ok := decide (x.modA.toNat ≤ 2) && x.addrModeOk && x.orderOk [0, 1] }
  | .ldltn x => { d := x.cellUse, a := x.baseUse, b := x.thrUse, c := .pred, boundary := true, writesC := true, ok := decide (x.modA.toNat ≤ 2) && x.addrModeOk && x.orderOk [0, 1] && x.imm.toNat % 65536 == 0 }
  | .xflush x => { a := x.baseUse, boundary := true, ok := x.modA == 0 && x.addrModeOk && x.imm == 0 }
  | .fence x => { boundary := true, ok := x.modsIn 0 0 && x.orderOk [1, 2, 3, 4] && x.imm.toNat % 131072 == 0 }
  | .qfence x => { boundary := true, ok := x.modsIn 0 0 && decide (x.imm.toNat ≤ 255) && x.imm.toNat % 16 != 0 && x.imm.toNat / 16 != 0 }
  | .copy x => { a := .pair, b := .pair, c := .pair, boundary := true, ok := decide (x.modA.toNat ≤ 2) && x.modB == 0 && x.imm == 0 }
  | .bulkIn x => { a := .pair, b := .pair, c := .quad, boundary := true, ok := x.modB == 0 }
  | .bulkOut x => { a := .pair, b := .pair, c := .quad, boundary := true, ok := x.modB == 1 }
  | .mcast x => { a := .pair, boundary := true, ok := x.modB == 0 && decide (x.imm.toNat < 1048576) }
  | .mcrecv x => { a := .pair, boundary := true, ok := x.modB == 0 && decide (x.imm.toNat ≤ 255) }
  | .tiledef x => { a := x.baseUse, boundary := true, ok := x.addrModeOk && decide (64 ≤ x.imm.toNat) && decide (x.imm.toNat ≤ 4194240) && x.imm.toNat % 64 == 0 }
  | .tilefree x => { boundary := true, ok := x.modB == 0 && x.imm == 0 }
  | .tileq x => { d := .reg, boundary := true, ok := x.modB == 0 && x.imm == 0 }
  | .barinit x => { a := x.baseUse, boundary := true, ok := x.modA == 0 && x.addrModeOk && decide (1 ≤ x.imm.toNat) && decide (x.imm.toNat ≤ 65535) }
  | .bararr x => { a := x.baseUse, boundary := true, ok := decide (x.modA.toNat ≤ 1) && x.addrModeOk && decide (x.imm.toNat ≤ 4194303) }
  | .barwait x => { a := x.baseUse, b := (if x.modA == 1 then .reg else .none), c := .pred, boundary := true, writesC := true, ok := decide (x.modA.toNat ≤ 1) && x.addrModeOk && (if x.modA == 1 then x.imm == 0 else decide (x.imm.toNat ≤ 15)) }
  | .bartest x => { a := x.baseUse, b := (if x.modA == 1 then .reg else .none), c := .pred, boundary := true, writesC := true, ok := decide (x.modA.toNat ≤ 1) && x.addrModeOk && (if x.modA == 1 then x.imm == 0 else decide (x.imm.toNat ≤ 15)) }
  | .bardrop x => { a := x.baseUse, boundary := true, ok := x.modA == 0 && x.addrModeOk && x.imm == 0 }
  | .wsync x => { boundary := true, guarded := false, ok := x.plain }
  | .gsync x => { boundary := true, guarded := false, ok := x.plain }
  | .sclaim x => { d := .reg, c := .pred, boundary := true, writesC := true, ok := x.modsIn 1 0 && x.imm == 0 }
  | .srel x => { a := .reg, boundary := true, ok := x.modsIn 1 0 && x.imm == 0 }
  | .sldt x => { a := .reg, boundary := true, ok := x.modB == 0 && decide (x.imm.toNat ≤ 7) }
  | .sstt x => { a := .reg, boundary := true, ok := x.modB == 0 && x.imm == 0 }
  | .pack x => { a := .reg, b := (.run x.runCount), c := .reg, boundary := true, ok := x.modsIn 1 0 && decide (x.imm.toNat < 524288) }
  | .unpack x => { d := (.run x.runCount), a := .reg, b := .reg, boundary := true, ok := x.modsIn 1 0 && decide (x.imm.toNat < 524288) }
  | .azero x => { a := .reg, boundary := true, ok := x.plain }
  | .mma x => { a := .reg, b := .reg, c := .pair, boundary := true, ok := x.modsIn 7 0 && x.imm == 0 }
  | .kread x => { d := .pair, boundary := true, ok := x.modsIn 7 0 && x.imm == 0 }
  | .dtctx x => { a := .pair, boundary := true, ok := x.modsIn 3 0 && x.imm == 0 }
  | .dt2 x => { d := .pair, a := .pair, b := .pair, c := .reg, longLatency := true, writesC := true, readsC := x.cont, ok := x.modsIn 7 0 && !(x.cont && x.c == 0) && x.imm == 0 }
  | .dt1 x => { d := .pair, a := .pair, c := .reg, longLatency := true, writesC := true, readsC := x.cont, ok := x.modsIn 7 0 && !(x.cont && x.c == 0) && x.imm == 0 }
  | .dtcmp x => { d := .reg, a := .pair, b := .pair, c := .pred, longLatency := true, writesC := true, readsD := x.cont, ok := x.modsIn 31 0 && decide (x.flushA ≤ 2) && !(x.cont && x.d == 0) && x.imm == 0 }
  | .dteval x => { d := .pair, a := .pair, c := .pred, longLatency := true, writesC := true, ok := x.modsIn 3 0 && x.imm == 0 }
  | .dtstat x => { d := .pred, a := .reg, ok := decide (x.modA.toNat ≤ 2) && x.modB == 0 && x.imm == 0 }
  | .bra x => { boundary := true, ok := x.modsIn 0 0 }
  | .brx x => { a := .pair, boundary := true, ok := x.plain }
  | .brv x => { boundary := true, predReads := [x.modABits 2 0], ok := x.modB == 0 && decide (x.modA.toNat / 16 ≤ 2) }
  | .call x => { d := .pair, boundary := true, ok := x.modsIn 0 0 }
  | .callx x => { d := .pair, a := .pair, boundary := true, ok := x.plain }
  | .ret x => { a := .pair, boundary := true, ok := x.plain }
  | .rjmark x => { boundary := true, guarded := false, ok := x.modsIn 15 0 && x.imm == 0 }
  | .rjwait x => { boundary := true, guarded := false, ok := x.modsIn 7 0 && x.imm == 0 }
  | .rjdrop x => { boundary := true, guarded := false, ok := x.modsIn 7 0 && x.imm == 0 }
  | .rjread x => { d := .reg, boundary := true, ok := x.modsIn 7 0 && x.imm == 0 }
  | .sealExt x => { d := .name, a := .name, b := .name, c := .name, boundary := true, guarded := false, ok := x.plain }
  | .yield x => { boundary := true, ok := decide (x.modA.toNat ≤ 15) && x.imm == 0 }
  | .tail x => { boundary := true, ok := x.plain }
  | .exit x => { boundary := true, ok := x.plain }
  | .nap x => { boundary := true, ok := x.modsIn 0 0 && decide (x.imm.toNat ≤ 4194303) }
  | .trap x => { boundary := true, ok := x.modsIn 0 0 && decide (x.imm.toNat ≤ 65535) }
  | .brk x => { boundary := true, ok := x.modsIn 0 0 && decide (x.imm.toNat ≤ 65535) }
  | .eret x => { boundary := true, guarded := false, ok := x.plain }
  | .launch x => { d := .reg, a := .pair, b := .pair, boundary := true, ok := x.plain }
  | .spill x => { a := .reg, boundary := true, ok := x.modsIn 0 0 && decide (x.imm.toNat ≤ 4095) }
  | .fill x => { d := .reg, boundary := true, ok := x.modsIn 0 0 && decide (x.imm.toNat ≤ 4095) }
  | .tlbinv x => { d := .reg, a := (if x.modA.getLsbD 2 then .none else .pair), b := (if x.modA.getLsbD 2 then .none else .reg), boundary := true, privileged := true, ok := x.modsIn 7 0 && x.imm == 0 }
  | .rgnset x => { d := .reg, a := .pair, boundary := true, privileged := true, ok := x.modsIn 0 0 && decide (x.imm.toNat ≤ 15) }
  | .smap x => { d := .reg, a := .pair, b := .pair, c := .reg, boundary := true, privileged := true, ok := x.plain }
  | .ctxsave x => { d := .reg, a := .reg, b := .pair, boundary := true, privileged := true, ok := x.plain }
  | .ctxload x => { d := .reg, a := .reg, b := .pair, boundary := true, privileged := true, ok := x.plain }
  | .pmctlRead x => { d := .pair, boundary := true, privileged := true, ok := x.modA == 0 && x.modB == 0 && decide (x.imm.toNat ≤ 63) }
  | .pmctlSel x => { a := .reg, boundary := true, privileged := true, ok := x.modA == 1 && x.modB == 0 && decide (x.imm.toNat ≤ 63) }
  | .pmctlStart x => { boundary := true, privileged := true, ok := x.modA == 2 && x.modB == 0 && decide (x.imm.toNat ≤ 63) }
  | .pmctlStop x => { boundary := true, privileged := true, ok := x.modA == 3 && x.modB == 0 && decide (x.imm.toNat ≤ 63) }
  | .pmctlClr x => { boundary := true, privileged := true, ok := x.modA == 4 && x.modB == 0 && decide (x.imm.toNat ≤ 63) }
  | .pgpin x => { d := .reg, a := .pair, b := .reg, boundary := true, privileged := true, ok := x.modsIn 11 0 && x.imm == 0 }
  | .spanSeal _ => { boundary := true, ok := false }
  | .slowGear _ => { boundary := true, ok := false }
  | .slowGearComplete _ => { boundary := true, ok := false }
  | .loadDataReturn _ _ => { boundary := true, ok := false }
  | .memoryAccessPerform _ => { boundary := true, ok := false }
  | .badgerSettle _ _ => { boundary := true, ok := false }
  | .operandLogReplay _ => { boundary := true, ok := false }
  | .evictionWritebackComplete _ _ _ => { boundary := true, ok := false }
  | .faultReply _ _ _ => { boundary := true, ok := false }
  | .faultQueueTimeout _ _ => { boundary := true, ok := false }
  | .watchdogFault _ => { boundary := true, ok := false }
  | .napEnd _ => { boundary := true, ok := false }
  | .ldltTimeout _ => { boundary := true, ok := false }
  | .copyComplete _ => { boundary := true, ok := false }
  | .walkTileComplete _ => { boundary := true, ok := false }
  | .bulkComplete _ => { boundary := true, ok := false }
  | .mcastParked _ => { boundary := true, ok := false }
  | .mcrecvComplete _ => { boundary := true, ok := false }
  | .matrixEntryStart _ => { boundary := true, ok := false }
  | .matrixEntryComplete _ => { boundary := true, ok := false }
  | .exitComplete _ => { boundary := true, ok := false }
  | .trackerEntryFree _ _ => { boundary := true, ok := false }
  | .owlRound _ _ => { boundary := true, ok := false }
  | .owlMerge _ => { boundary := true, ok := false }
  | .latticeWindowWrite _ _ _ _ => { boundary := true, ok := false }
  | .commandCellWrite _ _ => { boundary := true, ok := false }
  | .create _ => { boundary := true, ok := false }
  | .destroy _ => { boundary := true, ok := false }
  | .setreg _ => { boundary := true, ok := false }
  | .getreg _ => { boundary := true, ok := false }
  | .suspend _ => { boundary := true, ok := false }
  | .resume _ => { boundary := true, ok := false }
  | .fencedie _ => { boundary := true, ok := false }
  | .gangRangeHandout _ _ => { boundary := true, ok := false }
  | .gangPlace _ => { boundary := true, ok := false }
  | .placementComplete _ => { boundary := true, ok := false }
  | .gangRetire _ => { boundary := true, ok := false }
  | .launchEnd _ _ => { boundary := true, ok := false }
  | .replayGateTimeout _ => { boundary := true, ok := false }
  | .replayStuckAdmit _ _ => { boundary := true, ok := false }
  | .launchMerge _ _ => { boundary := true, ok := false }
  | .preemptionStart _ => { boundary := true, ok := false }
  | .drainComplete _ => { boundary := true, ok := false }
  | .saveComplete _ => { boundary := true, ok := false }
  | .gangResume _ => { boundary := true, ok := false }
  | .resumeComplete _ => { boundary := true, ok := false }
  | .gangLevelFault _ _ => { boundary := true, ok := false }
  | .dieFence _ => { boundary := true, ok := false }
  | .powerGood => { boundary := true, ok := false }
  | .functionStartupComplete _ => { boundary := true, ok := false }
  | .startupBoundExpiry _ => { boundary := true, ok := false }
  | .linkRetryFailure _ => { boundary := true, ok := false }
  | .peerUnreachableTimeout _ => { boundary := true, ok := false }
  | .peerRequestReceive _ => { boundary := true, ok := false }
  | .ethernetRetransmit _ => { boundary := true, ok := false }
  | .engineSliceStart _ => { boundary := true, ok := false }
  | .budgetRefill => { boundary := true, ok := false }
  | .thermalThrottle => { boundary := true, ok := false }
  | .thermalPowerOff => { boundary := true, ok := false }
  | .powercapWrite _ => { boundary := true, ok := false }
  | .peerRouteWrite _ _ => { boundary := true, ok := false }
  | .barRegisterWrite _ _ _ _ => { boundary := true, ok := false }
  | .getVersion _ => { boundary := true, ok := false }
  | .getCapabilities _ => { boundary := true, ok := false }
  | .negotiateAlgorithms _ => { boundary := true, ok := false }
  | .getDigests _ => { boundary := true, ok := false }
  | .getCertificate _ => { boundary := true, ok := false }
  | .challenge _ => { boundary := true, ok := false }
  | .getMeasurements _ => { boundary := true, ok := false }
  | .keyExchange _ => { boundary := true, ok := false }
  | .finish _ => { boundary := true, ok := false }
  | .ideKm _ => { boundary := true, ok := false }
  | .lockInterface _ => { boundary := true, ok := false }
  | .stopInterface _ => { boundary := true, ok := false }
  | .tdispBreach _ => { boundary := true, ok := false }
  | .functionFailure _ => { boundary := true, ok := false }
  | .startInterface _ => { boundary := true, ok := false }
  | .powerAboveCap => { boundary := true, ok := false }

end Sys2Proof
end

