-- ==== Sys2Proof/WellFormed.lean ====
section
/-! DEFINITION. Well-formed instructions: step 2 of Table 2-9 as far as the instruction alone decides it (R51). -/

namespace Sys2Proof

/-- The index may stand in a field of this use (R10, R11, R41, R84, R85, R111, R169). -/
def Use.fits (u : Use) (boundary : Bool) (i : RegIdx) : Bool :=
  let inside := !boundary || decide (i.toNat < 496)
  match u with
  | .none => i == 0
  | .reg => inside
  | .pair => i.toNat % 2 == 0 && inside
  | .quad => i.toNat % 4 == 0 && inside
  | .pred => decide (i.toNat < 8)
  | .selPred => decide (i.toNat < 16)
  | .name => decide (i.toNat < 496)
  | .run k => decide (0 < i.toNat) && decide (i.toNat + k ≤ 496)

/-- The B field, or the literal in its place (R47, R48). -/
def Ext.fitsB (x : Ext) (f : Form) : Bool :=
  match x.lit with
  | none => f.b.fits f.boundary x.b
  | some v => x.b == 0 && (f.lit == 64 || (f.lit == 32 && decide (v.toNat < 4294967296)))

/-- The fields fit the form. -/
def Ext.fits (x : Ext) (f : Form) : Bool :=
  f.ok && (f.guarded || x.guard == 7) && f.d.fits f.boundary x.d && f.a.fits f.boundary x.a && x.fitsB f &&
    f.c.fits f.boundary x.c

/-- No field. -/
def Ext.zero : Ext :=
  { guard := 7, la := 0, retain := 0, modA := 0, modB := 0, d := 0, a := 0, b := 0, c := 0, imm := 0, lit := none }

/-- The operand fields of an instruction; a step of another agent has none. -/
def Instr.ext (i : Instr) : Ext :=
  match i with
  | .iaddBase d b lit => Ext.ofRR d b true lit
  | .isubBase d b lit => Ext.ofRR d b true lit
  | .iaddcBase d b lit => Ext.ofRR d b true lit
  | .iminBase d b lit => Ext.ofRR d b true lit
  | .imaxBase d b lit => Ext.ofRR d b true lit
  | .iabsBase d => Ext.ofRR d 0 true none
  | .inegBase d => Ext.ofRR d 0 true none
  | .iaminBase d b lit => Ext.ofRR d b true lit
  | .iamaxBase d b lit => Ext.ofRR d b true lit
  | .isadBase d b lit => Ext.ofRR d b true lit
  | .iadd64Base d b lit => Ext.ofRR d b true lit
  | .isub64Base d b lit => Ext.ofRR d b true lit
  | .shlBase d b lit => Ext.ofRR d b true lit
  | .shrBase d b lit => Ext.ofRR d b true lit
  | .sarBase d b lit => Ext.ofRR d b true lit
  | .rotlBase d b lit => Ext.ofRR d b true lit
  | .bandBase d b lit => Ext.ofRR d b true lit
  | .borBase d b lit => Ext.ofRR d b true lit
  | .bxorBase d b lit => Ext.ofRR d b true lit
  | .bnotBase d => Ext.ofRR d 0 true none
  | .bool3Base d b lit => Ext.ofRR d b true lit
  | .popcBase d => Ext.ofRR d 0 true none
  | .clzBase d => Ext.ofRR d 0 true none
  | .ctzBase d => Ext.ofRR d 0 true none
  | .brevBase d => Ext.ofRR d 0 true none
  | .bfeBase d b lit => Ext.ofRR d b true lit
  | .bfiBase d b lit => Ext.ofRR d b true lit
  | .funnelBase d b lit => Ext.ofRR d b true lit
  | .shl64Base d b lit => Ext.ofRR d b true lit
  | .shr64Base d b lit => Ext.ofRR d b true lit
  | .sar64Base d b lit => Ext.ofRR d b true lit
  | .faddBase d b lit => Ext.ofRR d b true lit
  | .fsubBase d b lit => Ext.ofRR d b true lit
  | .fmulBase d b lit => Ext.ofRR d b true lit
  | .ffmaBase d b lit => Ext.ofRR d b true lit
  | .fminBase d b lit => Ext.ofRR d b true lit
  | .fmaxBase d b lit => Ext.ofRR d b true lit
  | .movBase d b lit => Ext.ofRR d b false lit
  | .addi d _ lit => Ext.ofRI d true lit
  | .moviBase d _ lit => Ext.ofRI d false lit
  | .andi d _ lit => Ext.ofRI d true lit
  | .shli d _ lit => Ext.ofRI d true lit
  | .shri d _ lit => Ext.ofRI d true lit
  | .sari d _ lit => Ext.ofRI d true lit
  | .sealBase s1 s2 => { Ext.zero with d := s1, a := s2 }
  | .braBase _ _ => Ext.zero
  | .rjmarkBase _ => Ext.zero
  | .rjwaitBase _ => Ext.zero
  | .yieldBase _ _ => Ext.zero
  | .tailBase => Ext.zero
  | .exitBase => Ext.zero
  | .trapBase _ => Ext.zero
  | .brkBase _ => Ext.zero
  | .iadd x => x
  | .isub x => x
  | .iaddc x => x
  | .imin x => x
  | .imax x => x
  | .iabs x => x
  | .ineg x => x
  | .iamin x => x
  | .iamax x => x
  | .isad x => x
  | .iadd64 x => x
  | .isub64 x => x
  | .lea x => x
  | .lea64 x => x
  | .imul x => x
  | .imulh x => x
  | .imad x => x
  | .imulw x => x
  | .imadw x => x
  | .idiv x => x
  | .irem x => x
  | .shl x => x
  | .shr x => x
  | .sar x => x
  | .rotl x => x
  | .band x => x
  | .bor x => x
  | .bxor x => x
  | .bnot x => x
  | .bool3 x => x
  | .popc x => x
  | .clz x => x
  | .ctz x => x
  | .brev x => x
  | .bfe x => x
  | .bfi x => x
  | .funnel x => x
  | .shl64 x => x
  | .shr64 x => x
  | .sar64 x => x
  | .iset x => x
  | .iset64 x => x
  | .fset x => x
  | .fset64 x => x
  | .pset x => x
  | .sel x => x
  | .pmovGet x => x
  | .pmovPut x => x
  | .fadd x => x
  | .fsub x => x
  | .fmul x => x
  | .ffma x => x
  | .fmin x => x
  | .fmax x => x
  | .fdiv x => x
  | .fsqrt x => x
  | .fscale x => x
  | .frnd x => x
  | .fadd64 x => x
  | .fsub64 x => x
  | .fmul64 x => x
  | .ffma64 x => x
  | .fmin64 x => x
  | .fmax64 x => x
  | .fdiv64 x => x
  | .fsqrt64 x => x
  | .fscale64 x => x
  | .frnd64 x => x
  | .hadd2 x => x
  | .hmul2 x => x
  | .hfma2 x => x
  | .hmin2 x => x
  | .hmax2 x => x
  | .cvt x => x
  | .cvtpk x => x
  | .cvtx x => x
  | .rcp x => x
  | .rsq x => x
  | .ex2 x => x
  | .lg2 x => x
  | .sin x => x
  | .cos x => x
  | .tanh x => x
  | .rand x => x
  | .shfl x => x
  | .shflx x => x
  | .lsh x => x
  | .vote x => x
  | .ballot x => x
  | .matchKey x => x
  | .reduce x => x
  | .scan x => x
  | .had32 x => x
  | .qblk x => x
  | .dqblk x => x
  | .mov x => x
  | .movi x => x
  | .sread x => x
  | .swrite x => x
  | .wid x => x
  | .kset x => x
  | .ld x => x
  | .ldparam x => x
  | .prefetch x => x
  | .st x => x
  | .atom x => x
  | .cas x => x
  | .red x => x
  | .join x => x
  | .jinc x => x
  | .ldlt x => x
  | .ldltn x => x
  | .xflush x => x
  | .fence x => x
  | .qfence x => x
  | .copy x => x
  | .bulkIn x => x
  | .bulkOut x => x
  | .mcast x => x
  | .mcrecv x => x
  | .tiledef x => x
  | .tilefree x => x
  | .tileq x => x
  | .barinit x => x
  | .bararr x => x
  | .barwait x => x
  | .bartest x => x
  | .bardrop x => x
  | .wsync x => x
  | .gsync x => x
  | .sclaim x => x
  | .srel x => x
  | .sldt x => x
  | .sstt x => x
  | .pack x => x
  | .unpack x => x
  | .azero x => x
  | .mma x => x
  | .kread x => x
  | .dtctx x => x
  | .dt2 x => x
  | .dt1 x => x
  | .dtcmp x => x
  | .dteval x => x
  | .dtstat x => x
  | .bra x => x
  | .brx x => x
  | .brv x => x
  | .call x => x
  | .callx x => x
  | .ret x => x
  | .rjmark x => x
  | .rjwait x => x
  | .rjdrop x => x
  | .rjread x => x
  | .sealExt x => x
  | .yield x => x
  | .tail x => x
  | .exit x => x
  | .nap x => x
  | .trap x => x
  | .brk x => x
  | .eret x => x
  | .launch x => x
  | .spill x => x
  | .fill x => x
  | .tlbinv x => x
  | .rgnset x => x
  | .smap x => x
  | .ctxsave x => x
  | .ctxload x => x
  | .pmctlRead x => x
  | .pmctlSel x => x
  | .pmctlStart x => x
  | .pmctlStop x => x
  | .pmctlClr x => x
  | .pgpin x => x
  | .spanSeal _ => Ext.zero
  | .slowGear _ => Ext.zero
  | .slowGearComplete _ => Ext.zero
  | .loadDataReturn _ _ => Ext.zero
  | .memoryAccessPerform _ => Ext.zero
  | .badgerSettle _ _ => Ext.zero
  | .operandLogReplay _ => Ext.zero
  | .evictionWritebackComplete _ _ _ => Ext.zero
  | .faultReply _ _ _ => Ext.zero
  | .faultQueueTimeout _ _ => Ext.zero
  | .watchdogFault _ => Ext.zero
  | .napEnd _ => Ext.zero
  | .ldltTimeout _ => Ext.zero
  | .copyComplete _ => Ext.zero
  | .walkTileComplete _ => Ext.zero
  | .bulkComplete _ => Ext.zero
  | .mcastParked _ => Ext.zero
  | .mcrecvComplete _ => Ext.zero
  | .matrixEntryStart _ => Ext.zero
  | .matrixEntryComplete _ => Ext.zero
  | .exitComplete _ => Ext.zero
  | .trackerEntryFree _ _ => Ext.zero
  | .owlRound _ _ => Ext.zero
  | .owlMerge _ => Ext.zero
  | .latticeWindowWrite _ _ _ _ => Ext.zero
  | .commandCellWrite _ _ => Ext.zero
  | .create _ => Ext.zero
  | .destroy _ => Ext.zero
  | .setreg _ => Ext.zero
  | .getreg _ => Ext.zero
  | .suspend _ => Ext.zero
  | .resume _ => Ext.zero
  | .fencedie _ => Ext.zero
  | .gangRangeHandout _ _ => Ext.zero
  | .gangPlace _ => Ext.zero
  | .placementComplete _ => Ext.zero
  | .gangRetire _ => Ext.zero
  | .launchEnd _ _ => Ext.zero
  | .replayGateTimeout _ => Ext.zero
  | .replayStuckAdmit _ _ => Ext.zero
  | .launchMerge _ _ => Ext.zero
  | .preemptionStart _ => Ext.zero
  | .drainComplete _ => Ext.zero
  | .saveComplete _ => Ext.zero
  | .gangResume _ => Ext.zero
  | .resumeComplete _ => Ext.zero
  | .gangLevelFault _ _ => Ext.zero
  | .dieFence _ => Ext.zero
  | .powerGood => Ext.zero
  | .functionStartupComplete _ => Ext.zero
  | .startupBoundExpiry _ => Ext.zero
  | .linkRetryFailure _ => Ext.zero
  | .peerUnreachableTimeout _ => Ext.zero
  | .peerRequestReceive _ => Ext.zero
  | .ethernetRetransmit _ => Ext.zero
  | .engineSliceStart _ => Ext.zero
  | .budgetRefill => Ext.zero
  | .thermalThrottle => Ext.zero
  | .thermalPowerOff => Ext.zero
  | .powercapWrite _ => Ext.zero
  | .peerRouteWrite _ _ => Ext.zero
  | .barRegisterWrite _ _ _ _ => Ext.zero
  | .getVersion _ => Ext.zero
  | .getCapabilities _ => Ext.zero
  | .negotiateAlgorithms _ => Ext.zero
  | .getDigests _ => Ext.zero
  | .getCertificate _ => Ext.zero
  | .challenge _ => Ext.zero
  | .getMeasurements _ => Ext.zero
  | .keyExchange _ => Ext.zero
  | .finish _ => Ext.zero
  | .ideKm _ => Ext.zero
  | .lockInterface _ => Ext.zero
  | .stopInterface _ => Ext.zero
  | .tdispBreach _ => Ext.zero
  | .functionFailure _ => Ext.zero
  | .startInterface _ => Ext.zero
  | .powerAboveCap => Ext.zero

/-- A well-formed instruction; the steps of the other agents have no words and are not. -/
def Instr.wf (i : Instr) : Bool := i.ext.fits i.form

/-- The words of an instruction (R35). -/
def Instr.words (i : Instr) : Nat :=
  match i with
  | .iaddBase _ _ lit => if lit.isSome then 3 else 1
  | .isubBase _ _ lit => if lit.isSome then 3 else 1
  | .iaddcBase _ _ lit => if lit.isSome then 3 else 1
  | .iminBase _ _ lit => if lit.isSome then 3 else 1
  | .imaxBase _ _ lit => if lit.isSome then 3 else 1
  | .iabsBase _ => 1
  | .inegBase _ => 1
  | .iaminBase _ _ lit => if lit.isSome then 3 else 1
  | .iamaxBase _ _ lit => if lit.isSome then 3 else 1
  | .isadBase _ _ lit => if lit.isSome then 3 else 1
  | .iadd64Base _ _ lit => if lit.isSome then 3 else 1
  | .isub64Base _ _ lit => if lit.isSome then 3 else 1
  | .shlBase _ _ lit => if lit.isSome then 3 else 1
  | .shrBase _ _ lit => if lit.isSome then 3 else 1
  | .sarBase _ _ lit => if lit.isSome then 3 else 1
  | .rotlBase _ _ lit => if lit.isSome then 3 else 1
  | .bandBase _ _ lit => if lit.isSome then 3 else 1
  | .borBase _ _ lit => if lit.isSome then 3 else 1
  | .bxorBase _ _ lit => if lit.isSome then 3 else 1
  | .bnotBase _ => 1
  | .bool3Base _ _ lit => if lit.isSome then 3 else 1
  | .popcBase _ => 1
  | .clzBase _ => 1
  | .ctzBase _ => 1
  | .brevBase _ => 1
  | .bfeBase _ _ lit => if lit.isSome then 3 else 1
  | .bfiBase _ _ lit => if lit.isSome then 3 else 1
  | .funnelBase _ _ lit => if lit.isSome then 3 else 1
  | .shl64Base _ _ lit => if lit.isSome then 3 else 1
  | .shr64Base _ _ lit => if lit.isSome then 3 else 1
  | .sar64Base _ _ lit => if lit.isSome then 3 else 1
  | .faddBase _ _ lit => if lit.isSome then 3 else 1
  | .fsubBase _ _ lit => if lit.isSome then 3 else 1
  | .fmulBase _ _ lit => if lit.isSome then 3 else 1
  | .ffmaBase _ _ lit => if lit.isSome then 3 else 1
  | .fminBase _ _ lit => if lit.isSome then 3 else 1
  | .fmaxBase _ _ lit => if lit.isSome then 3 else 1
  | .movBase _ _ lit => if lit.isSome then 3 else 1
  | .addi _ _ lit => if lit.isSome then 3 else 1
  | .moviBase _ _ lit => if lit.isSome then 3 else 1
  | .andi _ _ lit => if lit.isSome then 3 else 1
  | .shli _ _ lit => if lit.isSome then 3 else 1
  | .shri _ _ lit => if lit.isSome then 3 else 1
  | .sari _ _ lit => if lit.isSome then 3 else 1
  | .braBase _ _ => 1
  | .rjmarkBase _ => 1
  | .rjwaitBase _ => 1
  | .sealBase _ _ => 1
  | .yieldBase _ _ => 1
  | .tailBase => 1
  | .exitBase => 1
  | .trapBase _ => 1
  | .brkBase _ => 1
  | .iadd x => if x.lit.isSome then 5 else 3
  | .isub x => if x.lit.isSome then 5 else 3
  | .iaddc x => if x.lit.isSome then 5 else 3
  | .imin x => if x.lit.isSome then 5 else 3
  | .imax x => if x.lit.isSome then 5 else 3
  | .iabs x => if x.lit.isSome then 5 else 3
  | .ineg x => if x.lit.isSome then 5 else 3
  | .iamin x => if x.lit.isSome then 5 else 3
  | .iamax x => if x.lit.isSome then 5 else 3
  | .isad x => if x.lit.isSome then 5 else 3
  | .iadd64 x => if x.lit.isSome then 5 else 3
  | .isub64 x => if x.lit.isSome then 5 else 3
  | .lea x => if x.lit.isSome then 5 else 3
  | .lea64 x => if x.lit.isSome then 5 else 3
  | .imul x => if x.lit.isSome then 5 else 3
  | .imulh x => if x.lit.isSome then 5 else 3
  | .imad x => if x.lit.isSome then 5 else 3
  | .imulw x => if x.lit.isSome then 5 else 3
  | .imadw x => if x.lit.isSome then 5 else 3
  | .idiv x => if x.lit.isSome then 5 else 3
  | .irem x => if x.lit.isSome then 5 else 3
  | .shl x => if x.lit.isSome then 5 else 3
  | .shr x => if x.lit.isSome then 5 else 3
  | .sar x => if x.lit.isSome then 5 else 3
  | .rotl x => if x.lit.isSome then 5 else 3
  | .band x => if x.lit.isSome then 5 else 3
  | .bor x => if x.lit.isSome then 5 else 3
  | .bxor x => if x.lit.isSome then 5 else 3
  | .bnot x => if x.lit.isSome then 5 else 3
  | .bool3 x => if x.lit.isSome then 5 else 3
  | .popc x => if x.lit.isSome then 5 else 3
  | .clz x => if x.lit.isSome then 5 else 3
  | .ctz x => if x.lit.isSome then 5 else 3
  | .brev x => if x.lit.isSome then 5 else 3
  | .bfe x => if x.lit.isSome then 5 else 3
  | .bfi x => if x.lit.isSome then 5 else 3
  | .funnel x => if x.lit.isSome then 5 else 3
  | .shl64 x => if x.lit.isSome then 5 else 3
  | .shr64 x => if x.lit.isSome then 5 else 3
  | .sar64 x => if x.lit.isSome then 5 else 3
  | .iset x => if x.lit.isSome then 5 else 3
  | .iset64 x => if x.lit.isSome then 5 else 3
  | .fset x => if x.lit.isSome then 5 else 3
  | .fset64 x => if x.lit.isSome then 5 else 3
  | .pset x => if x.lit.isSome then 5 else 3
  | .sel x => if x.lit.isSome then 5 else 3
  | .pmovGet x => if x.lit.isSome then 5 else 3
  | .pmovPut x => if x.lit.isSome then 5 else 3
  | .fadd x => if x.lit.isSome then 5 else 3
  | .fsub x => if x.lit.isSome then 5 else 3
  | .fmul x => if x.lit.isSome then 5 else 3
  | .ffma x => if x.lit.isSome then 5 else 3
  | .fmin x => if x.lit.isSome then 5 else 3
  | .fmax x => if x.lit.isSome then 5 else 3
  | .fdiv x => if x.lit.isSome then 5 else 3
  | .fsqrt x => if x.lit.isSome then 5 else 3
  | .fscale x => if x.lit.isSome then 5 else 3
  | .frnd x => if x.lit.isSome then 5 else 3
  | .fadd64 x => if x.lit.isSome then 5 else 3
  | .fsub64 x => if x.lit.isSome then 5 else 3
  | .fmul64 x => if x.lit.isSome then 5 else 3
  | .ffma64 x => if x.lit.isSome then 5 else 3
  | .fmin64 x => if x.lit.isSome then 5 else 3
  | .fmax64 x => if x.lit.isSome then 5 else 3
  | .fdiv64 x => if x.lit.isSome then 5 else 3
  | .fsqrt64 x => if x.lit.isSome then 5 else 3
  | .fscale64 x => if x.lit.isSome then 5 else 3
  | .frnd64 x => if x.lit.isSome then 5 else 3
  | .hadd2 x => if x.lit.isSome then 5 else 3
  | .hmul2 x => if x.lit.isSome then 5 else 3
  | .hfma2 x => if x.lit.isSome then 5 else 3
  | .hmin2 x => if x.lit.isSome then 5 else 3
  | .hmax2 x => if x.lit.isSome then 5 else 3
  | .cvt x => if x.lit.isSome then 5 else 3
  | .cvtpk x => if x.lit.isSome then 5 else 3
  | .cvtx x => if x.lit.isSome then 5 else 3
  | .rcp x => if x.lit.isSome then 5 else 3
  | .rsq x => if x.lit.isSome then 5 else 3
  | .ex2 x => if x.lit.isSome then 5 else 3
  | .lg2 x => if x.lit.isSome then 5 else 3
  | .sin x => if x.lit.isSome then 5 else 3
  | .cos x => if x.lit.isSome then 5 else 3
  | .tanh x => if x.lit.isSome then 5 else 3
  | .rand x => if x.lit.isSome then 5 else 3
  | .shfl x => if x.lit.isSome then 5 else 3
  | .shflx x => if x.lit.isSome then 5 else 3
  | .lsh x => if x.lit.isSome then 5 else 3
  | .vote x => if x.lit.isSome then 5 else 3
  | .ballot x => if x.lit.isSome then 5 else 3
  | .matchKey x => if x.lit.isSome then 5 else 3
  | .reduce x => if x.lit.isSome then 5 else 3
  | .scan x => if x.lit.isSome then 5 else 3
  | .had32 x => if x.lit.isSome then 5 else 3
  | .qblk x => if x.lit.isSome then 5 else 3
  | .dqblk x => if x.lit.isSome then 5 else 3
  | .mov x => if x.lit.isSome then 5 else 3
  | .movi x => if x.lit.isSome then 5 else 3
  | .sread x => if x.lit.isSome then 5 else 3
  | .swrite x => if x.lit.isSome then 5 else 3
  | .wid x => if x.lit.isSome then 5 else 3
  | .kset x => if x.lit.isSome then 5 else 3
  | .ld x => if x.lit.isSome then 5 else 3
  | .ldparam x => if x.lit.isSome then 5 else 3
  | .prefetch x => if x.lit.isSome then 5 else 3
  | .st x => if x.lit.isSome then 5 else 3
  | .atom x => if x.lit.isSome then 5 else 3
  | .cas x => if x.lit.isSome then 5 else 3
  | .red x => if x.lit.isSome then 5 else 3
  | .join x => if x.lit.isSome then 5 else 3
  | .jinc x => if x.lit.isSome then 5 else 3
  | .ldlt x => if x.lit.isSome then 5 else 3
  | .ldltn x => if x.lit.isSome then 5 else 3
  | .xflush x => if x.lit.isSome then 5 else 3
  | .fence x => if x.lit.isSome then 5 else 3
  | .qfence x => if x.lit.isSome then 5 else 3
  | .copy x => if x.lit.isSome then 5 else 3
  | .bulkIn x => if x.lit.isSome then 5 else 3
  | .bulkOut x => if x.lit.isSome then 5 else 3
  | .mcast x => if x.lit.isSome then 5 else 3
  | .mcrecv x => if x.lit.isSome then 5 else 3
  | .tiledef x => if x.lit.isSome then 5 else 3
  | .tilefree x => if x.lit.isSome then 5 else 3
  | .tileq x => if x.lit.isSome then 5 else 3
  | .barinit x => if x.lit.isSome then 5 else 3
  | .bararr x => if x.lit.isSome then 5 else 3
  | .barwait x => if x.lit.isSome then 5 else 3
  | .bartest x => if x.lit.isSome then 5 else 3
  | .bardrop x => if x.lit.isSome then 5 else 3
  | .wsync x => if x.lit.isSome then 5 else 3
  | .gsync x => if x.lit.isSome then 5 else 3
  | .sclaim x => if x.lit.isSome then 5 else 3
  | .srel x => if x.lit.isSome then 5 else 3
  | .sldt x => if x.lit.isSome then 5 else 3
  | .sstt x => if x.lit.isSome then 5 else 3
  | .pack x => if x.lit.isSome then 5 else 3
  | .unpack x => if x.lit.isSome then 5 else 3
  | .azero x => if x.lit.isSome then 5 else 3
  | .mma x => if x.lit.isSome then 5 else 3
  | .kread x => if x.lit.isSome then 5 else 3
  | .dtctx x => if x.lit.isSome then 5 else 3
  | .dt2 x => if x.lit.isSome then 5 else 3
  | .dt1 x => if x.lit.isSome then 5 else 3
  | .dtcmp x => if x.lit.isSome then 5 else 3
  | .dteval x => if x.lit.isSome then 5 else 3
  | .dtstat x => if x.lit.isSome then 5 else 3
  | .bra x => if x.lit.isSome then 5 else 3
  | .brx x => if x.lit.isSome then 5 else 3
  | .brv x => if x.lit.isSome then 5 else 3
  | .call x => if x.lit.isSome then 5 else 3
  | .callx x => if x.lit.isSome then 5 else 3
  | .ret x => if x.lit.isSome then 5 else 3
  | .rjmark x => if x.lit.isSome then 5 else 3
  | .rjwait x => if x.lit.isSome then 5 else 3
  | .rjdrop x => if x.lit.isSome then 5 else 3
  | .rjread x => if x.lit.isSome then 5 else 3
  | .sealExt x => if x.lit.isSome then 5 else 3
  | .yield x => if x.lit.isSome then 5 else 3
  | .tail x => if x.lit.isSome then 5 else 3
  | .exit x => if x.lit.isSome then 5 else 3
  | .nap x => if x.lit.isSome then 5 else 3
  | .trap x => if x.lit.isSome then 5 else 3
  | .brk x => if x.lit.isSome then 5 else 3
  | .eret x => if x.lit.isSome then 5 else 3
  | .launch x => if x.lit.isSome then 5 else 3
  | .spill x => if x.lit.isSome then 5 else 3
  | .fill x => if x.lit.isSome then 5 else 3
  | .tlbinv x => if x.lit.isSome then 5 else 3
  | .rgnset x => if x.lit.isSome then 5 else 3
  | .smap x => if x.lit.isSome then 5 else 3
  | .ctxsave x => if x.lit.isSome then 5 else 3
  | .ctxload x => if x.lit.isSome then 5 else 3
  | .pmctlRead x => if x.lit.isSome then 5 else 3
  | .pmctlSel x => if x.lit.isSome then 5 else 3
  | .pmctlStart x => if x.lit.isSome then 5 else 3
  | .pmctlStop x => if x.lit.isSome then 5 else 3
  | .pmctlClr x => if x.lit.isSome then 5 else 3
  | .pgpin x => if x.lit.isSome then 5 else 3
  | .spanSeal _ => 0
  | .slowGear _ => 0
  | .slowGearComplete _ => 0
  | .loadDataReturn _ _ => 0
  | .memoryAccessPerform _ => 0
  | .badgerSettle _ _ => 0
  | .operandLogReplay _ => 0
  | .evictionWritebackComplete _ _ _ => 0
  | .faultReply _ _ _ => 0
  | .faultQueueTimeout _ _ => 0
  | .watchdogFault _ => 0
  | .napEnd _ => 0
  | .ldltTimeout _ => 0
  | .copyComplete _ => 0
  | .walkTileComplete _ => 0
  | .bulkComplete _ => 0
  | .mcastParked _ => 0
  | .mcrecvComplete _ => 0
  | .matrixEntryStart _ => 0
  | .matrixEntryComplete _ => 0
  | .exitComplete _ => 0
  | .trackerEntryFree _ _ => 0
  | .owlRound _ _ => 0
  | .owlMerge _ => 0
  | .latticeWindowWrite _ _ _ _ => 0
  | .commandCellWrite _ _ => 0
  | .create _ => 0
  | .destroy _ => 0
  | .setreg _ => 0
  | .getreg _ => 0
  | .suspend _ => 0
  | .resume _ => 0
  | .fencedie _ => 0
  | .gangRangeHandout _ _ => 0
  | .gangPlace _ => 0
  | .placementComplete _ => 0
  | .gangRetire _ => 0
  | .launchEnd _ _ => 0
  | .replayGateTimeout _ => 0
  | .replayStuckAdmit _ _ => 0
  | .launchMerge _ _ => 0
  | .preemptionStart _ => 0
  | .drainComplete _ => 0
  | .saveComplete _ => 0
  | .gangResume _ => 0
  | .resumeComplete _ => 0
  | .gangLevelFault _ _ => 0
  | .dieFence _ => 0
  | .powerGood => 0
  | .functionStartupComplete _ => 0
  | .startupBoundExpiry _ => 0
  | .linkRetryFailure _ => 0
  | .peerUnreachableTimeout _ => 0
  | .peerRequestReceive _ => 0
  | .ethernetRetransmit _ => 0
  | .engineSliceStart _ => 0
  | .budgetRefill => 0
  | .thermalThrottle => 0
  | .thermalPowerOff => 0
  | .powercapWrite _ => 0
  | .peerRouteWrite _ _ => 0
  | .barRegisterWrite _ _ _ _ => 0
  | .getVersion _ => 0
  | .getCapabilities _ => 0
  | .negotiateAlgorithms _ => 0
  | .getDigests _ => 0
  | .getCertificate _ => 0
  | .challenge _ => 0
  | .getMeasurements _ => 0
  | .keyExchange _ => 0
  | .finish _ => 0
  | .ideKm _ => 0
  | .lockInterface _ => 0
  | .stopInterface _ => 0
  | .tdispBreach _ => 0
  | .functionFailure _ => 0
  | .startInterface _ => 0
  | .powerAboveCap => 0

end Sys2Proof
end

