-- ==== Sys2Proof/Decode.lean ====
section
/-! DEFINITION. The decoder (spec/02 R35 to R51, Tables 2-1 to 2-8), total on any bytes, and the encoder. -/

namespace Sys2Proof

/-- Why bytes are no instruction; every case is the illegal instruction of Table 2-9 step 2, or a word short. -/
inductive DecodeError where
  | truncated
  | unassigned
  | malformed
deriving DecidableEq, Repr

/-- A bit field of a word. -/
def field (w : Word) (lo n : Nat) : BitVec n := w.extractLsb' lo n

/-- The minors of extended major 0x01 (Table 2-8). -/
def extInt (minor : Nat) (x : Ext) : Option Instr :=
  match minor with
  | 0 => some (.iadd x)
  | 1 => some (.isub x)
  | 2 => some (.iaddc x)
  | 3 => some (.imin x)
  | 4 => some (.imax x)
  | 5 => some (.iabs x)
  | 6 => some (.ineg x)
  | 7 => some (.iamin x)
  | 8 => some (.iamax x)
  | 9 => some (.isad x)
  | 10 => some (.iadd64 x)
  | 11 => some (.isub64 x)
  | 12 => some (.lea x)
  | 13 => some (.lea64 x)
  | _ => none

/-- The minors of extended major 0x02 (Table 2-8). -/
def extImul (minor : Nat) (x : Ext) : Option Instr :=
  match minor with
  | 0 => some (.imul x)
  | 1 => some (.imulh x)
  | 2 => some (.imad x)
  | 3 => some (.imulw x)
  | 4 => some (.imadw x)
  | 5 => some (.idiv x)
  | 6 => some (.irem x)
  | _ => none

/-- The minors of extended major 0x03 (Table 2-8). -/
def extBit (minor : Nat) (x : Ext) : Option Instr :=
  match minor with
  | 0 => some (.shl x)
  | 1 => some (.shr x)
  | 2 => some (.sar x)
  | 3 => some (.rotl x)
  | 4 => some (.band x)
  | 5 => some (.bor x)
  | 6 => some (.bxor x)
  | 7 => some (.bnot x)
  | 8 => some (.bool3 x)
  | 9 => some (.popc x)
  | 10 => some (.clz x)
  | 11 => some (.ctz x)
  | 12 => some (.brev x)
  | 13 => some (.bfe x)
  | 14 => some (.bfi x)
  | 15 => some (.funnel x)
  | 16 => some (.shl64 x)
  | 17 => some (.shr64 x)
  | 18 => some (.sar64 x)
  | _ => none

/-- The minors of extended major 0x04 (Table 2-8). -/
def extCmp (minor : Nat) (x : Ext) : Option Instr :=
  match minor with
  | 0 => some (.iset x)
  | 1 => some (.iset64 x)
  | 2 => some (.fset x)
  | 3 => some (.fset64 x)
  | 4 => some (.pset x)
  | 5 => some (.sel x)
  | 6 => if x.modA = 0 then some (.pmovGet x) else some (.pmovPut x)
  | _ => none

/-- The minors of extended major 0x05 (Table 2-8). -/
def extFp32 (minor : Nat) (x : Ext) : Option Instr :=
  match minor with
  | 0 => some (.fadd x)
  | 1 => some (.fsub x)
  | 2 => some (.fmul x)
  | 3 => some (.ffma x)
  | 4 => some (.fmin x)
  | 5 => some (.fmax x)
  | 6 => some (.fdiv x)
  | 7 => some (.fsqrt x)
  | 8 => some (.fscale x)
  | 9 => some (.frnd x)
  | _ => none

/-- The minors of extended major 0x06 (Table 2-8). -/
def extFp64 (minor : Nat) (x : Ext) : Option Instr :=
  match minor with
  | 0 => some (.fadd64 x)
  | 1 => some (.fsub64 x)
  | 2 => some (.fmul64 x)
  | 3 => some (.ffma64 x)
  | 4 => some (.fmin64 x)
  | 5 => some (.fmax64 x)
  | 6 => some (.fdiv64 x)
  | 7 => some (.fsqrt64 x)
  | 8 => some (.fscale64 x)
  | 9 => some (.frnd64 x)
  | _ => none

/-- The minors of extended major 0x07 (Table 2-8). -/
def extFp16 (minor : Nat) (x : Ext) : Option Instr :=
  match minor with
  | 0 => some (.hadd2 x)
  | 1 => some (.hmul2 x)
  | 2 => some (.hfma2 x)
  | 3 => some (.hmin2 x)
  | 4 => some (.hmax2 x)
  | _ => none

/-- The minors of extended major 0x08 (Table 2-8). -/
def extCvt (minor : Nat) (x : Ext) : Option Instr :=
  match minor with
  | 0 => some (.cvt x)
  | 1 => some (.cvtpk x)
  | 2 => some (.cvtx x)
  | _ => none

/-- The minors of extended major 0x09 (Table 2-8). -/
def extSfu (minor : Nat) (x : Ext) : Option Instr :=
  match minor with
  | 0 => some (.rcp x)
  | 1 => some (.rsq x)
  | 2 => some (.ex2 x)
  | 3 => some (.lg2 x)
  | 4 => some (.sin x)
  | 5 => some (.cos x)
  | 6 => some (.tanh x)
  | 7 => some (.rand x)
  | _ => none

/-- The minors of extended major 0x0A (Table 2-8). -/
def extXlane (minor : Nat) (x : Ext) : Option Instr :=
  match minor with
  | 0 => some (.shfl x)
  | 1 => some (.shflx x)
  | 2 => some (.lsh x)
  | 3 => some (.vote x)
  | 4 => some (.ballot x)
  | 5 => some (.matchKey x)
  | 6 => some (.reduce x)
  | 7 => some (.scan x)
  | _ => none

/-- The minors of extended major 0x0B (Table 2-8). -/
def extBlock (minor : Nat) (x : Ext) : Option Instr :=
  match minor with
  | 0 => some (.had32 x)
  | 1 => some (.qblk x)
  | 2 => some (.dqblk x)
  | _ => none

/-- The minors of extended major 0x0C (Table 2-8). -/
def extMov (minor : Nat) (x : Ext) : Option Instr :=
  match minor with
  | 0 => some (.mov x)
  | 1 => some (.movi x)
  | 2 => some (.sread x)
  | 3 => some (.swrite x)
  | 4 => some (.wid x)
  | 5 => some (.kset x)
  | _ => none

/-- The minors of extended major 0x10 (Table 2-8). -/
def extLd (minor : Nat) (x : Ext) : Option Instr :=
  match minor with
  | 0 => some (.ld x)
  | 1 => some (.ldparam x)
  | 2 => some (.prefetch x)
  | _ => none

/-- The minors of extended major 0x11 (Table 2-8). -/
def extSt (minor : Nat) (x : Ext) : Option Instr :=
  match minor with
  | 0 => some (.st x)
  | _ => none

/-- The minors of extended major 0x12 (Table 2-8). -/
def extAtom (minor : Nat) (x : Ext) : Option Instr :=
  match minor with
  | 0 => some (.atom x)
  | 1 => some (.cas x)
  | 2 => some (.red x)
  | _ => none

/-- The minors of extended major 0x13 (Table 2-8). -/
def extLattice (minor : Nat) (x : Ext) : Option Instr :=
  match minor with
  | 0 => some (.join x)
  | 1 => some (.jinc x)
  | 2 => some (.ldlt x)
  | 3 => some (.ldltn x)
  | 4 => some (.xflush x)
  | _ => none

/-- The minors of extended major 0x14 (Table 2-8). -/
def extFence (minor : Nat) (x : Ext) : Option Instr :=
  match minor with
  | 0 => some (.fence x)
  | 1 => some (.qfence x)
  | _ => none

/-- The minors of extended major 0x15 (Table 2-8). -/
def extEngine (minor : Nat) (x : Ext) : Option Instr :=
  match minor with
  | 0 => some (.copy x)
  | 1 => if x.modB = 0 then some (.bulkIn x) else some (.bulkOut x)
  | 2 => some (.mcast x)
  | 3 => some (.mcrecv x)
  | _ => none

/-- The minors of extended major 0x16 (Table 2-8). -/
def extTile (minor : Nat) (x : Ext) : Option Instr :=
  match minor with
  | 0 => some (.tiledef x)
  | 1 => some (.tilefree x)
  | 2 => some (.tileq x)
  | _ => none

/-- The minors of extended major 0x17 (Table 2-8). -/
def extBar (minor : Nat) (x : Ext) : Option Instr :=
  match minor with
  | 0 => some (.barinit x)
  | 1 => some (.bararr x)
  | 2 => some (.barwait x)
  | 3 => some (.bartest x)
  | 4 => some (.bardrop x)
  | 5 => some (.wsync x)
  | 6 => some (.gsync x)
  | _ => none

/-- The minors of extended major 0x18 (Table 2-8). -/
def extSlot (minor : Nat) (x : Ext) : Option Instr :=
  match minor with
  | 0 => some (.sclaim x)
  | 1 => some (.srel x)
  | 2 => some (.sldt x)
  | 3 => some (.sstt x)
  | 4 => some (.pack x)
  | 5 => some (.unpack x)
  | 6 => some (.azero x)
  | _ => none

/-- The minors of extended major 0x19 (Table 2-8). -/
def extMma (minor : Nat) (x : Ext) : Option Instr :=
  match minor with
  | 0 => some (.mma x)
  | 1 => some (.kread x)
  | _ => none

/-- The minors of extended major 0x1A (Table 2-8). -/
def extDt (minor : Nat) (x : Ext) : Option Instr :=
  match minor with
  | 0 => some (.dtctx x)
  | 1 => some (.dt2 x)
  | 2 => some (.dt1 x)
  | 3 => some (.dtcmp x)
  | 4 => some (.dteval x)
  | 5 => some (.dtstat x)
  | _ => none

/-- The minors of extended major 0x20 (Table 2-8). -/
def extBr (minor : Nat) (x : Ext) : Option Instr :=
  match minor with
  | 0 => some (.bra x)
  | 1 => some (.brx x)
  | 2 => some (.brv x)
  | _ => none

/-- The minors of extended major 0x21 (Table 2-8). -/
def extCall (minor : Nat) (x : Ext) : Option Instr :=
  match minor with
  | 0 => some (.call x)
  | 1 => some (.callx x)
  | 2 => some (.ret x)
  | _ => none

/-- The minors of extended major 0x22 (Table 2-8). -/
def extRejoin (minor : Nat) (x : Ext) : Option Instr :=
  match minor with
  | 0 => some (.rjmark x)
  | 1 => some (.rjwait x)
  | 2 => some (.rjdrop x)
  | 3 => some (.rjread x)
  | _ => none

/-- The minors of extended major 0x23 (Table 2-8). -/
def extSpan (minor : Nat) (x : Ext) : Option Instr :=
  match minor with
  | 0 => some (.sealExt x)
  | _ => none

/-- The minors of extended major 0x24 (Table 2-8). -/
def extFlow (minor : Nat) (x : Ext) : Option Instr :=
  match minor with
  | 0 => some (.yield x)
  | 1 => some (.tail x)
  | 2 => some (.exit x)
  | 3 => some (.nap x)
  | _ => none

/-- The minors of extended major 0x25 (Table 2-8). -/
def extTrap (minor : Nat) (x : Ext) : Option Instr :=
  match minor with
  | 0 => some (.trap x)
  | 1 => some (.brk x)
  | 2 => some (.eret x)
  | _ => none

/-- The minors of extended major 0x26 (Table 2-8). -/
def extLaunch (minor : Nat) (x : Ext) : Option Instr :=
  match minor with
  | 0 => some (.launch x)
  | _ => none

/-- The minors of extended major 0x27 (Table 2-8). -/
def extReg (minor : Nat) (x : Ext) : Option Instr :=
  match minor with
  | 0 => some (.spill x)
  | 1 => some (.fill x)
  | _ => none

/-- The minors of extended major 0x30 (Table 2-8). -/
def extSys (minor : Nat) (x : Ext) : Option Instr :=
  match minor with
  | 0 => some (.tlbinv x)
  | 1 => some (.rgnset x)
  | 2 => some (.smap x)
  | 3 => some (.ctxsave x)
  | 4 => some (.ctxload x)
  | 5 =>
    if x.modA = 0 then some (.pmctlRead x) else if x.modA = 1 then some (.pmctlSel x)
    else if x.modA = 2 then some (.pmctlStart x) else if x.modA = 3 then some (.pmctlStop x) else some (.pmctlClr x)
  | 6 => some (.pgpin x)
  | _ => none

/-- The extended majors (Table 2-8). -/
def extInstr (major minor : Nat) (x : Ext) : Option Instr :=
  match major with
  | 0x01 => extInt minor x
  | 0x02 => extImul minor x
  | 0x03 => extBit minor x
  | 0x04 => extCmp minor x
  | 0x05 => extFp32 minor x
  | 0x06 => extFp64 minor x
  | 0x07 => extFp16 minor x
  | 0x08 => extCvt minor x
  | 0x09 => extSfu minor x
  | 0x0A => extXlane minor x
  | 0x0B => extBlock minor x
  | 0x0C => extMov minor x
  | 0x10 => extLd minor x
  | 0x11 => extSt minor x
  | 0x12 => extAtom minor x
  | 0x13 => extLattice minor x
  | 0x14 => extFence minor x
  | 0x15 => extEngine minor x
  | 0x16 => extTile minor x
  | 0x17 => extBar minor x
  | 0x18 => extSlot minor x
  | 0x19 => extMma minor x
  | 0x1A => extDt minor x
  | 0x20 => extBr minor x
  | 0x21 => extCall minor x
  | 0x22 => extRejoin minor x
  | 0x23 => extSpan minor x
  | 0x24 => extFlow minor x
  | 0x25 => extTrap minor x
  | 0x26 => extLaunch minor x
  | 0x27 => extReg minor x
  | 0x30 => extSys minor x
  | _ => none

/-- The minors of base major 0x01 (Table 2-7). -/
def baseInt (minor : Nat) (d b : RegIdx) (lit : Option Dword) : Option Instr :=
  match minor with
  | 0 => some (.iaddBase d b lit)
  | 1 => some (.isubBase d b lit)
  | 2 => some (.iaddcBase d b lit)
  | 3 => some (.iminBase d b lit)
  | 4 => some (.imaxBase d b lit)
  | 5 => if b = 0 ∧ lit = none then some (.iabsBase d) else none
  | 6 => if b = 0 ∧ lit = none then some (.inegBase d) else none
  | 7 => some (.iaminBase d b lit)
  | 8 => some (.iamaxBase d b lit)
  | 9 => some (.isadBase d b lit)
  | 10 => some (.iadd64Base d b lit)
  | 11 => some (.isub64Base d b lit)
  | _ => none

/-- The minors of base major 0x02 (Table 2-7). -/
def baseBit (minor : Nat) (d b : RegIdx) (lit : Option Dword) : Option Instr :=
  match minor with
  | 0 => some (.shlBase d b lit)
  | 1 => some (.shrBase d b lit)
  | 2 => some (.sarBase d b lit)
  | 3 => some (.rotlBase d b lit)
  | 4 => some (.bandBase d b lit)
  | 5 => some (.borBase d b lit)
  | 6 => some (.bxorBase d b lit)
  | 7 => if b = 0 ∧ lit = none then some (.bnotBase d) else none
  | 8 => some (.bool3Base d b lit)
  | 9 => if b = 0 ∧ lit = none then some (.popcBase d) else none
  | 10 => if b = 0 ∧ lit = none then some (.clzBase d) else none
  | 11 => if b = 0 ∧ lit = none then some (.ctzBase d) else none
  | 12 => if b = 0 ∧ lit = none then some (.brevBase d) else none
  | 13 => some (.bfeBase d b lit)
  | 14 => some (.bfiBase d b lit)
  | 15 => some (.funnelBase d b lit)
  | 16 => some (.shl64Base d b lit)
  | 17 => some (.shr64Base d b lit)
  | 18 => some (.sar64Base d b lit)
  | _ => none

/-- The minors of base major 0x03 (Table 2-7). -/
def baseFp32 (minor : Nat) (d b : RegIdx) (lit : Option Dword) : Option Instr :=
  match minor with
  | 0 => some (.faddBase d b lit)
  | 1 => some (.fsubBase d b lit)
  | 2 => some (.fmulBase d b lit)
  | 3 => some (.ffmaBase d b lit)
  | 4 => some (.fminBase d b lit)
  | 5 => some (.fmaxBase d b lit)
  | _ => none

/-- The minors of base major 0x04 (Table 2-7). -/
def baseMov (minor : Nat) (d b : RegIdx) (lit : Option Dword) : Option Instr :=
  match minor with
  | 0 => some (.movBase d b lit)
  | _ => none

/-- Base major 0x22 (Table 2-4). -/
def baseRejoin (w : Word) : Option Instr :=
  if field w 12 20 = 0 then
    (if field w 11 1 = 0 then some (.rjmarkBase (field w 8 3)) else some (.rjwaitBase (field w 8 3)))
  else none

/-- Base major 0x23 (Table 2-4). -/
def baseSeal (w : Word) : Option Instr :=
  if field w 26 6 = 0 then some (.sealBase (field w 8 9) (field w 17 9)) else none

/-- Base major 0x24 (Table 2-4). -/
def baseFlow (w : Word) : Option Instr :=
  match (field w 8 2).toNat with
  | 0 => if field w 19 13 = 0 then some (.yieldBase (field w 14 5) (field w 10 4)) else none
  | 1 => if field w 10 22 = 0 then some .tailBase else none
  | 2 => if field w 10 22 = 0 then some .exitBase else none
  | _ => none

/-- Base major 0x25 (Table 2-4). -/
def baseTrap (w : Word) : Option Instr :=
  if field w 25 7 = 0 then
    (if field w 8 1 = 0 then some (.trapBase (field w 9 16)) else some (.brkBase (field w 9 16)))
  else none

/-- A base word without a literal that only the plain length allows (Table 2-6). -/
def unlessLit (lit : Option Dword) (i : Option Instr) : Option Instr := if lit = none then i else none

/-- The base majors (Table 2-7). -/
def baseInstr (w : Word) (lit : Option Dword) : Option Instr :=
  match (field w 2 6).toNat with
  | 0x01 => baseInt (field w 26 6).toNat (field w 8 9) (field w 17 9) lit
  | 0x02 => baseBit (field w 26 6).toNat (field w 8 9) (field w 17 9) lit
  | 0x03 => baseFp32 (field w 26 6).toNat (field w 8 9) (field w 17 9) lit
  | 0x04 => baseMov (field w 26 6).toNat (field w 8 9) (field w 17 9) lit
  | 0x08 => some (.addi (field w 8 9) (field w 17 15) lit)
  | 0x09 => some (.moviBase (field w 8 9) (field w 17 15) lit)
  | 0x0A => some (.andi (field w 8 9) (field w 17 15) lit)
  | 0x0B => some (.shli (field w 8 9) (field w 17 15) lit)
  | 0x0C => some (.shri (field w 8 9) (field w 17 15) lit)
  | 0x0D => some (.sari (field w 8 9) (field w 17 15) lit)
  | 0x20 => unlessLit lit (some (.braBase (field w 8 4) (field w 12 20)))
  | 0x22 => unlessLit lit (baseRejoin w)
  | 0x23 => unlessLit lit (baseSeal w)
  | 0x24 => unlessLit lit (baseFlow w)
  | 0x25 => unlessLit lit (baseTrap w)
  | _ => none

/-- The extended fields of three words (Table 2-5). -/
def extFields (w0 w1 w2 : Word) (lit : Option Dword) : Ext :=
  { guard := field w0 16 4, la := field w0 20 4, retain := field w0 24 2, modA := field w0 26 6, modB := field w1 27 5,
    d := field w1 0 9, a := field w1 9 9, b := field w1 18 9, c := field w2 0 9, imm := field w2 9 23, lit := lit }

/-- An extended instruction of three words and perhaps a literal. -/
def extWords (w0 w1 w2 : Word) (lit : Option Dword) : Option Instr :=
  extInstr (field w0 2 6).toNat (field w0 8 8).toNat (extFields w0 w1 w2 lit)

/-- The words an instruction takes, from its first word (Table 2-1). -/
def wordCount (w0 : Word) : Nat :=
  match (field w0 0 2).toNat with
  | 0 => 1
  | 3 => 5
  | _ => 3

/-- Accept only a well-formed instruction. -/
def accept (i : Option Instr) : Except DecodeError Instr :=
  match i with
  | none => .error .unassigned
  | some i => if i.wf then .ok i else .error .malformed

/-- The instruction that the words begin with. -/
def decodeWords (ws : List Word) : Except DecodeError Instr :=
  match ws with
  | [] => .error .truncated
  | w0 :: rest =>
    match (field w0 0 2).toNat, rest with
    | 0, _ => accept (baseInstr w0 none)
    | 2, l :: h :: _ => accept (baseInstr w0 (some (pairOf l h)))
    | 1, w1 :: w2 :: _ => accept (extWords w0 w1 w2 none)
    | 3, w1 :: w2 :: l :: h :: _ => accept (extWords w0 w1 w2 (some (pairOf l h)))
    | _, _ => .error .truncated

/-- Little-endian words of bytes; a rest shorter than a word is dropped (R35). -/
def wordsOfBytes : List Byte → List Word
  | b0 :: b1 :: b2 :: b3 :: rest => (b3 ++ b2 ++ b1 ++ b0 : BitVec 32) :: wordsOfBytes rest
  | _ => []

/-- Little-endian bytes of a word. -/
def bytesOfWord (w : Word) : List Byte := [field w 0 8, field w 8 8, field w 16 8, field w 24 8]

/-- Little-endian bytes of words. -/
def bytesOfWords : List Word → List Byte
  | [] => []
  | w :: ws => bytesOfWord w ++ bytesOfWords ws

/-- The instruction that the bytes begin with. -/
def decode (bs : List Byte) : Except DecodeError Instr := decodeWords (wordsOfBytes bs)

/-- The literal words (R47). -/
def litWords (lit : Option Dword) : List Word :=
  match lit with
  | none => []
  | some v => [lowHalf v, v.extractLsb' 32 32]

/-- A base RR word (Table 2-2). -/
def encodeRR (major : BitVec 6) (minor : BitVec 6) (d b : RegIdx) (lit : Option Dword) : List Word :=
  (minor ++ b ++ d ++ major ++ (if lit.isSome then 2 else 0 : BitVec 2) : BitVec 32) :: litWords lit

/-- A base RI word (Table 2-2). -/
def encodeRI (major : BitVec 6) (d : RegIdx) (imm : BitVec 15) (lit : Option Dword) : List Word :=
  (imm ++ d ++ major ++ (if lit.isSome then 2 else 0 : BitVec 2) : BitVec 32) :: litWords lit

/-- A base SY word (Table 2-4). -/
def encodeSY (major : BitVec 6) (payload : BitVec 24) : List Word := [(payload ++ major ++ (0 : BitVec 2) : BitVec 32)]

/-- The words of an extended instruction (Table 2-5). -/
def encodeExt (major : BitVec 6) (minor : BitVec 8) (x : Ext) : List Word :=
  (x.modA ++ x.retain ++ x.la ++ x.guard ++ minor ++ major ++ (if x.lit.isSome then 3 else 1 : BitVec 2) : BitVec 32) ::
  (x.modB ++ x.b ++ x.a ++ x.d : BitVec 32) :: (x.imm ++ x.c : BitVec 32) :: litWords x.lit

/-- The words of an instruction; a step of another agent has none. -/
def encodeWords (i : Instr) : List Word :=
  match i with
  | .iaddBase d b lit => encodeRR 0x01 0x00 d b lit
  | .isubBase d b lit => encodeRR 0x01 0x01 d b lit
  | .iaddcBase d b lit => encodeRR 0x01 0x02 d b lit
  | .iminBase d b lit => encodeRR 0x01 0x03 d b lit
  | .imaxBase d b lit => encodeRR 0x01 0x04 d b lit
  | .iabsBase d => encodeRR 0x01 0x05 d 0 none
  | .inegBase d => encodeRR 0x01 0x06 d 0 none
  | .iaminBase d b lit => encodeRR 0x01 0x07 d b lit
  | .iamaxBase d b lit => encodeRR 0x01 0x08 d b lit
  | .isadBase d b lit => encodeRR 0x01 0x09 d b lit
  | .iadd64Base d b lit => encodeRR 0x01 0x0A d b lit
  | .isub64Base d b lit => encodeRR 0x01 0x0B d b lit
  | .shlBase d b lit => encodeRR 0x02 0x00 d b lit
  | .shrBase d b lit => encodeRR 0x02 0x01 d b lit
  | .sarBase d b lit => encodeRR 0x02 0x02 d b lit
  | .rotlBase d b lit => encodeRR 0x02 0x03 d b lit
  | .bandBase d b lit => encodeRR 0x02 0x04 d b lit
  | .borBase d b lit => encodeRR 0x02 0x05 d b lit
  | .bxorBase d b lit => encodeRR 0x02 0x06 d b lit
  | .bnotBase d => encodeRR 0x02 0x07 d 0 none
  | .bool3Base d b lit => encodeRR 0x02 0x08 d b lit
  | .popcBase d => encodeRR 0x02 0x09 d 0 none
  | .clzBase d => encodeRR 0x02 0x0A d 0 none
  | .ctzBase d => encodeRR 0x02 0x0B d 0 none
  | .brevBase d => encodeRR 0x02 0x0C d 0 none
  | .bfeBase d b lit => encodeRR 0x02 0x0D d b lit
  | .bfiBase d b lit => encodeRR 0x02 0x0E d b lit
  | .funnelBase d b lit => encodeRR 0x02 0x0F d b lit
  | .shl64Base d b lit => encodeRR 0x02 0x10 d b lit
  | .shr64Base d b lit => encodeRR 0x02 0x11 d b lit
  | .sar64Base d b lit => encodeRR 0x02 0x12 d b lit
  | .faddBase d b lit => encodeRR 0x03 0x00 d b lit
  | .fsubBase d b lit => encodeRR 0x03 0x01 d b lit
  | .fmulBase d b lit => encodeRR 0x03 0x02 d b lit
  | .ffmaBase d b lit => encodeRR 0x03 0x03 d b lit
  | .fminBase d b lit => encodeRR 0x03 0x04 d b lit
  | .fmaxBase d b lit => encodeRR 0x03 0x05 d b lit
  | .movBase d b lit => encodeRR 0x04 0x00 d b lit
  | .addi d imm lit => encodeRI 0x08 d imm lit
  | .moviBase d imm lit => encodeRI 0x09 d imm lit
  | .andi d imm lit => encodeRI 0x0A d imm lit
  | .shli d imm lit => encodeRI 0x0B d imm lit
  | .shri d imm lit => encodeRI 0x0C d imm lit
  | .sari d imm lit => encodeRI 0x0D d imm lit
  | .braBase cond off => encodeSY 0x20 (off ++ cond)
  | .rjmarkBase j => encodeSY 0x22 ((0 : BitVec 20) ++ (0 : BitVec 1) ++ j)
  | .rjwaitBase j => encodeSY 0x22 ((0 : BitVec 20) ++ (1 : BitVec 1) ++ j)
  | .sealBase s1 s2 => encodeSY 0x23 ((0 : BitVec 6) ++ s2 ++ s1)
  | .yieldBase live dexp => encodeSY 0x24 ((0 : BitVec 13) ++ live ++ dexp ++ (0 : BitVec 2))
  | .tailBase => encodeSY 0x24 ((0 : BitVec 22) ++ (1 : BitVec 2))
  | .exitBase => encodeSY 0x24 ((0 : BitVec 22) ++ (2 : BitVec 2))
  | .trapBase code => encodeSY 0x25 ((0 : BitVec 7) ++ code ++ (0 : BitVec 1))
  | .brkBase code => encodeSY 0x25 ((0 : BitVec 7) ++ code ++ (1 : BitVec 1))
  | .iadd x => encodeExt 0x01 0x00 x
  | .isub x => encodeExt 0x01 0x01 x
  | .iaddc x => encodeExt 0x01 0x02 x
  | .imin x => encodeExt 0x01 0x03 x
  | .imax x => encodeExt 0x01 0x04 x
  | .iabs x => encodeExt 0x01 0x05 x
  | .ineg x => encodeExt 0x01 0x06 x
  | .iamin x => encodeExt 0x01 0x07 x
  | .iamax x => encodeExt 0x01 0x08 x
  | .isad x => encodeExt 0x01 0x09 x
  | .iadd64 x => encodeExt 0x01 0x0A x
  | .isub64 x => encodeExt 0x01 0x0B x
  | .lea x => encodeExt 0x01 0x0C x
  | .lea64 x => encodeExt 0x01 0x0D x
  | .imul x => encodeExt 0x02 0x00 x
  | .imulh x => encodeExt 0x02 0x01 x
  | .imad x => encodeExt 0x02 0x02 x
  | .imulw x => encodeExt 0x02 0x03 x
  | .imadw x => encodeExt 0x02 0x04 x
  | .idiv x => encodeExt 0x02 0x05 x
  | .irem x => encodeExt 0x02 0x06 x
  | .shl x => encodeExt 0x03 0x00 x
  | .shr x => encodeExt 0x03 0x01 x
  | .sar x => encodeExt 0x03 0x02 x
  | .rotl x => encodeExt 0x03 0x03 x
  | .band x => encodeExt 0x03 0x04 x
  | .bor x => encodeExt 0x03 0x05 x
  | .bxor x => encodeExt 0x03 0x06 x
  | .bnot x => encodeExt 0x03 0x07 x
  | .bool3 x => encodeExt 0x03 0x08 x
  | .popc x => encodeExt 0x03 0x09 x
  | .clz x => encodeExt 0x03 0x0A x
  | .ctz x => encodeExt 0x03 0x0B x
  | .brev x => encodeExt 0x03 0x0C x
  | .bfe x => encodeExt 0x03 0x0D x
  | .bfi x => encodeExt 0x03 0x0E x
  | .funnel x => encodeExt 0x03 0x0F x
  | .shl64 x => encodeExt 0x03 0x10 x
  | .shr64 x => encodeExt 0x03 0x11 x
  | .sar64 x => encodeExt 0x03 0x12 x
  | .iset x => encodeExt 0x04 0x00 x
  | .iset64 x => encodeExt 0x04 0x01 x
  | .fset x => encodeExt 0x04 0x02 x
  | .fset64 x => encodeExt 0x04 0x03 x
  | .pset x => encodeExt 0x04 0x04 x
  | .sel x => encodeExt 0x04 0x05 x
  | .pmovGet x => encodeExt 0x04 0x06 x
  | .pmovPut x => encodeExt 0x04 0x06 x
  | .fadd x => encodeExt 0x05 0x00 x
  | .fsub x => encodeExt 0x05 0x01 x
  | .fmul x => encodeExt 0x05 0x02 x
  | .ffma x => encodeExt 0x05 0x03 x
  | .fmin x => encodeExt 0x05 0x04 x
  | .fmax x => encodeExt 0x05 0x05 x
  | .fdiv x => encodeExt 0x05 0x06 x
  | .fsqrt x => encodeExt 0x05 0x07 x
  | .fscale x => encodeExt 0x05 0x08 x
  | .frnd x => encodeExt 0x05 0x09 x
  | .fadd64 x => encodeExt 0x06 0x00 x
  | .fsub64 x => encodeExt 0x06 0x01 x
  | .fmul64 x => encodeExt 0x06 0x02 x
  | .ffma64 x => encodeExt 0x06 0x03 x
  | .fmin64 x => encodeExt 0x06 0x04 x
  | .fmax64 x => encodeExt 0x06 0x05 x
  | .fdiv64 x => encodeExt 0x06 0x06 x
  | .fsqrt64 x => encodeExt 0x06 0x07 x
  | .fscale64 x => encodeExt 0x06 0x08 x
  | .frnd64 x => encodeExt 0x06 0x09 x
  | .hadd2 x => encodeExt 0x07 0x00 x
  | .hmul2 x => encodeExt 0x07 0x01 x
  | .hfma2 x => encodeExt 0x07 0x02 x
  | .hmin2 x => encodeExt 0x07 0x03 x
  | .hmax2 x => encodeExt 0x07 0x04 x
  | .cvt x => encodeExt 0x08 0x00 x
  | .cvtpk x => encodeExt 0x08 0x01 x
  | .cvtx x => encodeExt 0x08 0x02 x
  | .rcp x => encodeExt 0x09 0x00 x
  | .rsq x => encodeExt 0x09 0x01 x
  | .ex2 x => encodeExt 0x09 0x02 x
  | .lg2 x => encodeExt 0x09 0x03 x
  | .sin x => encodeExt 0x09 0x04 x
  | .cos x => encodeExt 0x09 0x05 x
  | .tanh x => encodeExt 0x09 0x06 x
  | .rand x => encodeExt 0x09 0x07 x
  | .shfl x => encodeExt 0x0A 0x00 x
  | .shflx x => encodeExt 0x0A 0x01 x
  | .lsh x => encodeExt 0x0A 0x02 x
  | .vote x => encodeExt 0x0A 0x03 x
  | .ballot x => encodeExt 0x0A 0x04 x
  | .matchKey x => encodeExt 0x0A 0x05 x
  | .reduce x => encodeExt 0x0A 0x06 x
  | .scan x => encodeExt 0x0A 0x07 x
  | .had32 x => encodeExt 0x0B 0x00 x
  | .qblk x => encodeExt 0x0B 0x01 x
  | .dqblk x => encodeExt 0x0B 0x02 x
  | .mov x => encodeExt 0x0C 0x00 x
  | .movi x => encodeExt 0x0C 0x01 x
  | .sread x => encodeExt 0x0C 0x02 x
  | .swrite x => encodeExt 0x0C 0x03 x
  | .wid x => encodeExt 0x0C 0x04 x
  | .kset x => encodeExt 0x0C 0x05 x
  | .ld x => encodeExt 0x10 0x00 x
  | .ldparam x => encodeExt 0x10 0x01 x
  | .prefetch x => encodeExt 0x10 0x02 x
  | .st x => encodeExt 0x11 0x00 x
  | .atom x => encodeExt 0x12 0x00 x
  | .cas x => encodeExt 0x12 0x01 x
  | .red x => encodeExt 0x12 0x02 x
  | .join x => encodeExt 0x13 0x00 x
  | .jinc x => encodeExt 0x13 0x01 x
  | .ldlt x => encodeExt 0x13 0x02 x
  | .ldltn x => encodeExt 0x13 0x03 x
  | .xflush x => encodeExt 0x13 0x04 x
  | .fence x => encodeExt 0x14 0x00 x
  | .qfence x => encodeExt 0x14 0x01 x
  | .copy x => encodeExt 0x15 0x00 x
  | .bulkIn x => encodeExt 0x15 0x01 x
  | .bulkOut x => encodeExt 0x15 0x01 x
  | .mcast x => encodeExt 0x15 0x02 x
  | .mcrecv x => encodeExt 0x15 0x03 x
  | .tiledef x => encodeExt 0x16 0x00 x
  | .tilefree x => encodeExt 0x16 0x01 x
  | .tileq x => encodeExt 0x16 0x02 x
  | .barinit x => encodeExt 0x17 0x00 x
  | .bararr x => encodeExt 0x17 0x01 x
  | .barwait x => encodeExt 0x17 0x02 x
  | .bartest x => encodeExt 0x17 0x03 x
  | .bardrop x => encodeExt 0x17 0x04 x
  | .wsync x => encodeExt 0x17 0x05 x
  | .gsync x => encodeExt 0x17 0x06 x
  | .sclaim x => encodeExt 0x18 0x00 x
  | .srel x => encodeExt 0x18 0x01 x
  | .sldt x => encodeExt 0x18 0x02 x
  | .sstt x => encodeExt 0x18 0x03 x
  | .pack x => encodeExt 0x18 0x04 x
  | .unpack x => encodeExt 0x18 0x05 x
  | .azero x => encodeExt 0x18 0x06 x
  | .mma x => encodeExt 0x19 0x00 x
  | .kread x => encodeExt 0x19 0x01 x
  | .dtctx x => encodeExt 0x1A 0x00 x
  | .dt2 x => encodeExt 0x1A 0x01 x
  | .dt1 x => encodeExt 0x1A 0x02 x
  | .dtcmp x => encodeExt 0x1A 0x03 x
  | .dteval x => encodeExt 0x1A 0x04 x
  | .dtstat x => encodeExt 0x1A 0x05 x
  | .bra x => encodeExt 0x20 0x00 x
  | .brx x => encodeExt 0x20 0x01 x
  | .brv x => encodeExt 0x20 0x02 x
  | .call x => encodeExt 0x21 0x00 x
  | .callx x => encodeExt 0x21 0x01 x
  | .ret x => encodeExt 0x21 0x02 x
  | .rjmark x => encodeExt 0x22 0x00 x
  | .rjwait x => encodeExt 0x22 0x01 x
  | .rjdrop x => encodeExt 0x22 0x02 x
  | .rjread x => encodeExt 0x22 0x03 x
  | .sealExt x => encodeExt 0x23 0x00 x
  | .yield x => encodeExt 0x24 0x00 x
  | .tail x => encodeExt 0x24 0x01 x
  | .exit x => encodeExt 0x24 0x02 x
  | .nap x => encodeExt 0x24 0x03 x
  | .trap x => encodeExt 0x25 0x00 x
  | .brk x => encodeExt 0x25 0x01 x
  | .eret x => encodeExt 0x25 0x02 x
  | .launch x => encodeExt 0x26 0x00 x
  | .spill x => encodeExt 0x27 0x00 x
  | .fill x => encodeExt 0x27 0x01 x
  | .tlbinv x => encodeExt 0x30 0x00 x
  | .rgnset x => encodeExt 0x30 0x01 x
  | .smap x => encodeExt 0x30 0x02 x
  | .ctxsave x => encodeExt 0x30 0x03 x
  | .ctxload x => encodeExt 0x30 0x04 x
  | .pmctlRead x => encodeExt 0x30 0x05 x
  | .pmctlSel x => encodeExt 0x30 0x05 x
  | .pmctlStart x => encodeExt 0x30 0x05 x
  | .pmctlStop x => encodeExt 0x30 0x05 x
  | .pmctlClr x => encodeExt 0x30 0x05 x
  | .pgpin x => encodeExt 0x30 0x06 x
  | .spanSeal _ => []
  | .slowGear _ => []
  | .slowGearComplete _ => []
  | .loadDataReturn _ _ => []
  | .memoryAccessPerform _ => []
  | .badgerSettle _ _ => []
  | .operandLogReplay _ => []
  | .evictionWritebackComplete _ _ _ => []
  | .faultReply _ _ _ => []
  | .faultQueueTimeout _ _ => []
  | .watchdogFault _ => []
  | .napEnd _ => []
  | .ldltTimeout _ => []
  | .copyComplete _ => []
  | .walkTileComplete _ => []
  | .bulkComplete _ => []
  | .mcastParked _ => []
  | .mcrecvComplete _ => []
  | .matrixEntryStart _ => []
  | .matrixEntryComplete _ => []
  | .exitComplete _ => []
  | .trackerEntryFree _ _ => []
  | .owlRound _ _ => []
  | .owlMerge _ => []
  | .latticeWindowWrite _ _ _ _ => []
  | .commandCellWrite _ _ => []
  | .create _ => []
  | .destroy _ => []
  | .setreg _ => []
  | .getreg _ => []
  | .suspend _ => []
  | .resume _ => []
  | .fencedie _ => []
  | .gangRangeHandout _ _ => []
  | .gangPlace _ => []
  | .placementComplete _ => []
  | .gangRetire _ => []
  | .launchEnd _ _ => []
  | .replayGateTimeout _ => []
  | .replayStuckAdmit _ _ => []
  | .launchMerge _ _ => []
  | .preemptionStart _ => []
  | .drainComplete _ => []
  | .saveComplete _ => []
  | .gangResume _ => []
  | .resumeComplete _ => []
  | .gangLevelFault _ _ => []
  | .dieFence _ => []
  | .powerGood => []
  | .functionStartupComplete _ => []
  | .startupBoundExpiry _ => []
  | .linkRetryFailure _ => []
  | .peerUnreachableTimeout _ => []
  | .peerRequestReceive _ => []
  | .ethernetRetransmit _ => []
  | .engineSliceStart _ => []
  | .budgetRefill => []
  | .thermalThrottle => []
  | .thermalPowerOff => []
  | .powercapWrite _ => []
  | .peerRouteWrite _ _ => []
  | .barRegisterWrite _ _ _ _ => []
  | .getVersion _ => []
  | .getCapabilities _ => []
  | .negotiateAlgorithms _ => []
  | .getDigests _ => []
  | .getCertificate _ => []
  | .challenge _ => []
  | .getMeasurements _ => []
  | .keyExchange _ => []
  | .finish _ => []
  | .ideKm _ => []
  | .lockInterface _ => []
  | .stopInterface _ => []
  | .tdispBreach _ => []
  | .functionFailure _ => []
  | .startInterface _ => []
  | .powerAboveCap => []

/-- The bytes of an instruction. -/
def encode (i : Instr) : List Byte := bytesOfWords (encodeWords i)

/-- The first n bytes of a number, least significant first. -/
def bytesOfNat : Nat → Nat → List Byte
  | 0, _ => []
  | n + 1, w => BitVec.ofNat 8 w :: bytesOfNat n (w / 256)

/-- The instruction of a word of the opcode table: the bits above nbits are zero up to the longest instruction. -/
def decodeTableWord (nbits w : Nat) : Option Instr :=
  match decode (bytesOfNat 20 (w % 2 ^ nbits)) with
  | .ok i => some i
  | .error _ => none

end Sys2Proof
end

