-- ==== Sys2Proof/Machine/Float.lean ====
section
/-! DEFINITION. IEEE arithmetic, exact and rounded once (spec/04 R62 to R67, Tables 4-2 and 4-3). Values are exact dyadic
numbers; a format is its exponent and fraction widths. -/

namespace Sys2Proof.Machine

/-- A rounding mode (R63). -/
inductive Rnd where
  | rne
  | rtz
  | rup
  | rdn
deriving DecidableEq, Repr

/-- A float format: exponent bits and fraction bits (Table 4-2). -/
structure Fmt where
  eb : Nat
  mb : Nat
deriving DecidableEq, Repr

/-- binary64. -/
def f64 : Fmt := ⟨11, 52⟩
/-- binary32. -/
def f32 : Fmt := ⟨8, 23⟩
/-- binary16. -/
def f16 : Fmt := ⟨5, 10⟩
/-- bfloat16. -/
def bf16 : Fmt := ⟨8, 7⟩

/-- The sticky flags NV [4], DZ [3], OF [2], UF [1], NX [0] (Table 1-5). -/
abbrev Flags := BitVec 5

/-- No flag. -/
def noFlags : Flags := 0
/-- Invalid operation. -/
def flagNV : Flags := 16
/-- Division by zero. -/
def flagDZ : Flags := 8
/-- Overflow. -/
def flagOF : Flags := 4
/-- Underflow. -/
def flagUF : Flags := 2
/-- Inexact. -/
def flagNX : Flags := 1

/-- A float read exactly: a NaN, an infinity, or (-1)^neg * m * 2^e. -/
inductive FVal where
  | nan (signalling : Bool)
  | inf (neg : Bool)
  | fin (neg : Bool) (m : Nat) (e : Int)
deriving DecidableEq, Repr

/-- A result's bits and the flags it sets. -/
structure FRes where
  bits : Nat
  flags : Flags
deriving DecidableEq, Repr

/-- The exponent bias. -/
def Fmt.bias (f : Fmt) : Int := 2 ^ (f.eb - 1) - 1

/-- The exponent of the least denormal bit. -/
def Fmt.quantum (f : Fmt) : Int := 1 - f.bias - f.mb

/-- Assemble sign, exponent field and fraction field; the fraction may carry into the exponent. -/
def Fmt.pack (f : Fmt) (neg : Bool) (expField frac : Nat) : Nat :=
  bit01 neg * 2 ^ (f.eb + f.mb) + expField * 2 ^ f.mb + frac

/-- CanonNaN (Table 1-10). -/
def Fmt.canonNaN (f : Fmt) : Nat := f.pack false (2 ^ f.eb - 1) (2 ^ (f.mb - 1))

/-- Infinity. -/
def Fmt.infinity (f : Fmt) (neg : Bool) : Nat := f.pack neg (2 ^ f.eb - 1) 0

/-- The largest finite value. -/
def Fmt.largest (f : Fmt) (neg : Bool) : Nat := f.pack neg (2 ^ f.eb - 2) (2 ^ f.mb - 1)

/-- Zero. -/
def Fmt.zero (f : Fmt) (neg : Bool) : Nat := f.pack neg 0 0

/-- Read bits; under flush a denormal reads as zero of its sign (R62, R64). -/
def Fmt.read (f : Fmt) (flush : Bool) (bits : Nat) : FVal :=
  let neg := decide (bits / 2 ^ (f.eb + f.mb) % 2 = 1)
  let ex := bits / 2 ^ f.mb % 2 ^ f.eb
  let fr := bits % 2 ^ f.mb
  if ex = 2 ^ f.eb - 1 then (if fr = 0 then .inf neg else .nan (decide (fr < 2 ^ (f.mb - 1))))
  else if ex = 0 then (if flush then .fin neg 0 f.quantum else .fin neg fr f.quantum)
  else .fin neg (2 ^ f.mb + fr) (f.quantum + (ex - 1 : Nat))

/-- The bit length of a number. -/
def bitLen (m : Nat) : Nat := if m = 0 then 0 else m.log2 + 1

/-- Whether a magnitude n + r/h, with r below h > 0, rounds up to n + 1 (R63). -/
def roundsUp (mode : Rnd) (neg : Bool) (n r h : Nat) : Bool :=
  match mode with
  | .rne => decide (h < 2 * r) || (decide (2 * r = h) && n % 2 == 1)
  | .rtz => false
  | .rup => !neg && decide (0 < r)
  | .rdn => neg && decide (0 < r)

/-- m * 2^s rounded to an integer magnitude, and whether it changed. -/
def roundInt (mode : Rnd) (neg : Bool) (m : Nat) (s : Int) : Nat × Bool :=
  if 0 ≤ s then (m * 2 ^ s.toNat, false)
  else
    let k := (-s).toNat
    if bitLen m + 2 < k then
      (bit01 (roundsUp mode neg 0 (if m = 0 then 0 else 1) 4), decide (0 < m))
    else
      let n := m / 2 ^ k
      let r := m % 2 ^ k
      (n + bit01 (roundsUp mode neg n r (2 ^ k)), decide (0 < r))

/-- The overflow result of Table 4-3. -/
def Fmt.overflow (f : Fmt) (mode : Rnd) (neg : Bool) : Nat :=
  match mode with
  | .rne => f.infinity neg
  | .rtz => f.largest neg
  | .rup => if neg then f.largest true else f.infinity false
  | .rdn => if neg then f.infinity true else f.largest false

/-- Round (-1)^neg * m * 2^e (R63, R64); an exact zero keeps its sign. -/
def Fmt.round (f : Fmt) (mode : Rnd) (flush : Bool) (neg : Bool) (m : Nat) (e : Int) : FRes :=
  if m = 0 then ⟨f.zero neg, noFlags⟩
  else
    let top : Int := e + (bitLen m : Int) - 1
    let (n, inexact) := roundInt mode neg m (e - (top - f.mb))
    let top' := if n = 2 ^ (f.mb + 1) then top + 1 else top
    if top' < 1 - f.bias then
      (if flush then ⟨f.zero neg, flagUF ||| flagNX⟩
       else
         let (d, inexactD) := roundInt mode neg m (e - f.quantum)
         ⟨f.pack neg 0 d, if inexactD then flagUF ||| flagNX else noFlags⟩)
    else if f.bias < top' then ⟨f.overflow mode neg, flagOF ||| flagNX⟩
    else
      let frac := if n = 2 ^ (f.mb + 1) then 0 else n - 2 ^ f.mb
      ⟨f.pack neg (top' + f.bias).toNat frac, if inexact then flagNX else noFlags⟩

/-- The invalid-operation flag of a signalling operand (R65). -/
def FVal.invalid : FVal → Flags
  | .nan true => flagNV
  | _ => noFlags

/-- The value is a NaN. -/
def FVal.isNaN : FVal → Bool
  | .nan _ => true
  | _ => false

/-- The sign of a number; a NaN has none. -/
def FVal.neg : FVal → Bool
  | .nan _ => false
  | .inf n => n
  | .fin n _ _ => n

/-- The negated value; a NaN stays itself. -/
def FVal.negate : FVal → FVal
  | .nan s => .nan s
  | .inf n => .inf (!n)
  | .fin n m e => .fin (!n) m e

/-- A signed integer times 2^e from sign and magnitude. -/
def signedMag (neg : Bool) (m : Nat) : Int := if neg then -(m : Int) else m

/-- The exact sum of two finite values; a zero sum takes the sign of R63. -/
def finSum (mode : Rnd) (n1 : Bool) (m1 : Nat) (e1 : Int) (n2 : Bool) (m2 : Nat) (e2 : Int) : FVal :=
  let e := min e1 e2
  let x := signedMag n1 (m1 * 2 ^ (e1 - e).toNat) + signedMag n2 (m2 * 2 ^ (e2 - e).toNat)
  if x = 0 then .fin (if n1 = n2 then n1 else mode == .rdn) 0 e else .fin (decide (x < 0)) x.natAbs e

/-- Deliver a value whose finite part is exact. -/
def Fmt.deliver (f : Fmt) (mode : Rnd) (flush : Bool) (flags : Flags) (v : FVal) : FRes :=
  match v with
  | .nan _ => ⟨f.canonNaN, flags⟩
  | .inf n => ⟨f.infinity n, flags⟩
  | .fin n m e => let r := f.round mode flush n m e; ⟨r.bits, flags ||| r.flags⟩

/-- A + B (R63 to R65). -/
def Fmt.addV (f : Fmt) (mode : Rnd) (flush : Bool) (a b : FVal) : FRes :=
  let fl := a.invalid ||| b.invalid
  match a, b with
  | .nan _, _ => ⟨f.canonNaN, fl⟩
  | _, .nan _ => ⟨f.canonNaN, fl⟩
  | .inf x, .inf y => if x = y then ⟨f.infinity x, fl⟩ else ⟨f.canonNaN, flagNV⟩
  | .inf x, .fin _ _ _ => ⟨f.infinity x, fl⟩
  | .fin _ _ _, .inf y => ⟨f.infinity y, fl⟩
  | .fin n1 m1 e1, .fin n2 m2 e2 => f.deliver mode flush fl (finSum mode n1 m1 e1 n2 m2 e2)

/-- The exact product and the flags of forming it. -/
def mulV (a b : FVal) : FVal × Flags :=
  let fl := a.invalid ||| b.invalid
  let neg := a.neg != b.neg
  match a, b with
  | .nan _, _ => (.nan false, fl)
  | _, .nan _ => (.nan false, fl)
  | .inf _, .inf _ => (.inf neg, fl)
  | .inf _, .fin _ m _ => if m = 0 then (.nan false, flagNV) else (.inf neg, fl)
  | .fin _ m _, .inf _ => if m = 0 then (.nan false, flagNV) else (.inf neg, fl)
  | .fin _ m1 e1, .fin _ m2 e2 => (.fin neg (m1 * m2) (e1 + e2), fl)

/-- A * B. -/
def Fmt.mulF (f : Fmt) (mode : Rnd) (flush : Bool) (a b : FVal) : FRes :=
  f.deliver mode flush (mulV a b).2 (mulV a b).1

/-- A * B + C, one rounding; an invalid product gives NV whatever C is (Table 6-5). -/
def Fmt.fmaF (f : Fmt) (mode : Rnd) (flush : Bool) (a b c : FVal) : FRes :=
  let p := mulV a b
  let r := f.addV mode flush p.1 c
  ⟨r.bits, r.flags ||| p.2⟩

/-- A quotient of magnitudes with at least `bits` bits, its last bit the sticky one. -/
def quotient (bits m1 m2 : Nat) : Nat × Int :=
  let k := bits + bitLen m2
  let q := m1 * 2 ^ k / m2
  (2 * q + bit01 (m1 * 2 ^ k % m2 != 0), -(k : Int) - 1)

/-- A / B (Table 6-5). -/
def Fmt.divF (f : Fmt) (mode : Rnd) (flush : Bool) (a b : FVal) : FRes :=
  let fl := a.invalid ||| b.invalid
  let neg := a.neg != b.neg
  match a, b with
  | .nan _, _ => ⟨f.canonNaN, fl⟩
  | _, .nan _ => ⟨f.canonNaN, fl⟩
  | .inf _, .inf _ => ⟨f.canonNaN, flagNV⟩
  | .inf _, .fin _ _ _ => ⟨f.infinity neg, fl⟩
  | .fin _ _ _, .inf _ => ⟨f.zero neg, fl⟩
  | .fin _ m1 e1, .fin _ m2 e2 =>
    if m2 = 0 then (if m1 = 0 then ⟨f.canonNaN, flagNV⟩ else ⟨f.infinity neg, flagDZ⟩)
    else if m1 = 0 then ⟨f.zero neg, fl⟩
    else
      let (q, s) := quotient (f.mb + 4) m1 m2
      f.deliver mode flush fl (.fin neg q (e1 - e2 + s))

/-- The bits of an integer square root, from bit k - 1 down. -/
def isqrtFrom (n : Nat) : Nat → Nat → Nat
  | 0, r => r
  | k + 1, r =>
    let r' := r + 2 ^ k
    isqrtFrom n k (if r' * r' ≤ n then r' else r)

/-- The integer square root. -/
def isqrt (n : Nat) : Nat := isqrtFrom n (bitLen n / 2 + 1) 0

/-- The square root of m * 2^e with enough bits, its last bit the sticky one. -/
def rootParts (bits m : Nat) (e : Int) : Nat × Int :=
  let odd := e % 2 != 0
  let m1 := if odd then 2 * m else m
  let e1 := if odd then e - 1 else e
  let n := m1 * 4 ^ bits
  let r := isqrt n
  (2 * r + bit01 (r * r != n), e1 / 2 - bits - 1)

/-- The square root of A (Table 6-5). -/
def Fmt.sqrtF (f : Fmt) (mode : Rnd) (flush : Bool) (a : FVal) : FRes :=
  match a with
  | .nan _ => ⟨f.canonNaN, a.invalid⟩
  | .inf n => if n then ⟨f.canonNaN, flagNV⟩ else ⟨f.infinity false, noFlags⟩
  | .fin n m e =>
    if m = 0 then ⟨f.zero n, noFlags⟩
    else if n then ⟨f.canonNaN, flagNV⟩
    else
      let (r, s) := rootParts (f.mb + 4) m e
      f.deliver mode flush noFlags (.fin false r s)

/-- A * 2^k, rounded (Table 6-5, FSCALE). -/
def Fmt.scaleF (f : Fmt) (mode : Rnd) (flush : Bool) (a : FVal) (k : Int) : FRes :=
  match a with
  | .nan _ => ⟨f.canonNaN, a.invalid⟩
  | .inf n => ⟨f.infinity n, noFlags⟩
  | .fin n m e => f.deliver mode flush noFlags (.fin n m (e + k))

/-- A rounded to an integral value (Table 6-5, FRND). -/
def Fmt.integralF (f : Fmt) (mode : Rnd) (a : FVal) : FRes :=
  match a with
  | .nan _ => ⟨f.canonNaN, a.invalid⟩
  | .inf n => ⟨f.infinity n, noFlags⟩
  | .fin n m e =>
    let (k, inexact) := roundInt mode n m e
    if 0 ≤ e then ⟨(f.round mode false n m e).bits, noFlags⟩
    else ⟨(f.round mode false n k 0).bits, if inexact then flagNX else noFlags⟩

/-- Compare two numbers; none when either is a NaN. -/
def FVal.cmp (a b : FVal) : Option Ordering :=
  match a, b with
  | .nan _, _ => none
  | _, .nan _ => none
  | .inf x, .inf y => some (if x = y then .eq else if x then .lt else .gt)
  | .inf x, .fin _ _ _ => some (if x then .lt else .gt)
  | .fin _ _ _, .inf y => some (if y then .gt else .lt)
  | .fin n1 m1 e1, .fin n2 m2 e2 =>
    let e := min e1 e2
    some (compare (signedMag n1 (m1 * 2 ^ (e1 - e).toNat)) (signedMag n2 (m2 * 2 ^ (e2 - e).toNat)))

/-- The bits of a value already in the format. -/
def Fmt.bitsOf (f : Fmt) (v : FVal) : Nat := (f.deliver .rne false noFlags v).bits

/-- FMIN and FMAX: the operand chosen, with -0 below +0 (Table 6-5). -/
def Fmt.minmaxF (f : Fmt) (wantMax : Bool) (a b : FVal) : FRes :=
  let fl := a.invalid ||| b.invalid
  match a.cmp b with
  | none =>
    if a.isNaN then (if b.isNaN then ⟨f.canonNaN, fl⟩ else ⟨f.bitsOf b, fl⟩) else ⟨f.bitsOf a, fl⟩
  | some o =>
    let aLow := match o with
      | .lt => true
      | .gt => false
      | .eq => a.neg
    ⟨f.bitsOf (if aLow != wantMax then a else b), fl⟩

/-- A float in another format (R67). -/
def Fmt.convert (f : Fmt) (mode : Rnd) (flush : Bool) (a : FVal) : FRes := f.deliver mode flush a.invalid a

/-- An integer as a float (R67). -/
def Fmt.ofInt (f : Fmt) (mode : Rnd) (flush : Bool) (x : Int) : FRes :=
  f.deliver mode flush noFlags (.fin (decide (x < 0)) x.natAbs 0)

/-- A float as an integer of the range lo to hi (R67). -/
def toIntF (mode : Rnd) (lo hi : Int) (a : FVal) : Int × Flags :=
  match a with
  | .nan _ => (0, flagNV)
  | .inf n => (if n then lo else hi, flagNV)
  | .fin n m e =>
    if (hi.natAbs + lo.natAbs).log2 + 2 < (e + bitLen m).toNat then (if n then lo else hi, flagNV)
    else
      let (k, inexact) := roundInt mode n m e
      let x := signedMag n k
      if x < lo then (lo, flagNV) else if hi < x then (hi, flagNV)
      else (x, if inexact then flagNX else noFlags)

/-- Binary32 addition RNE that keeps denormals (R73, R124, R137). -/
def addRNE (f : Fmt) (x y : Nat) : FRes := f.addV .rne false (f.read false x) (f.read false y)

end Sys2Proof.Machine
end

