-- ==== Sys2Proof/Machine/Table.lean ====
section
/-! DEFINITION. Finite tables as plain lists: a sparse map over Nat with a default, kept sorted with no entry equal to the
default (the canonical form of memory), and an association table over any keys. -/

namespace Sys2Proof.Machine

/-- The value at a key of a sparse map, `d` where the map lists none. -/
def smGet {β : Type} (d : β) : List (Nat × β) → Nat → β
  | [], _ => d
  | (a, v) :: m, k => if a = k then v else smGet d m k

/-- A sparse map without a key. -/
def smErase {β : Type} : List (Nat × β) → Nat → List (Nat × β)
  | [], _ => []
  | (a, v) :: m, k => if a = k then smErase m k else (a, v) :: smErase m k

/-- Put an entry before the first greater key. -/
def smInsert {β : Type} : List (Nat × β) → Nat → β → List (Nat × β)
  | [], k, v => [(k, v)]
  | (a, w) :: m, k, v => if k < a then (k, v) :: (a, w) :: m else (a, w) :: smInsert m k v

/-- Write a key; the default removes the entry. -/
def smSet {β : Type} [DecidableEq β] (d : β) (m : List (Nat × β)) (k : Nat) (v : β) : List (Nat × β) :=
  if v = d then smErase m k else smInsert (smErase m k) k v

/-- The canonical form: keys strictly rising, no entry equal to the default. -/
def smWf {β : Type} [DecidableEq β] (d : β) : List (Nat × β) → Bool
  | [] => true
  | [(_, v)] => decide (v ≠ d)
  | (a, v) :: (b, w) :: m => decide (a < b) && decide (v ≠ d) && smWf d ((b, w) :: m)

/-- Write several keys in order. -/
def smSetAll {β : Type} [DecidableEq β] (d : β) (m : List (Nat × β)) : List (Nat × β) → List (Nat × β)
  | [] => m
  | (k, v) :: rest => smSetAll d (smSet d m k v) rest

/-- Keep the entries whose key satisfies a test. -/
def smFilter {β : Type} (p : Nat → Bool) : List (Nat × β) → List (Nat × β)
  | [] => []
  | (a, v) :: m => if p a then (a, v) :: smFilter p m else smFilter p m

/-- The entry of a key in an association table. -/
def tbGet {α β : Type} [DecidableEq α] : List (α × β) → α → Option β
  | [], _ => none
  | (a, v) :: m, k => if a = k then some v else tbGet m k

/-- Replace the first entry of a key, or add one at the end. -/
def tbSet {α β : Type} [DecidableEq α] : List (α × β) → α → β → List (α × β)
  | [], k, v => [(k, v)]
  | (a, w) :: m, k, v => if a = k then (k, v) :: m else (a, w) :: tbSet m k v

/-- Remove every entry of a key. -/
def tbErase {α β : Type} [DecidableEq α] : List (α × β) → α → List (α × β)
  | [], _ => []
  | (a, w) :: m, k => if a = k then tbErase m k else (a, w) :: tbErase m k

/-- Change the entry of a key, if there is one. -/
def tbModify {α β : Type} [DecidableEq α] : List (α × β) → α → (β → β) → List (α × β)
  | [], _, _ => []
  | (a, w) :: m, k, f => if a = k then (a, f w) :: m else (a, w) :: tbModify m k f

/-- The keys of a table. -/
def tbKeys {α β : Type} (m : List (α × β)) : List α := m.map Prod.fst

/-- A set of numbers as a sorted list without repeats. -/
def nsInsert : List Nat → Nat → List Nat
  | [], k => [k]
  | a :: m, k => if k < a then k :: a :: m else if k = a then a :: m else a :: nsInsert m k

/-- Remove a number from a set. -/
def nsErase : List Nat → Nat → List Nat
  | [], _ => []
  | a :: m, k => if a = k then nsErase m k else a :: nsErase m k

/-- Insert a number, or remove it. -/
def nsPut (m : List Nat) (k : Nat) (on : Bool) : List Nat := if on then nsInsert m k else nsErase m k

/-- A list without repeats: the last of each stays. -/
def distinct {α : Type} [DecidableEq α] : List α → List α
  | [] => []
  | a :: l => if l.contains a then distinct l else a :: distinct l

/-- The numbers lo, lo + 1, ..., lo + n - 1. -/
def natsFrom (lo : Nat) : Nat → List Nat
  | 0 => []
  | n + 1 => lo :: natsFrom (lo + 1) n

/-- The first element a test accepts. -/
def firstWhere {α : Type} (p : α → Bool) : List α → Option α
  | [] => none
  | a :: l => if p a then some a else firstWhere p l

/-- The least element under a strict order given as a test; the first of equals. -/
def leastBy {α : Type} (lt : α → α → Bool) : List α → Option α
  | [] => none
  | a :: l =>
    match leastBy lt l with
    | none => some a
    | some b => if lt b a then some b else some a

/-- Sum of numbers. -/
def sumNat : List Nat → Nat
  | [] => 0
  | a :: l => a + sumNat l

/-- The largest of numbers, 0 for none. -/
def maxNat : List Nat → Nat
  | [] => 0
  | a :: l => max a (maxNat l)

/-- Bytes as a number, little-endian. -/
def natOfBytes : List Byte → Nat
  | [] => 0
  | b :: bs => b.toNat + 256 * natOfBytes bs

/-- The first n bytes of a number, little-endian. -/
def natBytes : Nat → Nat → List Byte
  | 0, _ => []
  | n + 1, w => BitVec.ofNat 8 w :: natBytes n (w / 256)

/-- Bits hi..lo of a number. -/
def natBits (x hi lo : Nat) : Nat := x / 2 ^ lo % 2 ^ (hi + 1 - lo)

/-- Bit n of a number. -/
def natBit (x n : Nat) : Bool := x / 2 ^ n % 2 == 1

/-- Division rounded up. -/
def ceilDiv (a b : Nat) : Nat := (a + b - 1) / b

end Sys2Proof.Machine
end

