-- ==== Sys2Proof/Machine/State.lean ====
section
/-! DEFINITION. The state of the part, as plain data (spec/01 R9, R18 and the chapters each field cites), and State.reset. -/

namespace Sys2Proof.Machine

/-- Why a step stops with a fault. -/
inductive Fault where
  /-- Raised by nothing: every fault of spec/15 is taken inside the machine (R94, R290, R312), so no step stops. Safe. -/
  | never
deriving DecidableEq, Repr

/-- Why a step is refused. -/
inductive Refusal where
  /-- Raised by an arm of Dispatch for an instruction without a meaning. Safe: nothing is claimed of it. -/
  | notModelled (mnemonic : String)
deriving DecidableEq, Repr

/-- A register: its word and its poison bit (R12). -/
structure PWord where
  v : Word
  p : Bool
deriving DecidableEq, Repr

/-- A byte in flight with the poison of its ECC word (R133). -/
structure PByte where
  v : Byte
  p : Bool
deriving DecidableEq, Repr

/-- The fault record of a thread (R22, Table 1-4). -/
structure FaultRec where
  kind : Byte
  pc : Dword
  entry : Dword
  lane : Word
  addr : Dword
  info : Word
deriving DecidableEq, Repr

/-- What a fault writes into the record beyond the two PCs and the lane (R291). -/
structure FaultInfo where
  kind : Nat
  addr : Nat
  info : Nat
deriving DecidableEq, Repr

/-- A fault recorded by a span's first run: its position and what it found (R34, R293). -/
structure SpanFault where
  index : Nat
  pc : Dword
  what : FaultInfo
deriving DecidableEq, Repr

/-- Whose stores a thread may know of: one thread's, a workgroup's, a gang's, a launch's, those of the engines and the device, everyone's. -/
inductive Circle where
  | thread (t : ThreadId)
  | group (w : WgId)
  | gang (g : GangId)
  | launch (part launch : Nat)
  | device
  | all
deriving DecidableEq, Repr

/-- The stores of a circle with numbers below a bound happen before what knows them (R200). -/
structure Known where
  who : Circle
  upto : Nat
deriving DecidableEq, Repr

/-- A release at a scope: its thread, none for the device, and the stores that happen before it (R200). -/
structure Told where
  writer : Option ThreadId
  scope : Nat
  knows : List Known
deriving DecidableEq, Repr

/-- A relaxed load took a value that releases stand for; a FENCE.acq may still synchronise with them (R200). -/
structure Heard where
  key : Nat
  size : Nat
  told : List Told
deriving DecidableEq, Repr

/-- What a thread knows of stores (R200, R201): those that happen before it, the releases its relaxed loads took, the bytes its
uncommitted loads race on, its fences' releases by scope, which cover its stores, and the widest scope of its FENCE.sc. -/
structure Sync where
  knows : List Known
  heard : List Heard
  races : List Nat
  rel : List Told
  sc : Option Nat
deriving DecidableEq, Repr

/-- What a span restores on rollback (R83, R197). -/
structure Undo where
  regs : List (Nat × PWord)
  preds : BitVec 7
  fflags : Flags
  wd : Nat
  sync : Sync
deriving DecidableEq, Repr

/-- A store of the span store buffer (R82, R133): its place in the span, its address and home, its bytes. -/
structure StoreRec where
  index : Nat
  va : Nat
  key : Nat
  bytes : List PByte
  release : Option Nat
  region : Option Nat
  snap : Bool
deriving DecidableEq, Repr

/-- A long-latency result not yet landed (R45, R82). -/
structure Pend where
  id : Nat
  pc : Dword
  regs : List Nat
  preds : List Nat
  window : Nat
  committed : Bool
  /-- the seal of its span waits for it (R82) -/
  sealing : Bool
  ready : Bool
  signed : Bool
  words : List PWord
  bits : List Bool
deriving DecidableEq, Repr

/-- What an access does at its home (R132, R133, R137, R141, R143). -/
inductive AccOp where
  | load (fwd : List (Nat × PByte))
  | store (bytes : List PByte)
  | storeJoin (bytes : List PByte)
  | atom (op ty : Nat) (operand : Nat) (poison : Bool) (wantsOld : Bool)
  | cas (compare new : Nat) (poisonCmp poisonNew : Bool)
  | join (v : Nat)
  | jinc (addend : Nat) (die : Nat)
deriving DecidableEq, Repr

/-- Who sent an access. -/
inductive AccSrc where
  | thread (t : ThreadId)
  | device
deriving DecidableEq, Repr

/-- An access on its way to its home (R197, R214). -/
structure Access where
  id : Nat
  /-- its place among those that came to its paths: its number, a new one where it is sent again (R214, R337) -/
  place : Nat
  src : AccSrc
  gang : GangId
  core : Nat
  va : Nat
  key : Nat
  size : Nat
  op : AccOp
  /-- the scopes at which it acquires and releases; it is an .sc operation (R199) -/
  acquire : Option Nat
  release : Option Nat
  sc : Bool
  /-- the releases it stands for, its own or those of fences before it, and the scope of a FENCE.sc after it (R200, R206) -/
  told : List Told
  scAfter : Option Nat
  /-- its hash lane (R221); for a peer, the entry of the route table it was issued under (R363) -/
  lane : Nat
  route : BitVec 256 := 0
  /-- the bytes belong to a MERGE snapshot (R324); the page's entry has its recorded bit (R330); the region entry -/
  snap : Bool
  recorded : Bool
  region : Option Nat
  /-- accesses that must be performed before this one leaves its core's queue -/
  waitPerformed : List Nat
  /-- device clk at which it was sent, or at which a gate began to hold it (R337, R365) -/
  heldSince : Nat
deriving DecidableEq, Repr

/-- What a thread waits for (Table 14-2). -/
inductive Wait where
  | ready
  | nap (earliest latest : Nat) (next : Dword)
  | napTurn (others : List (Nat × Nat)) (next : Dword)
  | ldlt (x : Ext) (va key : Nat) (threshold : Nat) (left : Option Nat) (since : Nat) (next : Dword)
  | rejoin (j : Nat) (next : Dword)
  | barrier (key phase pred : Nat) (next : Dword)
  | wsync (next : Dword)
  | gsync (next : Dword)
  | atomic (id : Nat) (d : Nat) (wide : Bool) (mates : List Nat) (next : Dword)
  | together (mates : List Nat) (here next : Dword)
  | logged (no : Nat) (mates : List Nat) (next : Dword)
  | mcrecv (id : Nat) (next : Dword)
  | exitWait
  | drained (next : Dword)
  | exited
deriving DecidableEq, Repr

/-- What a TLBINV or an unmapping SMAP of a thread still waits for (R102): accesses on their way, and open spans by thread and time. -/
structure Inval where
  ids : List Nat
  spans : List (ThreadId × Nat)
deriving DecidableEq, Repr

/-- A thread (R9, Table 1-1). Registers are keyed by the flat index of Table 1-2, the temporaries at 496 to 511. -/
structure Thread where
  pc : Dword
  regs : List (Nat × PWord)
  preds : BitVec 7
  fflags : Flags
  fmode : Word
  fr : FaultRec
  inHandler : Bool
  wd : Nat
  deadline : Nat
  wait : Wait
  vanish : Word
  digest : Word
  undo : Undo
  stores : List StoreRec
  pends : List Pend
  flt : Option SpanFault
  /-- the kinds of the faults the span's first run found, a bit each (R293) -/
  kinds : Nat
  /-- device clk at which it last issued, and how many instructions it has issued (R93, R277, R278) -/
  lastIssue : Nat
  issues : Nat
  /-- its group was held at its instruction when it last came to issue it (R276) -/
  stalled : Bool
  /-- the number of its span (R102) -/
  span : Nat
  live : Option Nat
  sync : Sync
  /-- at an instruction that acts at its step: the number the next access had when its lane came to it, its place in its paths (R214) -/
  arrived : Option Nat
  inval : Option Inval
  /-- the gang a CTXSAVE of the lane is saving, and its status once it is known (R274) -/
  ctx : Option (GangId × Option Nat)
deriving DecidableEq, Repr

/-- An open lookahead window of a span (R45). -/
structure Window where
  left : Nat
  regs : List Nat
  preds : List Nat
deriving DecidableEq, Repr

/-- Where a span stands between issue and commit (R82, R293 to R296). -/
inductive Phase where
  | run
  | reported (summary : Nat) (lane : Nat) (first : SpanFault)
  | mismatch
  | slow (retry : Bool) (summary : Nat) (lane : Nat) (first : SpanFault) (found : Option (Nat × FaultInfo))
  | sealed
deriving DecidableEq, Repr

/-- The issue group at work in a warp: its lanes, span entry, next instruction and count (R79, R80). -/
structure Issue where
  lanes : List Nat
  entry : Dword
  pc : Dword
  count : Nat
  phase : Phase
  windows : List Window
  /-- the instruction decoded and not yet issued; a boundary one waits so for the seal (R51, R79) -/
  held : Option Instr
  /-- the lane whose count reached its deadline at the instruction the group came to issue (R90) -/
  overrun : Option Nat
  /-- in the slow gear: how many of its lanes have completed the memory instruction at its PC (R295) -/
  passed : Nat
deriving DecidableEq, Repr

/-- A lane access logged for a page being settled, with its captured operands (R128): the number of its instruction, and its place in
the span, 0 for a boundary instruction. -/
structure LogEntry where
  lane : Nat
  no : Nat
  index : Nat
  pc : Dword
  i : Instr
  va : Nat
  data : List PWord
deriving DecidableEq, Repr

/-- A spill slot: format byte and words (R100, R101). -/
structure SpillSlot where
  fmt : Nat
  words : List (Nat × PWord)
deriving DecidableEq, Repr

/-- A warp. -/
structure Warp where
  lanes : List (Nat × Thread)
  masks : List (Nat × Word)
  spill : List (Nat × SpillSlot)
  cur : Option Issue
  log : List LogEntry
  /-- the shadow warp of a paired launch: its lanes and rejoin masks (R307) -/
  shadow : Option (List (Nat × Thread))
  shadowMasks : List (Nat × Word)
deriving DecidableEq, Repr

/-- States of a convergence register (Table 1-3). -/
inductive KState where
  | idle
  | opened
  | posted
  | poisoned
deriving DecidableEq, Repr

/-- The operation of a round (R179): format word, slot word, barrier address (0 for none) and its home. -/
structure MmaOp where
  fword : Word
  sword : Word
  bar : Nat
  barKey : Nat
deriving DecidableEq, Repr

/-- A convergence register (R17). -/
structure KReg where
  fword : Word
  state : KState
  count : Nat
  expected : Nat
  op : Option MmaOp
  signers : List ThreadId
deriving DecidableEq, Repr

/-- The instructions a workgroup's warps issue, by clk, newest first: of the span of 65,536 clk that began at `since`, and of the one
before it (R283). -/
structure Rate where
  since : Nat
  now : List (Nat × Nat)
  before : List (Nat × Nat)
deriving DecidableEq, Repr

/-- A workgroup: its core, %wg slot, slice base and convergence registers (R17, R216, R269). While its gang is saved, `base` is the
partition-physical address of its save image and `image` the bytes of it (R217, R288). -/
structure Wg where
  core : Nat
  slot : Nat
  base : Nat
  image : Nat
  k : List (Nat × KReg)
  rate : Rate
deriving DecidableEq, Repr

/-- States of a gang (Table 14-1). -/
inductive GangState where
  | queued
  | placing
  | running
  | draining
  | saving
  | saved
  | resuming
  | retiring
  | retired
deriving DecidableEq, Repr

/-- An atomic of a MERGE gang on a word (R326). -/
structure AtomLog where
  va : Nat
  size : Nat
  op : AccOp
  wrote : Bool
deriving DecidableEq, Repr

/-- A parked multicast tile (R261): who parked it, for which members, those that have claimed it and those that have drained it. -/
structure Parked where
  id : Nat
  gang : GangId
  sender : Nat
  channel : Nat
  mask : Nat
  claimed : List Nat
  drained : List Nat
  bytes : List PByte
deriving DecidableEq, Repr

/-- The launch header, read once (R27, Tables 1-6 to 1-8). -/
structure Header where
  entry : Nat
  params : Nat
  handler : Nat
  donebar : Nat
  shape : Nat
  e2 : Nat
  e3 : Nat
  e4 : Nat
  e5 : Nat
  control : Nat
deriving DecidableEq, Repr

/-- An open order-log chunk of a RECORD word (R332). -/
structure Chunk where
  seq : Nat
  pairs : List (Nat × Nat)
deriving DecidableEq, Repr

/-- A shadow version of a page of a contained launch: page VA, size, the frame that keeps it, the entry that names that frame; whether
the frame is the copy and the page kept its place (R314; log entry 68). -/
structure Version where
  va : Nat
  size : Nat
  old : Nat
  entry : Nat
  copied : Bool
deriving DecidableEq, Repr

/-- A launch of a partition's launch table (R96 to R98, R267, R313 to R315; spec/16). -/
structure Launch where
  hdr : Header
  status : Nat
  order : Nat
  walk : Nat
  /-- gangs to be placed again: those a die gave back or lost (R268, R272); those discarded, ahead of every unplaced gang (R267) -/
  again : List Nat
  redo : List Nat
  /-- the home of donebar when the launch was accepted, the number of LAUNCH's store of the record, if one is asked for (R98) -/
  doneKey : Nat
  recordId : Option Nat
  /-- what the launching thread knew: LAUNCH is a release (R99) -/
  knows : List Known
  placed : Bool
  ending : Option (Nat × Nat × Nat × Nat)
  relaunches : List (Nat × Nat)
  replays : Nat
  versions : List Version
  merged : Bool
  /-- MERGE: bytes of the snapshot kept before outside writes, by home (R325), and the pages that left HBM since (R323) -/
  kept : List (Nat × PByte)
  evicted : List (Nat × Nat)
  chunks : List (Nat × Chunk)
  lists : List (Nat × List (Nat × Nat))
  listsAll : List (Nat × List (Nat × Nat))
  digests : List (Nat × Nat)
  read : Bool
  divergent : List Nat
deriving DecidableEq, Repr

/-- A region-table entry (Table 12-1) with the partition time of its installation. -/
structure Region where
  base : Nat
  size : Nat
  type : Nat
  sched : Nat
  flags : Nat
  period : Nat
  since : Nat
  /-- rounds Owl has run (R245) -/
  rounds : Nat
deriving DecidableEq, Repr

/-- A counter of the bank (R352). -/
structure Counter where
  value : Nat
  event : Nat
  running : Bool
deriving DecidableEq, Repr

/-- Why Badger settles a page (R128, R227, R314, R324). -/
inductive SettleWhy where
  | notPresent (access : Nat)
  | migrate
  | version (launch : Nat)
  | copy (g : GangId)
deriving DecidableEq, Repr

/-- Who waits for a page: a lane, an engine of a core, or the device itself. -/
inductive Waiter where
  | thread (t : ThreadId)
  | core (c : Nat)
  | device
deriving DecidableEq, Repr

/-- One that waits for a page, with the address and the PC of its access and the entry of its span; for an engine, the thread whose command
it serves (R229, R299). -/
structure Ask where
  who : Waiter
  va : Nat
  pc : Nat
  entry : Nat
  src : Option ThreadId := none
deriving DecidableEq, Repr

/-- A settlement Badger has to make (R228): the page, its die, why, who waits, the host entry it waits for and its answer, the entry
the page had before it was set migrating, the pages that could not be evicted for it (R229, R230). -/
structure Settle where
  va : Nat
  die : Nat
  gang : GangId
  why : SettleWhy
  asks : List Ask
  seq : Option Nat
  answer : Option Nat
  old : Option Nat
  failed : List Nat
deriving DecidableEq, Repr

/-- An eviction under way (R229, R230): the page, its size, the entry it had when it was set migrating, its destination, the host entry it
waits for, the die whose region needs the room, the priority of the gang that needs it (R350). -/
structure Evict where
  va : Nat
  size : Nat
  old : Option Nat
  target : Option Nat
  seq : Option Nat
  die : Nat
  prio : Nat
deriving DecidableEq, Repr

/-- A pending entry of the host fault queue (R359). -/
structure HostEntry where
  seq : Nat
  va : Nat
  access : Nat
  since : Nat
deriving DecidableEq, Repr

/-- A device-generated write (R303): bytes; a debug-log record, with the gang whose trap, relaunch or end comes after it (R300); the void
flag of a log entry (R335); the status record of a launch's end, with its number (R98); an arrival on a completion barrier with its error
bit, the home it had at LAUNCH and the launch. All but the last carry the priority of what caused them (R350). -/
inductive DevOp where
  | bytes (va : Nat) (bs : List Byte) (prio : Nat)
  | status (va : Nat) (bs : List Byte) (launch prio : Nat)
  | record (va : Nat) (bs : List Byte) (gang : GangId) (prio : Nat)
  | void (va prio : Nat)
  | arrive (va : Nat) (err : Bool) (home launch : Nat)
deriving DecidableEq, Repr

/-- Whose bytes an engine of R350 moves: an access's, an engine command's for an engine, a page's; those a lane reads at issue from an
address, those of its next instruction, those of a device-generated write, those of a launch's merge for an engine. -/
inductive SliceOwner where
  | access (id : Nat)
  | cmd (id engine : Nat)
  | page (va : Nat)
  | read (t : ThreadId) (va : Nat)
  | fetch (t : ThreadId) (engine : Nat)
  | device (va : Nat)
  | merge (launch engine : Nat)
deriving DecidableEq, Repr

/-- Bytes that wait for slices of an engine of R350: 0 host DMA, 1 Xouth, 2 Ethernet; none are left once the last slice has started. -/
structure Slice where
  owner : SliceOwner
  engine : Nat
  bytes : Nat
  prio : Nat
deriving DecidableEq, Repr

/-- Who writes: a thread, or an engine or the device; the access's number, the releases it stands for, whether it is a
read-modify-write, and the scope of a FENCE.sc after it (R200, R201). -/
structure Writer where
  who : Option ThreadId := none
  id : Nat := 0
  told : List Told := []
  chain : Bool := false
  sc : Option Nat := none
deriving DecidableEq, Repr

/-- A write to a 16-byte line: the first of its bytes in the line and what those held before it, its writer, and the threads whose loads
it is the last that they took a value of, each with its access (R201, R203). -/
structure Past where
  off : Nat
  old : List PByte
  by_ : Writer
  readers : List (ThreadId × Nat)
deriving DecidableEq, Repr

/-- What the arrivals on a sector barrier release: those of its open phase, and those of the phases before it (R152, R153). -/
structure BarSync where
  open_ : List Known
  done : List Known
deriving DecidableEq, Repr

/-- A sequencer of .sc operations (Table 10-2). -/
inductive Sequencer where
  | warp (w : WarpId)
  | group (w : WgId)
  | gang (g : GangId)
  | die (d : Nat)
  | device
deriving DecidableEq, Repr

/-- A partition (R340, R344). -/
structure Part where
  mode : Nat
  rows : Nat
  ports : Nat
  pool : Nat
  keyNo : Nat
  root : Nat
  /-- bytes of the system image at VA 0x1_0000_0000 (R50, R344) -/
  image : Nat
  /-- SHA-384 of the root image (Table 17-5) -/
  imageHash : Nat
  ticks : Nat
  suspended : Bool
  regs : List (Nat × Nat)
  regions : List (Nat × Region)
  counters : List (Nat × Counter)
  debugSeq : Nat
  launches : List (Nat × Launch)
  nextLaunch : Nat
  nextOrder : Nat
  /-- frames Badger has taken: first 64 KiB unit and unit count (R229) -/
  frames : List (Nat × Nat)
  /-- origin of each migrated page, by its frame: the entry it had (R230) -/
  origins : List (Nat × Nat)
  /-- remote access counts by die and page (R227) -/
  touches : List ((Nat × Nat) × Nat)
  settles : List Settle
  evicts : List Evict
  hostEntries : List HostEntry
  hostSeq : Nat
  /-- requests that wait for a slot of the host fault queue: page and access code, in arrival order (R360) -/
  hostLine : List (Nat × Nat)
  pinned : Nat
  orderCount : Nat
  digestCount : Nat
  /-- the launch of each entry of the order and the digest log (R335) -/
  orderOf : List Nat
  digestOf : List Nat
  budget : Int
  /-- register 0x02 as the last millisecond found it (R351) -/
  grant : Nat
  slices : List Slice
  /-- device-generated writes that wait for Badger (R303) -/
  held : List DevOp
  /-- who has still to meet the refusal of a page (R359) -/
  nonce : Nat
  /-- SUSPEND waits for the partition's gangs to be saved (R346) -/
  suspending : Bool
  refused : List (Nat × Waiter)
  /-- the clk and the die of the last range handed out (R268) -/
  lastHand : Option (Nat × Nat)
  /-- the gang at the head of the queues that has no free rectangle, and the clk since when (R282) -/
  starved : Option (GangId × Nat)
  /-- the page at which Badger's sweep of each die's region stands (R229) -/
  hands : List (Nat × Nat)
deriving DecidableEq, Repr

/-- An operand slot (R165); only claimed slots are listed. -/
structure OpSlot where
  owner : WgId
  elem : List (Nat × Byte)
  hdr : List (Nat × BitVec 16)
  poison : List Nat
  fmt : Option Nat
  axis : Bool
deriving DecidableEq, Repr

/-- An accumulator slot (R168); only claimed slots are listed. -/
structure AccSlot where
  owner : WgId
  words : List (Nat × Word)
  poison : List Nat
  nanc : Nat
deriving DecidableEq, Repr

/-- States of a tile (R18, R158). -/
inductive TileState where
  | empty
  | filling
  | ready
  | draining
deriving DecidableEq, Repr

/-- A tile entry (R157): the address of its first byte; only defined entries are listed. -/
structure Tile where
  owner : WgId
  va : Nat
  size : Nat
  state : TileState
  progress : Nat
deriving DecidableEq, Repr

/-- A loaded transducer context (R187). -/
structure Ctx where
  owner : WgId
  bytes : List (Nat × Byte)
deriving DecidableEq, Repr

/-- A tensor record (Table 7-14). -/
structure Tensor where
  base : Nat
  format : Nat
  rank : Nat
  policy : Nat
  fill : Nat
  size : List Nat
  box : List Nat
  stride : List Int
deriving DecidableEq, Repr

/-- What an engine command does (Table 13-1). -/
inductive CmdOp where
  | copy (size : Nat) (lanes : List (Nat × Nat × Nat × Nat))
  | bulkIn (tile : Nat) (rec : Tensor) (coord : List Int)
  | bulkOut (tile : Nat) (rec : Tensor) (coord : List Int)
  | mcast (tile mask channel : Nat)
  | mcrecv (tile member channel : Nat)
deriving DecidableEq, Repr

/-- An engine command in its queue (R253): issuer, barrier and its home, when it came to the head (MCAST, R260), its walk tiles done
(R258), the commands it stands behind (QFENCE). -/
structure Cmd where
  id : Nat
  srcs : List ThreadId
  wg : WgId
  bar : Nat
  barKey : Nat
  op : CmdOp
  headAt : Nat
  walked : Nat
  done : Bool
  /-- accesses ahead of it in the core's queue when it took its entry (R254) -/
  after : List Nat
  /-- commands that must complete first (R148) -/
  behind : List Nat
  /-- the parked tile an MCRECV has claimed (R164) -/
  claim : Option Nat
  /-- the image an MCRECV copies; the lines read so far of a COPY or of a walk tile, by address (R256, R258) -/
  bytes : List PByte
  got : List (Nat × List PByte)
  /-- writes still to be performed, in order: an address and its bytes; half a byte has its high flag (R161, R258) -/
  todo : List (Nat × List PByte × Option Bool)
  /-- its reads are over and its writes have been listed: those of a COPY, or of a walk tile -/
  moving : Bool
deriving DecidableEq, Repr

/-- An entry of the matrix FIFO (R181, R182), with what it read when it started. -/
structure MatEntry where
  id : Nat
  wg : WgId
  signers : List ThreadId
  op : MmaOp
  started : Bool
  a : Option OpSlot
  b : Option OpSlot
  behind : List Nat
  dropped : Bool
deriving DecidableEq, Repr

/-- A translation of a TLB (R225). -/
structure TlbEntry where
  part : Nat
  va : Nat
  size : Nat
  entry : Nat
  dirty : Bool
deriving DecidableEq, Repr

/-- A retirement-tracker entry (R280): the lanes whose operations it counts. -/
structure Tracker where
  gang : GangId
  threads : List ThreadId
deriving DecidableEq, Repr

/-- A core (R18, R225, R252, R280). -/
structure Core where
  slots : List (Nat × OpSlot)
  accs : List (Nat × AccSlot)
  tiles : List (Nat × Tile)
  ctxs : List (Nat × Ctx)
  copyQ : List Cmd
  bulkQ : List Cmd
  mcastQ : List Cmd
  matQ : List MatEntry
  fences : List (Nat × List Nat)
  tracker : List (Nat × Tracker)
  tlb : List TlbEntry
  walkTlb : List TlbEntry
  mapped : List Nat
deriving DecidableEq, Repr

/-- A gang (R273). The slice map of R217 is the core and base of each workgroup. -/
structure Gang where
  state : GangState
  held : Bool
  die : Nat
  topCore : Nat
  /-- the clk it has spent in RUNNING (R283) -/
  runClk : Nat
  clean : Bool
  excluded : Option Nat
  savedDie : Nat
  parked : List Parked
  /-- private copies of MERGE pieces: key 65,536 times the piece is not stored; each byte by its VA, with its mask (R324) -/
  view : List (Nat × PByte)
  pieces : List Nat
  stored : List Nat
  atoms : List AtomLog
  /-- frames its private copies took (R324) -/
  copyFrames : List Nat
  /-- SAVED: what each member's core held of the gang (R186, R264) -/
  cores : List (Nat × Core)
  /-- RESUMING on another die: the deltas that have to be merged first (R145, R249) -/
  flush : List Nat
  /-- SAVED: accesses a save withdrew from a gate, sent again at resume (R337) -/
  gated : List Access
deriving DecidableEq, Repr

/-- A range of gangs handed to a die (R268). -/
structure Handed where
  part : Nat
  launch : Nat
  gangs : List Nat
  /-- gangs that were discarded (R267) -/
  redo : Bool
deriving DecidableEq, Repr

/-- Owl's mark of a cell for a destination die (R245). -/
structure Mark where
  part : Nat
  entry : Nat
  off : Nat
  dest : Nat
deriving DecidableEq, Repr

/-- A die: its distributor's ranges, the rectangle reserved for a waiting gang, the holding buffer, Owl's marks (R245, R260, R268, R282). -/
structure Die where
  fenced : Bool
  handed : List Handed
  reserved : List (Nat × List Nat × GangId)
  holding : List Parked
  marks : List Mark
deriving DecidableEq, Repr

/-- A value Owl has sent (R245). -/
structure Delta where
  id : Nat
  part : Nat
  entry : Nat
  off : Nat
  dest : Nat
  value : Nat
  poison : Bool
  /-- the releases merged into the cell (R212) -/
  told : List Told
  sent : Nat
deriving DecidableEq, Repr

/-- TDISP states (R361). -/
inductive Tdisp where
  | unlocked
  | locked
  | run
  | error
deriving DecidableEq, Repr

/-- A PCI Express function's registers and sessions (Table 18-1, R342, R355, R361). -/
structure Fn where
  ringbase : Nat
  ringlog : Nat
  cmdcell : Nat
  fqbase : Nat
  fqlog : Nat
  fqbaseNext : Option Nat
  fqlogNext : Option Nat
  expected : Nat
  msix : List (Nat × Byte)
  pba : Nat
  tdisp : Tdisp
  spdm : Nat
  ideKey : Bool
  mailbox : List Byte
  /-- what the last measurements report: their contents by index (Table 17-5) -/
  measured : List (Nat × List Nat)
deriving DecidableEq, Repr

/-- Who moves next. -/
inductive Act where
  | warp (w : WarpId)
  | event (i : Instr)
deriving DecidableEq, Repr

/-- The last warp turn of a core: its clk, the warp number and the workgroup slot (R190, R253). -/
structure LastTurn where
  clk : Nat
  warp : Nat
  slot : Nat
deriving DecidableEq, Repr

/-- An error that strikes an ECC word: the first key of the word, and whether it can be corrected (R231). -/
structure Upset where
  word : Nat
  corrected : Bool
deriving DecidableEq, Repr

/-- A turn: the device clk that pass, the memory errors that strike meanwhile, and who moves then (log entries 1, 13). -/
structure Turn where
  clk : Nat
  act : Act
  upsets : List Upset := []
deriving DecidableEq, Repr

/-- The device. -/
structure State where
  warps : List (WarpId × Warp)
  wgs : List (WgId × Wg)
  gangs : List (GangId × Gang)
  parts : List (Nat × Part)
  cores : List (Nat × Core)
  dies : List (Nat × Die)
  fns : List (Nat × Fn)
  mem : List Host.Cell
  poison : List Nat
  /-- of the poisoned HBM words of save images, the 8-byte words of scratch they came from: word and offset (R217, R231) -/
  fine : List (Nat × Nat)
  /-- HBM words an uncorrectable error struck and nothing has written whole since (R232) -/
  struck : List Nat
  tags : List Nat
  coreQ : List Access
  dieQ : List Access
  gateQ : List Access
  /-- the writes of each 16-byte line by its first key, newest first; the bytes of a race of scopes; what the sequencers have ordered and
  the arrivals on barriers have released (R200 to R202) -/
  past : List (Nat × List Past)
  raced : List Nat
  seqs : List (Sequencer × List Known)
  barSync : List (Nat × BarSync)
  deltas : List Delta
  ready : BitVec 128
  /-- device clk at which a start-up function's bit rose, 128 for power-good; functions that missed their bound or failed; stacks
  that failed (R368, R369) -/
  risen : List (Nat × Nat)
  missed : List Nat
  badStacks : List Nat
  poolz : Nat
  devid : Nat
  powercap : Nat
  errcount : Nat
  peers : List (Nat × BitVec 256)
  peerSeq : List ((Nat × Nat) × Nat)
  unreachable : List Nat
  keyNo : Nat
  /-- the partition and the creation number under whose key the lines behind each port were last written (R345, R354) -/
  keyed : List (Nat × (Nat × Nat))
  power : Bool
  throttled : Bool
  overCap : Bool
  servedFn : Nat
  /-- the partition each engine of R350 served last -/
  served : List (Nat × Nat)
  /-- what the last request of a peer was answered with (R364) -/
  reply : List PByte
  /-- budget grants given (R351) -/
  refills : Nat
  clk : Nat
  nextId : Nat
  fresh : Nat
  /-- the last warp turn of each core (R190, R253) -/
  lastTurns : List (Nat × LastTurn)
  turns : List Turn
  focus : Option WarpId
deriving DecidableEq, Repr

/-- What a byte of memory that nothing has written reads as: SRAM and HBM are zero-filled (R368, R344); host and peer memory
zero is the model's choice (log entry 3). -/
def memDefault : Byte := 0

/-- The canonical form of memory. -/
abbrev Memory.wf (m : List Host.Cell) : Bool := smWf memDefault m

/-- No fault delivered yet (R22). -/
def FaultRec.zero : FaultRec := ⟨0, 0, 0, 0, 0, 0⟩

/-- A register at workgroup start (R9). -/
def PWord.zero : PWord := ⟨0, false⟩

/-- The device before power-good (R368): nothing runs, no partition exists; Table 18-1 and R370 give the register values, log
entry 4 the rest. -/
def State.reset : State :=
  { warps := [], wgs := [], gangs := [], parts := [], cores := [], dies := [], fns := [], mem := [], poison := [], fine := [], struck := [], tags := [],
    coreQ := [], dieQ := [], gateQ := [], past := [], raced := [], seqs := [], barSync := [], deltas := [], ready := 0, risen := [], missed := [], badStacks := [], poolz := 0, devid := 0, powercap := 3400,
    errcount := 0, peers := [], peerSeq := [], unreachable := [], keyNo := 0, keyed := [], power := false, throttled := false,
    overCap := false, servedFn := 0, served := [], reply := [], refills := 0, clk := 0, nextId := 0, fresh := 0, lastTurns := [], turns := [],
    focus := none }

end Sys2Proof.Machine
end

