-- ==== Sys2Proof/Machine/Flags.lean ====
section
/-! DEFINITION. Flags, traps and modes (spec/01 R23, Table 1-5; spec/04 R63 to R66; spec/06 R105). -/

namespace Sys2Proof.Machine

/-- The trap enables of %fmode, in the order of the flags (Table 1-5). -/
def trapEnables (fmode : Word) : Flags := fmode.extractLsb' 3 5

/-- %fmode.ftz. -/
def fmodeFtz (fmode : Word) : Bool := fmode.getLsbD 2

/-- The default rounding of %fmode (Table 1-5). -/
def fmodeRnd (fmode : Word) : Rnd :=
  match (fmode.extractLsb' 0 2).toNat with
  | 0 => .rne
  | 1 => .rtz
  | 2 => .rup
  | _ => .rdn

/-- The rounding an instruction's code names, 0 naming Mode() (R112). -/
def roundCode (fmode : Word) (code : Nat) : Rnd :=
  match code with
  | 1 => .rne
  | 2 => .rtz
  | 3 => .rup
  | 4 => .rdn
  | _ => fmodeRnd fmode

/-- The flush an instruction's code names, 0 naming %fmode.ftz (R112). -/
def flushCode (fmode : Word) (code : Nat) : Bool :=
  match code with
  | 1 => true
  | 2 => false
  | _ => fmodeFtz fmode

/-- Which trap the flags of an instruction may take (Table 1-10, SetFlag). -/
inductive TrapClass where
  | float
  | intDiv
  | never
deriving DecidableEq, Repr

/-- The fault of flags whose trap is enabled: 0x0F with the enabled flags, or 0x10 (Table 15-2, Table 15-3). -/
def flagTrap (fmode : Word) (cls : TrapClass) (fl : Flags) : Option FaultInfo :=
  let hit := fl &&& trapEnables fmode
  match cls with
  | .never => none
  | .float => if hit = 0 then none else some ⟨0x0F, 0, hit.toNat * 65536⟩
  | .intDiv => if hit = 0 then none else some ⟨0x10, 0, 0⟩

/-- A poison-consumed fault with its access code of Table 15-3. -/
def consumed (access : Nat) : FaultInfo := ⟨0x11, 0, access * 16⟩

/-- The span position of Table 15-3 [15:8], for the kinds whose record has it. -/
def FaultInfo.atIndex (f : FaultInfo) (index : Nat) : FaultInfo :=
  if [0x04, 0x05, 0x06, 0x07, 0x0A, 0x0F, 0x10, 0x11].contains f.kind then { f with info := f.info + index * 256 } else f

end Sys2Proof.Machine
end

