-- ==== Sys2Proof/Machine/Operands.lean ====
section
/-! DEFINITION. Operands of a lane: registers, pairs and quads, predicates, guards, literals, and what an instruction writes
(spec/01 R10 to R15, R33; spec/02 R47; spec/06 R104). -/

namespace Sys2Proof.Machine

/-- Reg(i) (R10): g0 reads zero, never poisoned. -/
def Thread.reg (t : Thread) (i : RegIdx) : PWord := if i = 0 then .zero else smGet .zero t.regs i.toNat

/-- A pair or quad value with the poison of any of its words. -/
structure PVal where
  v : Nat
  p : Bool
deriving DecidableEq, Repr

/-- Word k of a pair or quad at index i; index 0 names zeros (R11). -/
def Thread.regAt (t : Thread) (i : RegIdx) (k : Nat) : PWord := if i = 0 then .zero else smGet .zero t.regs (i.toNat + k)

/-- Pair(i) (R11). -/
def Thread.pair (t : Thread) (i : RegIdx) : PVal :=
  let lo := t.regAt i 0
  let hi := t.regAt i 1
  ⟨lo.v.toNat + 4294967296 * hi.v.toNat, lo.p || hi.p⟩

/-- The quad at i (R11). -/
def Thread.quad (t : Thread) (i : RegIdx) : PVal :=
  let w0 := t.regAt i 0
  let w1 := t.regAt i 1
  let w2 := t.regAt i 2
  let w3 := t.regAt i 3
  ⟨w0.v.toNat + 2 ^ 32 * w1.v.toNat + 2 ^ 64 * w2.v.toNat + 2 ^ 96 * w3.v.toNat, w0.p || w1.p || w2.p || w3.p⟩

/-- A register of one, two or four words. -/
def Thread.wide (t : Thread) (i : RegIdx) (words : Nat) : PVal :=
  if words = 4 then t.quad i else if words = 2 then t.pair i else ⟨(t.reg i).v.toNat, (t.reg i).p⟩

/-- Source B, or the literal in its place; a literal is never poisoned (R47). -/
def Thread.srcB (t : Thread) (x : Ext) : PWord :=
  match x.lit with
  | some v => ⟨v.setWidth 32, false⟩
  | none => t.reg x.b

/-- Source B as a pair, or the whole literal (R47). -/
def Thread.srcB64 (t : Thread) (x : Ext) : PVal :=
  match x.lit with
  | some v => ⟨v.toNat, false⟩
  | none => t.pair x.b

/-- Pred(n) (R15): p7 is true. -/
def Thread.pred (t : Thread) (n : Nat) : Bool := if n = 7 then true else t.preds.getLsbD n

/-- A guard or condition field (R15). -/
def Thread.guard (t : Thread) (g : BitVec 4) : Bool := t.pred (g.toNat % 8) != g.getLsbD 3

/-- WriteReg at a flat index; g0 discards (R10). -/
def Thread.writeReg (t : Thread) (i : Nat) (v : PWord) : Thread :=
  if i = 0 then t else { t with regs := smSet .zero t.regs i v }

/-- Write a predicate; p7 discards (R15). -/
def Thread.writePred (t : Thread) (n : Nat) (v : Bool) : Thread :=
  if n < 7 then { t with preds := if v then t.preds ||| (1#7 <<< n) else t.preds &&& ~~~(1#7 <<< n) } else t

/-- Register writes in order. -/
def Thread.writeRegs (t : Thread) : List (Nat × PWord) → Thread
  | [] => t
  | (i, v) :: ws => (t.writeReg i v).writeRegs ws

/-- Predicate writes in order. -/
def Thread.writePreds (t : Thread) : List (Nat × Bool) → Thread
  | [] => t
  | (n, v) :: ws => (t.writePred n v).writePreds ws

/-- The 32-bit words of a number, least significant first. -/
def wordsOf : Nat → Nat → List Word
  | 0, _ => []
  | n + 1, x => BitVec.ofNat 32 x :: wordsOf n (x / 4294967296)

/-- Writes of consecutive registers from i; index 0 discards them all (R11). -/
def regWrites (i : RegIdx) (vs : List PWord) : List (Nat × PWord) :=
  if i = 0 then [] else (natsFrom i.toNat vs.length).zip vs

/-- The write of a value of n words to the register, pair or quad at i. -/
def wideWrite (i : RegIdx) (n : Nat) (v : PVal) : List (Nat × PWord) :=
  regWrites i ((wordsOf n v.v).map fun w => ⟨w, v.p⟩)

/-- What an instruction does in one lane before poison and traps are judged: writes, predicate writes, flags and whether they may
trap, a fault, a store, a load. -/
structure LaneOut where
  regs : List (Nat × PWord) := []
  preds : List (Nat × Bool) := []
  flags : Flags := 0
  trap : TrapClass := .never
  fault : Option FaultInfo := none
deriving DecidableEq, Repr

/-- A 32-bit result (R104): poison passes to it, and a poisoned result sets no flag and takes no trap. -/
def out32 (d : RegIdx) (p : Bool) (v : Word) (flags : Flags := 0) (trap : TrapClass := .never) : LaneOut :=
  { regs := regWrites d [⟨v, p⟩], flags := if p then 0 else flags, trap := trap }

/-- A 64-bit result (R104). -/
def out64 (d : RegIdx) (p : Bool) (v : Nat) (flags : Flags := 0) (trap : TrapClass := .never) : LaneOut :=
  { regs := wideWrite d 2 ⟨v, p⟩, flags := if p then 0 else flags, trap := trap }

/-- A predicate result from sources whose poison is consumed (R104). -/
def outPred (n : Nat) (p : Bool) (v : Bool) (flags : Flags := 0) : LaneOut :=
  if p then { fault := some (consumed 2) } else { preds := [(n, v)], flags := flags, trap := .float }

/-- d := f A. -/
def unary32 (x : Ext) (f : Word → Word) (t : Thread) : LaneOut :=
  let a := t.reg x.a
  out32 x.d a.p (f a.v)

/-- d := f A B. -/
def binary32 (x : Ext) (f : Word → Word → Word) (t : Thread) : LaneOut :=
  let a := t.reg x.a
  let b := t.srcB x
  out32 x.d (a.p || b.p) (f a.v b.v)

/-- d := f A B C. -/
def ternary32 (x : Ext) (f : Word → Word → Word → Word) (t : Thread) : LaneOut :=
  let a := t.reg x.a
  let b := t.srcB x
  let c := t.reg x.c
  out32 x.d (a.p || b.p || c.p) (f a.v b.v c.v)

/-- d := f A B on pairs. -/
def binary64 (x : Ext) (f : Nat → Nat → Nat) (t : Thread) : LaneOut :=
  let a := t.pair x.a
  let b := t.srcB64 x
  out64 x.d (a.p || b.p) (f a.v b.v)

end Sys2Proof.Machine
end

