-- ==== Sys2Proof/Machine/Memory.lean ====
section
/-! DEFINITION. Memory by home: the keys of every byte, ECC words and poison, barrier tags, the HBM interleave and the lattice
pool (spec/11 R215 to R221, R231; spec/12 R234; spec/07 R133, R149). -/

namespace Sys2Proof.Machine

/-- A byte of a core's slice (R215). -/
def keySram (core off : Nat) : Nat := core * 16777216 + off

/-- A byte behind a memory-side port (R219). -/
def keyHbm (port off : Nat) : Nat := 1099511627776 + port * 17179869184 + off

/-- A byte of host memory as a function sees it (R358). -/
def keyHost (fn addr : Nat) : Nat := 2 ^ 72 + fn * 2 ^ 64 + addr

/-- A byte of a peer device (R363). -/
def keyPeer (dev addr : Nat) : Nat := 2 ^ 80 + dev * 2 ^ 64 + addr

/-- A byte of the device outside the partition that names it (R341): nothing of it is reached. -/
def keyForeign (key : Nat) : Nat := 2 ^ 88 + key

/-- No home: of a store of an open span whose allocation is gone, which is performed on nothing (R218). -/
def keyGone : Nat := 2 ^ 96

/-- The key lies in a core's slice. -/
def isSram (key : Nat) : Bool := decide (key < 4294967296)

/-- The key lies in HBM. -/
def isHbm (key : Nat) : Bool := decide (1099511627776 ≤ key) && decide (key < 2199023255552)

/-- The key lies off the device. -/
def isRemote (key : Nat) : Bool := decide (2 ^ 72 ≤ key)

/-- The crossbar discards a request for the key (R341). -/
def isForeign (key : Nat) : Bool := decide (2 ^ 88 ≤ key) && decide (key < keyGone)

/-- The core whose slice holds an SRAM key. -/
def coreOfKey (key : Nat) : Nat := key / 16777216

/-- The size of the ECC word that holds a key (R231). -/
def eccSize (key : Nat) : Nat := if isHbm key then 32 else 8

/-- The first byte of the ECC word that holds a key. -/
def eccBase (key : Nat) : Nat := key - key % eccSize key

/-- The home of a key: one bank, one port, a function of the host or a peer (R215, R219, R358). -/
def homeOf (key : Nat) : Nat :=
  if isSram key then key / 16777216 * 128 + key / 64 % 128
  else if isHbm key then 100000 + (key - 1099511627776) / 17179869184
  else 200000 + key / 2 ^ 64

/-- The hash lane of R221. -/
def hashLane (pa : Nat) : Nat := ((pa / 64) ^^^ (pa / 512) ^^^ (pa / 4096)) % 8

/-- One byte of memory. -/
def State.byteAt (s : State) (key : Nat) : Byte := smGet memDefault s.mem key

/-- The stack of an HBM key: four ports each (Table 18-3). -/
def stackOf (key : Nat) : Nat := (key - 1099511627776) / 17179869184 / 4

/-- The word of a failed stack is uncorrectable (R232, R369). -/
def State.deadWord (s : State) (key : Nat) : Bool :=
  isHbm key && s.badStacks.contains (stackOf key) && Config.stackDead (eccBase key)

/-- The poison of the ECC word that holds a byte; a discarded read returns the poison code (R341). -/
def State.poisonAt (s : State) (key : Nat) : Bool := s.poison.contains (eccBase key) || s.deadWord key || isForeign key

/-- The n bytes from a key, each with its poison. -/
def State.readBytes (s : State) (key : Nat) : Nat → List PByte
  | 0 => []
  | n + 1 => ⟨s.byteAt key, s.poisonAt key⟩ :: s.readBytes (key + 1) n

/-- The n bytes from a key as a number. -/
def State.readNat (s : State) (key n : Nat) : Nat := natOfBytes ((s.readBytes key n).map PByte.v)

/-- Any of the bytes carries poison. -/
def anyPoison (bs : List PByte) : Bool := bs.any PByte.p

/-- The entries that writing bytes from a key makes. -/
def writeCells : Nat → List PByte → List Host.Cell
  | _, [] => []
  | k, b :: bs => (k, b.v) :: writeCells (k + 1) bs

/-- The bytes among those written from `key` that fall into the ECC word at `w`. -/
def bytesIn (w size : Nat) : Nat → List PByte → List PByte
  | _, [] => []
  | k, b :: bs => if w ≤ k ∧ k < w + size then b :: bytesIn w size (k + 1) bs else bytesIn w size (k + 1) bs

/-- The ECC words that a write touches, ascending. -/
def eccWords (key n : Nat) : List Nat :=
  (natsFrom 0 (n / 8 + 2)).filterMap fun i =>
    let k := eccBase key + i * eccSize key
    if k < key + n then some k else none

/-- The poison after a write: a poisoned byte poisons its ECC word, a clean write of the whole word clears it, any other
leaves it (R133). -/
def poisonAfter (poison : List Nat) (key : Nat) (bs : List PByte) : List Nat → List Nat
  | [] => poison
  | w :: ws =>
    let inside := bytesIn w (eccSize key) key bs
    let poison' :=
      if anyPoison inside then nsInsert poison w
      else if inside.length = eccSize key then nsErase poison w else poison
    poisonAfter poison' key bs ws

/-- Write bytes from a key at their home. -/
def State.writeBytes (s : State) (key : Nat) (bs : List PByte) : State :=
  { s with mem := smSetAll memDefault s.mem (writeCells key bs)
           poison := poisonAfter s.poison key bs (eccWords key bs.length)
           fine := s.fine.filter fun x => !(eccWords key bs.length).contains x.1
           struck := s.struck.filter fun w => !(decide (key ≤ w) && decide (w + 32 ≤ key + bs.length)) }

/-- Clean bytes of a number. -/
def cleanBytes (n x : Nat) : List PByte := (natBytes n x).map fun b => ⟨b, false⟩

/-- Write the low n bytes of a number. -/
def State.writeNat (s : State) (key n x : Nat) : State := s.writeBytes key (cleanBytes n x)

/-- Set every byte of a set of keys to zero, with its poison and tags gone (R7, R218, R344, R345). -/
def State.zeroFill (s : State) (inside : Nat → Bool) : State :=
  { s with mem := smFilter (fun k => !inside k) s.mem
           poison := s.poison.filter fun k => !inside k
           fine := s.fine.filter fun x => !inside x.1
           struck := s.struck.filter fun k => !inside k
           tags := s.tags.filter fun k => !inside k
           past := s.past.filter fun k => !inside k.1
           raced := s.raced.filter fun k => !inside k
           barSync := s.barSync.filter fun k => !inside k.1 }

/-- The range of a slice. -/
def inSlice (core base size key : Nat) : Bool := decide (keySram core base ≤ key) && decide (key < keySram core base + size)

/-- The 16-byte line of a key is a sector barrier (R149, R151). -/
def State.tagged (s : State) (key : Nat) : Bool := s.tags.contains (key - key % 16)

/-- Some byte of the range lies in a tagged line (R155). -/
def State.touchesTag (s : State) (key n : Nat) : Bool :=
  s.tags.any fun t => decide (t < key + n) && decide (key < t + 16)

/-- The memory-side ports of a partition on a die, ascending (R219). -/
def portsOn (ports die : Nat) : List Nat := (natsFrom (12 * die) 12).filter fun p => natBit ports p

/-- The key of a partition-physical HBM address, none where it is not backed (R219). -/
def hbmKey (ports q : Nat) : Option Nat :=
  let off := q % 2 ^ 42
  let set := portsOn ports (q / 2 ^ 42 % 4)
  let n := set.length
  if q / 2 ^ 44 ≠ 0 ∨ n = 0 ∨ n * Config.portBytes ≤ off then none
  else
    let c := off / 256
    match set[c % n]? with
    | none => none
    | some port => some (keyHbm port (c / n * 256 + q % 256))

/-- The partition-physical address of an HBM key (R219). -/
def physHbm (ports key : Nat) : Nat :=
  let off := (key - 1099511627776) % 17179869184
  let port := (key - 1099511627776) / 17179869184
  let set := portsOn ports (port / 12)
  port / 12 * 2 ^ 42 + (off / 256 * set.length + (set.takeWhile fun p => p != port).length) * 256 + off % 256

/-- The key lies in n bytes of a partition's HBM from a partition-physical address. -/
def inHbm (ports q n key : Nat) : Bool :=
  isHbm key && natBit ports ((key - 1099511627776) / 17179869184) && decide (q ≤ physHbm ports key) && decide (physHbm ports key < q + n)

/-- The physical address the hash lane of R221 is taken from. -/
def physOf (ports key : Nat) : Nat :=
  if isSram key then key % 16777216 else if isHbm key then physHbm ports key else key % 2 ^ 64

/-- Every byte of a page is backed; a region's end falls in no page (R223). -/
def hbmBacked (ports q size : Nat) : Bool :=
  (hbmKey ports q).isSome && (hbmKey ports (q + size - 1)).isSome

/-- The key of a pool offset's replica on a die (R234); `z` is the pool size in bytes. -/
def poolKey (z die off : Nat) : Nat :=
  keySram (die * 64 + off / 65536 % 64) (16777216 - z / 64 + off / 4194304 * 65536 + off % 65536)

/-- The pool size in bytes (Table 18-1). -/
def State.poolBytes (s : State) : Nat := s.poolz * 4194304

/-- The bytes of a slice below the pool share (R216). -/
def State.sliceLimit (s : State) : Nat := Config.sliceBytes - s.poolBytes / 64

/-- Consecutive bytes at their homes are one write. -/
def runsAt : List (Nat × PByte) → List (Nat × List PByte)
  | [] => []
  | (k, b) :: rest =>
    match runsAt rest with
    | (j, bs) :: more => if j = k + 1 then (k, b :: bs) :: more else (k, [b]) :: (j, bs) :: more
    | [] => [(k, [b])]

end Sys2Proof.Machine
end

