-- ==== Sys2Proof/Machine/Lookup.lean ====
section
/-! DEFINITION. Reading and writing the parts of the state by name; what a thread belongs to; the launch header's fields
(spec/01 R24 to R28; spec/14 R266). -/

namespace Sys2Proof

/-- The gang of a warp. -/
def WarpId.gang (w : WarpId) : GangId := w.wg.gang
/-- The gang of a thread. -/
def ThreadId.gang (t : ThreadId) : GangId := t.warp.wg.gang
/-- No workgroup of any gang: under a number of its own, one whose gang was discarded while its posted rounds go on (R170). -/
def WgId.gone (w : WgId) (n : Nat) : WgId := { w with member := w.member + 16 * (n + 1) }
/-- The workgroup is one of a gang, not one that was discarded. -/
def WgId.of (w : WgId) (g : GangId) : Bool := w.gang == g && decide (w.member < 16)
/-- The gang is a root gang. -/
def GangId.isRoot (g : GangId) : Bool := g.launch == 0

end Sys2Proof

namespace Sys2Proof.Machine

/-- A thread that knows of stores and has met no others (R200). -/
def Sync.start (knows : List Known) : Sync := ⟨knows, [], [], [], none⟩

/-- A thread at workgroup start: its entry and its yield deadline (Table 1-1). -/
def Thread.start (entry : Dword) (deadline now : Nat) : Thread :=
  { pc := entry, regs := [], preds := 0, fflags := 0, fmode := 0, fr := .zero, inHandler := false, wd := 0,
    deadline := deadline, wait := .ready, vanish := 0, digest := 0, undo := ⟨[], 0, 0, 0, .start []⟩, stores := [], pends := [],
    flt := none, kinds := 0, lastIssue := now, issues := 0, stalled := false, span := 0, live := none, sync := .start [], arrived := none, inval := none, ctx := none }

/-- No thread. -/
def Thread.absent : Thread := { Thread.start 0 0 0 with wait := .exited }

/-- No warp. -/
def Warp.absent : Warp := { lanes := [], masks := [], spill := [], cur := none, log := [], shadow := none, shadowMasks := [] }

/-- No workgroup. -/
def Wg.absent : Wg := ⟨0, 0, 0, 0, [], ⟨0, [], []⟩⟩

/-- A gang that has not been placed. -/
def Gang.fresh : Gang :=
  { state := .queued, held := false, die := 0, topCore := 0, runClk := 0, clean := true,
    excluded := none, savedDie := 0, parked := [], view := [], pieces := [], stored := [], atoms := [], copyFrames := [], cores := [], flush := [], gated := [] }

/-- An empty header. -/
def Header.absent : Header := ⟨0, 0, 0, 0, 0, 0, 0, 0, 0, 0⟩

/-- A launch as accepted (R96, R267). -/
def Launch.start (h : Header) (status order : Nat) : Launch :=
  { hdr := h, status := status, order := order, walk := 0, again := [], redo := [], doneKey := 0, recordId := none, knows := [], placed := false,
    ending := none, relaunches := [], replays := 0, versions := [], merged := false, kept := [], evicted := [], chunks := [],
    lists := [], listsAll := [], digests := [], read := false, divergent := [] }

/-- No partition. -/
def Part.absent : Part :=
  { mode := 0, rows := 0, ports := 0, pool := 0, keyNo := 0, root := 0, image := 0, imageHash := 0, ticks := 0, suspended := false,
    regs := [], regions := [], counters := [], debugSeq := 1, launches := [], nextLaunch := 1, nextOrder := 1, frames := [],
    origins := [], touches := [], settles := [], evicts := [], hostEntries := [], hostSeq := 1, hostLine := [], pinned := 0,
    orderCount := 0, digestCount := 0, orderOf := [], digestOf := [], budget := 0, grant := 0, slices := [], held := [], nonce := 0, suspending := false, refused := [], lastHand := none, starved := none, hands := [] }

/-- An idle core. -/
def Core.idle : Core :=
  { slots := [], accs := [], tiles := [], ctxs := [], copyQ := [], bulkQ := [], mcastQ := [], matQ := [], fences := [],
    tracker := [], tlb := [], walkTlb := [], mapped := [] }

/-- An idle die. -/
def Die.idle : Die := { fenced := false, handed := [], reserved := [], holding := [], marks := [] }

/-- A function before the host has set it up (Table 18-1; log entry 4). -/
def Fn.reset : Fn :=
  { ringbase := 0, ringlog := 0, cmdcell := 0, fqbase := 0, fqlog := 0, fqbaseNext := none, fqlogNext := none,
    expected := 1, msix := [], pba := 0, tdisp := .unlocked, spdm := 0, ideKey := false, mailbox := [], measured := [] }

/-- The warp of a name. -/
def State.warp (s : State) (w : WarpId) : Warp := (tbGet s.warps w).getD Warp.absent
/-- Put a warp. -/
def State.setWarp (s : State) (w : WarpId) (v : Warp) : State := { s with warps := tbSet s.warps w v }
/-- Change a warp, if it is listed. -/
def State.modWarp (s : State) (w : WarpId) (f : Warp → Warp) : State := { s with warps := tbModify s.warps w f }
/-- The thread of a lane. -/
def Warp.thread (w : Warp) (lane : Nat) : Thread := (tbGet w.lanes lane).getD Thread.absent
/-- Put a thread into its lane. -/
def Warp.setThread (w : Warp) (lane : Nat) (t : Thread) : Warp := { w with lanes := tbSet w.lanes lane t }
/-- The launched lanes. -/
def Warp.launched (w : Warp) : List Nat := tbKeys w.lanes
/-- The thread of a name. -/
def State.thread (s : State) (t : ThreadId) : Thread := (s.warp t.warp).thread t.lane
/-- Put a thread. -/
def State.setThread (s : State) (t : ThreadId) (v : Thread) : State := s.setWarp t.warp ((s.warp t.warp).setThread t.lane v)
/-- Change a thread. -/
def State.modThread (s : State) (t : ThreadId) (f : Thread → Thread) : State := s.setThread t (f (s.thread t))
/-- The workgroup of a name. -/
def State.wg (s : State) (w : WgId) : Wg := (tbGet s.wgs w).getD Wg.absent
/-- Put a workgroup. -/
def State.setWg (s : State) (w : WgId) (v : Wg) : State := { s with wgs := tbSet s.wgs w v }
/-- The gang of a name. -/
def State.gang (s : State) (g : GangId) : Gang := (tbGet s.gangs g).getD Gang.fresh
/-- Put a gang. -/
def State.setGang (s : State) (g : GangId) (v : Gang) : State := { s with gangs := tbSet s.gangs g v }
/-- Change a gang. -/
def State.modGang (s : State) (g : GangId) (f : Gang → Gang) : State := s.setGang g (f (s.gang g))
/-- The partition of a number. -/
def State.part (s : State) (p : Nat) : Part := (tbGet s.parts p).getD Part.absent
/-- Put a partition. -/
def State.setPart (s : State) (p : Nat) (v : Part) : State := { s with parts := tbSet s.parts p v }
/-- Change a partition. -/
def State.modPart (s : State) (p : Nat) (f : Part → Part) : State := s.setPart p (f (s.part p))
/-- The core of a number. -/
def State.core (s : State) (c : Nat) : Core := (tbGet s.cores c).getD Core.idle
/-- Put a core. -/
def State.setCore (s : State) (c : Nat) (v : Core) : State := { s with cores := tbSet s.cores c v }
/-- Change a core. -/
def State.modCore (s : State) (c : Nat) (f : Core → Core) : State := s.setCore c (f (s.core c))
/-- The die of a number. -/
def State.die (s : State) (d : Nat) : Die := (tbGet s.dies d).getD Die.idle
/-- Put a die. -/
def State.setDie (s : State) (d : Nat) (v : Die) : State := { s with dies := tbSet s.dies d v }
/-- Change a die. -/
def State.modDie (s : State) (d : Nat) (f : Die → Die) : State := s.setDie d (f (s.die d))
/-- The function of a number: 0 physical, n + 1 of partition n. -/
def State.fn (s : State) (f : Nat) : Fn := (tbGet s.fns f).getD Fn.reset
/-- Put a function. -/
def State.setFn (s : State) (f : Nat) (v : Fn) : State := { s with fns := tbSet s.fns f v }
/-- Change a function. -/
def State.modFn (s : State) (f : Nat) (g : Fn → Fn) : State := s.setFn f (g (s.fn f))

/-- A launch of a partition. -/
def State.launch (s : State) (p n : Nat) : Launch :=
  (tbGet (s.part p).launches n).getD (Launch.start Header.absent 0 0)
/-- Change a launch. -/
def State.modLaunch (s : State) (p n : Nat) (f : Launch → Launch) : State :=
  s.modPart p fun q => { q with launches := tbSet q.launches n (f (s.launch p n)) }
/-- The launch header of a gang. -/
def State.header (s : State) (g : GangId) : Header := (s.launch g.part g.launch).hdr

/-- Registers per thread (Table 1-7). -/
def Header.regs (h : Header) : Nat := natBits h.shape 63 55
/-- The gang shape code. -/
def Header.gshape (h : Header) : Nat := natBits h.shape 54 52
/-- Members per gang. -/
def Header.e1 (h : Header) : Nat := natBits h.shape 51 47
/-- Threads per workgroup. -/
def Header.e0 (h : Header) : Nat := natBits h.shape 46 36
/-- The width of a work-identifier field. -/
def Header.width (h : Header) (i : Nat) : Nat := natBits h.shape (6 * i + 5) (6 * i)
/-- The extent of a work-identifier field. -/
def Header.extent (h : Header) (i : Nat) : Nat :=
  match i with
  | 0 => h.e0
  | 1 => h.e1
  | 2 => h.e2
  | 3 => h.e3
  | 4 => h.e4
  | _ => h.e5
/-- Warps of a workgroup. -/
def Header.warps (h : Header) : Nat := ceilDiv h.e0 32
/-- Gangs of the launch (R25). -/
def Header.gangs (h : Header) : Nat := h.e2 * h.e3 * h.e4 * h.e5
/-- The scratch of a workgroup in bytes (Table 1-8). -/
def Header.scratch (h : Header) : Nat := natBits h.control 14 0 * 1024
/-- Spill slots of a warp. -/
def Header.spillw (h : Header) : Nat := natBits h.control 26 15
/-- The launch priority. -/
def Header.prio (h : Header) : Nat := natBits h.control 34 27
/-- The initial deadline (R90). -/
def Header.deadline (h : Header) : Nat := 2 ^ (8 + natBits h.control 38 35)
/-- The paired flag. -/
def Header.paired (h : Header) : Bool := natBit h.control 39
/-- The contained flag. -/
def Header.contained (h : Header) : Bool := natBit h.control 40
/-- The cooperative flag. -/
def Header.cooperative (h : Header) : Bool := natBit h.control 41
/-- The idempotent flag. -/
def Header.idempotent (h : Header) : Bool := natBit h.control 42
/-- Rows and columns of a gang shape (R7). -/
def shapeDims (gshape : Nat) : Nat × Nat :=
  match gshape with
  | 0 => (1, 1)
  | 1 => (1, 2)
  | 2 => (2, 2)
  | 3 => (2, 4)
  | _ => (4, 4)
/-- The first bit of a work-identifier field (R24). -/
def Header.fieldLo (h : Header) (i : Nat) : Nat := sumNat ((natsFrom 0 i).map h.width)
/-- The work-identifier field of a thread: thread, member, and the grid coordinates of its gang index (R24, R25). -/
def Header.fieldOf (h : Header) (thread member gang i : Nat) : Nat :=
  match i with
  | 0 => thread
  | 1 => member
  | 2 => gang % h.e2
  | 3 => gang / h.e2 % h.e3
  | 4 => gang / h.e2 / h.e3 % h.e4
  | _ => gang / h.e2 / h.e3 / h.e4
/-- The work identifier (R24). -/
def Header.wid (h : Header) (thread member gang : Nat) : Nat :=
  sumNat ((natsFrom 0 6).map fun i => h.fieldOf thread member gang i * 2 ^ h.fieldLo i)

/-- The root gang of a partition (R266). -/
def rootGang (p : Nat) : GangId := ⟨p, 0, 0⟩
/-- The core of a warp. -/
def State.coreOf (s : State) (w : WarpId) : Nat := (s.wg w.wg).core
/-- The die of a warp. -/
def State.dieOf (s : State) (w : WarpId) : Nat := s.coreOf w / 64
/-- The warps of a gang. -/
def State.warpsOf (s : State) (g : GangId) : List WarpId := (tbKeys s.warps).filter fun w => w.gang == g
/-- The workgroups of a gang. -/
def State.wgsOf (s : State) (g : GangId) : List WgId := (tbKeys s.wgs).filter fun w => w.gang == g
/-- The threads of a gang. -/
def State.threadsOf (s : State) (g : GangId) : List ThreadId :=
  (s.warpsOf g).flatMap fun w => (s.warp w).launched.map fun l => ⟨w, l⟩
/-- The gangs of a launch that the state lists. -/
def State.gangsOf (s : State) (p n : Nat) : List GangId := (tbKeys s.gangs).filter fun g => g.part == p && g.launch == n

/-- Count an event in a partition's bank (R352). -/
def State.count (s : State) (p event n : Nat) : State :=
  if (s.part p).suspended then s
  else s.modPart p fun q =>
    { q with counters := q.counters.map fun c =>
        if c.2.running && c.2.event == event then (c.1, { c.2 with value := (c.2.value + n) % 2 ^ 64 }) else c }

/-- Lines of a partition's HBM move at its ports: those of n bytes from a key (R352). -/
def State.countLines (s : State) (p key n : Nat) : State :=
  if isHbm key then s.count p 0x06 ((key % 64 + n + 63) / 64) else s

/-- A page-table entry is written: the line of it moves (R352). -/
def State.setPte (s : State) (p place e : Nat) : State := (s.writeNat place 8 e).countLines p place 8

/-- Reads of the poison code are counted (R304). -/
def State.countPoison (s : State) (p : Nat) (bs : List PByte) : State := if anyPoison bs then s.count p 0x08 1 else s

/-- An error the physical function reads (R341). -/
def State.countError (s : State) : State := { s with errcount := (s.errcount + 1) % 2 ^ 64 }

/-- Bytes from a key are read: the lines and the poison are counted (R304, R352), and a request the crossbar discards (R341). -/
def State.countRead (s : State) (p key : Nat) (bs : List PByte) : State :=
  (if isForeign key then s.countError else s.countLines p key bs.length).countPoison p bs

/-- Accesses to the function's BAR are discarded: its interface is locked, and none can come on an IDE stream that has no key (R361). -/
def Fn.offStream (f : Fn) : Bool := (f.tdisp == .locked || f.tdisp == .run) && !f.ideKey

/-- Draw a fresh free value (log entry 2). -/
def State.draw (s : State) : Nat × State := (Config.freeNat s.fresh, { s with fresh := s.fresh + 1 })
/-- Take the next number for an access, command or delta. -/
def State.takeId (s : State) : Nat × State := (s.nextId, { s with nextId := s.nextId + 1 })

/-- The cores of a partition: eight to each requester row (R340). -/
def Part.hasCore (q : Part) (core : Nat) : Bool := natBit q.rows (core / 8)
/-- A byte of memory is a partition's: behind its ports, in its granules of the lattice pool, in its cores' slices (R340). -/
def State.ownsKey (s : State) (q : Part) (key : Nat) : Bool :=
  if isHbm key then natBit q.ports ((key - 1099511627776) / 17179869184)
  else if isSram key then
    (if s.sliceLimit ≤ key % 16777216 then natBit q.pool ((key % 16777216 - s.sliceLimit) / 65536) else q.hasCore (coreOfKey key))
  else false

/-- An error strikes an ECC word: one that can be corrected is repaired at the home and counted, another makes the word poison (R231). -/
def State.strike (s : State) (u : Upset) : State :=
  let w := eccBase u.word
  if !isSram w && !isHbm w then s
  else if u.corrected then
    (match firstWhere (fun q => s.ownsKey q.2 w) s.parts with
     | some q => s.count q.1 0x07 1
     | none => s)
  else { s with poison := nsInsert s.poison w, struck := if isHbm w then nsInsert s.struck w else s.struck }

/-- The live dies that hold cores of a partition, ascending (R245, R268). -/
def State.diesOf (s : State) (p : Nat) : List Nat :=
  (natsFrom 0 4).filter fun d => natBits (s.part p).rows (8 * d + 7) (8 * d) != 0 && !(s.die d).fenced
/-- The partition exists. -/
def State.hasPart (s : State) (p : Nat) : Bool := (tbGet s.parts p).isSome
/-- The launch is one of the partition's. -/
def State.hasLaunch (s : State) (p n : Nat) : Bool := (tbGet (s.part p).launches n).isSome

end Sys2Proof.Machine
end

