-- ==== Sys2Proof/Machine/Order.lean ====
section
/-! DEFINITION. What happens before what: the stores a thread knows of, releases and acquires, fences and sequencers, the history of each
line and the races of scopes (spec/10 R197 to R207, R212; log entry 11). -/

namespace Sys2Proof.Machine

/-! ### Stores that happen before (R200) -/

/-- A writer belongs to a circle. -/
def Circle.has (c : Circle) (w : Option ThreadId) : Bool :=
  match c, w with
  | .all, _ => true
  | .device, none => true
  | .thread t, some u => t == u
  | .group g, some u => g == u.warp.wg
  | .gang g, some u => g == u.gang
  | .launch p n, some u => u.gang.part == p && u.gang.launch == n
  | _, _ => false

/-- The store of a number by a writer is known. -/
def knownTo (ks : List Known) (w : Option ThreadId) (id : Nat) : Bool := ks.any fun k => decide (id < k.upto) && k.who.has w

/-- One more circle is known. -/
def addKnown (ks : List Known) (k : Known) : List Known :=
  if ks.any fun x => x.who == k.who then ks.map fun x => if x.who = k.who then { x with upto := max x.upto k.upto } else x
  else ks ++ [k]

/-- All that two know. -/
def joinKnown (a b : List Known) : List Known := b.foldl addKnown a

/-- One more release; of one writer at one scope they are one. -/
def addTold (l : List Told) (r : Told) : List Told :=
  if l.any fun x => x.writer == r.writer && x.scope == r.scope then
    l.map fun x => if x.writer = r.writer ∧ x.scope = r.scope then { x with knows := joinKnown x.knows r.knows } else x
  else l ++ [r]

/-- All the releases of two lists. -/
def joinTold (a b : List Told) : List Told := b.foldl addTold a

/-- What a thread learns is added to what it knows. -/
def Sync.add (y d : Sync) : Sync :=
  { y with knows := joinKnown y.knows d.knows
           heard := y.heard ++ d.heard.filter fun h => !y.heard.contains h
           races := d.races.foldl nsInsert y.races }

/-- Everything a thread has done and knows, up to a number. -/
def State.knowsOf (s : State) (t : ThreadId) (upto : Nat) : List Known := addKnown (s.thread t).sync.knows ⟨.thread t, upto⟩

/-- The releases a store of a thread stands for: its own at a scope, and those of the fences before it (R199, R200). -/
def State.tells (s : State) (t : ThreadId) (release : Option Nat) (id : Nat) : List Told :=
  match release with
  | some sc => addTold (s.thread t).sync.rel ⟨some t, sc, s.knowsOf t id⟩
  | none => (s.thread t).sync.rel

/-! ### Scopes (Table 7-3, R201) -/

/-- A scope at which a thread acts includes another thread. -/
def State.inScope (s : State) (scope : Nat) (a b : ThreadId) : Bool :=
  match scope with
  | 0 => a.warp == b.warp
  | 1 => a.warp.wg == b.warp.wg
  | 2 => a.gang == b.gang
  | 3 => s.dieOf a.warp == s.dieOf b.warp
  | _ => true

/-- The scopes of two threads' operations include each other. -/
def State.scopesMeet (s : State) (a : ThreadId) (sa : Nat) (b : ThreadId) (sb : Nat) : Bool :=
  a == b || (s.inScope sa a b && s.inScope sb b a)

/-- A release and an acquire of a thread at a scope synchronise; the device's release has device scope (Table 10-1). -/
def State.synchronises (s : State) (r : Told) (t : ThreadId) (scope : Nat) : Bool :=
  match r.writer with
  | some w => s.scopesMeet w r.scope t scope
  | none => decide (4 ≤ scope)

/-- What an acquire of a thread at a scope learns from releases (R200). -/
def State.learns (s : State) (t : ThreadId) (scope : Nat) (l : List Told) : List Known :=
  (l.filter fun r => s.synchronises r t scope).foldl (fun k r => joinKnown k r.knows) []

/-- An acquire of a thread at a scope races with a release: with one of a thread none of whose releases there it synchronises with
(R201). -/
def State.racesWith (s : State) (t : ThreadId) (scope : Nat) (l : List Told) : Bool :=
  l.any fun r => r.writer.isSome && !(l.any fun x => x.writer == r.writer && s.synchronises x t scope)

/-! ### The history of a line -/

/-- The 16-byte line of a key. -/
def line16 (key : Nat) : Nat := key - key % 16

/-- The writes of the line of a key, newest first. -/
def State.pastOf (s : State) (key : Nat) : List Past := (tbGet s.past (line16 key)).getD []

/-- A write took a byte of its line. -/
def Past.covers (e : Past) (o : Nat) : Bool := decide (e.off ≤ o) && decide (o < e.off + e.old.length)

/-- The place of the newest write to a byte of a line, but for those passed over. -/
def topAt (o : Nat) (skip : Nat → Bool) : Nat → List Past → Option Nat
  | _, [] => none
  | i, e :: es => if e.covers o && !skip i then some i else topAt o skip (i + 1) es

/-- The releases at places of a line. -/
def toldAt (past : List Past) (places : List Nat) : List Told :=
  places.foldl (fun acc i => joinTold acc ((past[i]?.map fun e => e.by_.told).getD [])) []

/-- The places of the newest writes to n bytes from a key. -/
def State.tops (s : State) (key n : Nat) : List Nat :=
  distinct ((natsFrom (key % 16) n).filterMap fun o => topAt o (fun _ => false) 0 (s.pastOf key))

/-- The releases that stand in n bytes from a key: of the newest writes, and of those before them in an unbroken row of
read-modify-writes (R200). -/
def State.toldIn (s : State) (key n : Nat) : List Told := toldAt (s.pastOf key) (s.tops key n)

/-- The pieces of a range in its 16-byte lines: first key and length. -/
def lines16 (key n : Nat) : List (Nat × Nat) :=
  (natsFrom 0 ((key % 16 + n + 15) / 16)).map fun i =>
    let lo := max key (line16 key + 16 * i)
    (lo, min (key + n) (line16 key + 16 * i + 16) - lo)

/-- What n bytes from a key hold is kept before a write takes them (R201); a read-modify-write hands on the releases it finds (R200). -/
def State.keepPast (s : State) (key n : Nat) (w : Writer) : State :=
  (lines16 key n).foldl
    (fun acc m =>
      let e : Past :=
        { off := m.1 % 16, old := acc.readBytes m.1 m.2, readers := []
          by_ := if w.chain then { w with told := joinTold (acc.toldIn m.1 m.2) w.told } else w }
      { acc with past := tbSet acc.past (line16 m.1) (e :: acc.pastOf m.1) }) s

/-- What an engine or the device writes at a home, its history kept. -/
def State.putBytes (s : State) (key : Nat) (bs : List PByte) (told : List Told := []) : State :=
  (s.keepPast key bs.length { id := s.nextId, told := told }).writeBytes key bs

/-! ### Reading a home -/

/-- An access of a thread after its FENCE.sc takes a value another thread stored before its own, at scopes that do not include each other,
and nothing else orders the two (R201, R206; spec/10's program sb_scg). -/
def State.scRace (s : State) (t : ThreadId) (e : Past) : Bool :=
  match (s.thread t).sync.sc, e.by_.who, e.by_.sc with
  | some sc, some w, some sw => !s.scopesMeet w sw t sc && !knownTo (s.thread t).sync.knows (some w) e.by_.id
  | _, _, _ => false

/-- The bytes on which a load of a thread makes a race of scopes: all of its own or none (R201). -/
def State.newRaces (s : State) (t : ThreadId) (key n : Nat) (acquire : Option Nat) : List Nat :=
  let past := s.pastOf key
  let byFence := (s.tops key n).any fun i => (past[i]?).any (s.scRace t)
  let byAcquire := acquire.any fun sc => s.racesWith t sc (s.toldIn key n)
  if byFence || byAcquire then natsFrom key n else []

/-- A thread has to see a write: its own, one that happens before, one whose value it has taken (R200, R203). -/
def State.mustSee (s : State) (t : ThreadId) (e : Past) : Bool :=
  e.by_.who == some t || knownTo (s.thread t).sync.knows e.by_.who e.by_.id || e.readers.any fun r => r.1 == t

/-- The places of the writes to some bytes of a line that a thread need not see, newest first. -/
def State.unseen (s : State) (t : ThreadId) (hot : List Nat) : Nat → List Past → List Nat
  | _, [] => []
  | i, e :: es =>
    if !hot.any e.covers then s.unseen t hot (i + 1) es
    else if s.mustSee t e then []
    else i :: s.unseen t hot (i + 1) es

/-- A byte of a line before the writes at some places, newest first. -/
def byteBefore (past : List Past) (o : Nat) (b : PByte) : List Nat → PByte
  | [] => b
  | i :: is =>
    match past[i]? with
    | some e => byteBefore past o (if e.covers o then (e.old[o - e.off]?).getD b else b) is
    | none => byteBefore past o b is

/-- A load of a thread has taken the values of the newest writes at some places: they are marked, and what it learns. -/
def State.takeFrom (s : State) (t : ThreadId) (id key n : Nat) (acquire : Option Nat) (places races : List Nat) : State × Sync :=
  let past := s.pastOf key
  let told := toldAt past places
  let marked := ((natsFrom 0 past.length).zip past).map fun e =>
    if places.contains e.1 ∧ !s.mustSee t e.2 then { e.2 with readers := (t, id) :: e.2.readers } else e.2
  ({ s with past := if past = [] then s.past else tbSet s.past (line16 key) marked },
   match acquire with
   | some sc => ⟨s.learns t sc told, [], races, [], none⟩
   | none =>
     let others := told.filter fun r => r.writer != some t
     ⟨[], if others = [] then [] else [⟨key, n, others⟩], races, [], none⟩)

/-- A load of a thread takes its value at its home: what this holds, or, on bytes of a race of scopes, what they held before any number of
the last writes that the thread need not see (R200, R201, R203; log entry 11). -/
def State.lookAt (s : State) (t : ThreadId) (id key : Nat) (acquire : Option Nat) (bs : List PByte) : State × List PByte × Sync :=
  let past := s.pastOf key
  let races := s.newRaces t key bs.length acquire
  let raced := fun k => s.raced.contains k || (s.thread t).sync.races.contains k || races.contains k
  let hot := ((natsFrom 0 bs.length).filter fun i => raced (key + i)).map fun i => key % 16 + i
  let free := s.unseen t hot 0 past
  let (n, s1) := if free = [] then (0, s) else s.draw
  let gone := free.take (n % (free.length + 1))
  let places := distinct ((natsFrom (key % 16) bs.length).filterMap fun o => topAt o (fun i => hot.contains o && gone.contains i) 0 past)
  let values := (bs.zip (natsFrom (key % 16) bs.length)).map fun b => if hot.contains b.2 then byteBefore past b.2 b.1 gone else b.1
  let (s2, d) := s1.takeFrom t id key bs.length acquire places races
  (s2, values, d)

/-- What an instruction that acts at its step has learned. -/
def State.noteSync (s : State) (t : ThreadId) (d : Sync) : State :=
  { s with raced := d.races.foldl nsInsert s.raced }.modThread t fun th => { th with sync := th.sync.add { d with races := [] } }

/-- A thread reads n bytes from a key at its step: a relaxed read of what its home holds. -/
def State.readNow (s : State) (t : ThreadId) (key n : Nat) : State :=
  (lines16 key n).foldl
    (fun acc m =>
      let (s1, d) := { acc with nextId := acc.nextId + 1 }.takeFrom t acc.nextId m.1 m.2 none (acc.tops m.1 m.2) []
      s1.noteSync t d) s

/-- What a thread learns from releases at its acquire at a scope, n bytes from a key raced where their scopes do not meet. -/
def State.acquireFrom (s : State) (t : ThreadId) (scope key n : Nat) (l : List Told) : State :=
  s.noteSync t ⟨s.learns t scope l, [], if s.racesWith t scope l then natsFrom key n else [], [], none⟩

/-- The loads of a rollback have been no reads (R197). -/
def State.unread (s : State) (ids : List Nat) : State :=
  if ids = [] then s
  else
    { s with past := s.past.map fun l =>
        (l.1, l.2.map fun e => if e.readers.any fun r => ids.contains r.2 then { e with readers := e.readers.filter fun r => !ids.contains r.2 } else e) }

/-- The history of n bytes goes with them to another home; what stood there before has none left. -/
def State.carryPast (s : State) (n : Nat) (src dst : Nat → Option Nat) : State :=
  let taken := (natsFrom 0 (n / 16)).filterMap fun i => dst (16 * i)
  let s := if s.past.any fun e => taken.contains e.1 then
      { s with past := s.past.filter (fun e => !taken.contains e.1), raced := s.raced.filter fun k => !taken.contains (line16 k) } else s
  let moves := (natsFrom 0 (n / 16)).filterMap fun i =>
    match src (16 * i), dst (16 * i) with
    | some a, some b => (tbGet s.past a).map fun l => (a, b, l)
    | _, _ => none
  { s with past := moves.foldl (fun acc m => tbSet acc m.2.1 m.2.2) (moves.foldl (fun acc m => tbErase acc m.1) s.past)
           raced := (s.raced.map fun k =>
             match firstWhere (fun m => m.1 == line16 k) moves with
             | some m => m.2.1 + k % 16
             | none => k).foldl nsInsert [] }

/-! ### Fences and sequencers (R202, R206) -/

/-- The sequencer of a scope for a thread (Table 10-2). -/
def State.sequencerOf (s : State) (t : ThreadId) (scope : Nat) : Sequencer :=
  match scope with
  | 0 => .warp t.warp
  | 1 => .group t.warp.wg
  | 2 => .gang t.gang
  | 3 => .die (s.dieOf t.warp)
  | _ => .device

/-- An .sc operation of a thread takes its place in its scope's sequencer: what the operations before it knew, it knows. -/
def State.sequence (s : State) (t : ThreadId) (scope : Nat) : State :=
  let q := s.sequencerOf t scope
  let ks := joinKnown (s.knowsOf t s.nextId) ((tbGet s.seqs q).getD [])
  { s with seqs := tbSet s.seqs q ks }.modThread t fun th => { th with sync := { th.sync with knows := ks } }

/-- The wider of two scopes. -/
def widerScope (a : Nat) (b : Option Nat) : Option Nat := some (max a (b.getD 0))

/-- The stores a thread made before its FENCE.sc are marked with its scope (R206). -/
def State.scopeStores (s : State) (t : ThreadId) (scope : Nat) : State :=
  let mark := fun (q : List Access) => q.map fun a => if a.src = .thread t then { a with scAfter := widerScope scope a.scAfter } else a
  { s with
      coreQ := mark s.coreQ
      dieQ := mark s.dieQ
      gateQ := mark s.gateQ
      past := s.past.map fun l => (l.1, l.2.map fun e =>
        if e.by_.who = some t then { e with by_ := { e.by_ with sc := widerScope scope e.by_.sc } } else e) }

/-- An acquire fence of a thread at a scope: its loads before it synchronise with the releases they took, or race with them (R200,
R201). -/
def State.fenceAcquire (s : State) (t : ThreadId) (scope : Nat) : State :=
  let heard := (s.thread t).sync.heard
  let s1 := heard.foldl (fun acc h => acc.acquireFrom t scope h.key h.size h.told) s
  s1.modThread t fun th =>
    { th with sync := { th.sync with heard := heard.filter fun h => !(h.told.all fun r => s.synchronises r t scope) } }

/-- A fence of a thread takes effect at a scope: its acquire covers the loads before it, its release the stores after it, a FENCE.sc takes
its place in the sequencer and marks the stores before it and the loads after it (R200 to R202, R206; log entry 11). -/
def State.fenceRoles (s : State) (t : ThreadId) (scope : Nat) (rel acq sc : Bool) : State :=
  let s1 := if acq then s.fenceAcquire t scope else s
  let s2 := if sc then (s1.scopeStores t scope).sequence t scope else s1
  s2.modThread t fun th =>
    { th with sync := { th.sync with rel := if rel then addTold th.sync.rel ⟨some t, scope, s2.knowsOf t s2.nextId⟩ else th.sync.rel
                                     sc := if sc then widerScope scope th.sync.sc else th.sync.sc } }

/-! ### Barriers of lanes (R156) -/

/-- A barrier of threads lets them go: each knows what all knew, and every store of the circle up to now. -/
def State.meet (s : State) (mine : ThreadId → Bool) (who : Circle) : List Known :=
  let all := (tbKeys s.warps).flatMap fun w => ((s.warp w).launched.map fun l => (⟨w, l⟩ : ThreadId)).filter mine
  addKnown (all.foldl (fun k t => joinKnown k (s.thread t).sync.knows) []) ⟨who, s.nextId⟩

end Sys2Proof.Machine
end

