-- ==== Sys2Proof/Machine/Translate.lean ====
section
/-! DEFINITION. Address translation and the checks of Table 7-2 (spec/01 R29 to R31; spec/07 R126 to R128; spec/11 R217,
R222 to R227; spec/12 R235; spec/16 R324). -/

namespace Sys2Proof.Machine

/-- Canonical(va) (R6). -/
def canonical (va : Nat) : Bool := va / 2 ^ 55 == 0 || va / 2 ^ 55 == 511

/-- What an access is, for permissions and for the access code of Table 15-3. -/
inductive Need where
  | load
  | store
  | atomic
  | join
  | threshold
  | engineRead
  | engineWrite
  | engineBar
  | fetch
  | flush
  | barRead
  | barWrite
  | tile
  | image
deriving DecidableEq, Repr

/-- The access code of Table 15-3. -/
def Need.code : Need → Nat
  | .load => 0
  | .store => 1
  | .atomic => 2
  | .join => 3
  | .threshold => 3
  | .engineRead => 4
  | .engineWrite => 4
  | .engineBar => 4
  | .fetch => 0
  | .flush => 3
  | .barRead => 5
  | .barWrite => 5
  | .tile => 5
  | .image => 0

/-- The access writes memory. -/
def Need.writes : Need → Bool
  | .store => true
  | .atomic => true
  | .join => true
  | .engineWrite => true
  | .engineBar => true
  | .barWrite => true
  | _ => false

/-- The access writes plain bytes: no lattice update and no barrier operation. -/
def Need.plainWrite (n : Need) : Bool := n.writes && n != .join && n != .barWrite && n != .engineBar

/-- On whose behalf an access is made. -/
structure Who where
  gang : GangId
  core : Nat
  die : Nat
  /-- it sends a line request, which R227 counts -/
  counts : Bool
  asker : Waiter
  /-- Marten's walk-ahead TLB serves it, not the core's (R225) -/
  ahead : Bool := false
  /-- an engine moves what its command named at issue: barrier tags were checked there (R155, R263) -/
  issued : Bool := false
deriving DecidableEq, Repr

/-- The access context of a thread. -/
def State.who (s : State) (t : ThreadId) : Who := { gang := t.gang, core := s.coreOf t.warp, die := s.dieOf t.warp, counts := true, asker := .thread t }

/-- The outcome of the checks of Table 7-2. -/
inductive Chk where
  | ok (key : Nat) (snap recorded : Bool) (region : Option Nat)
  | bad (f : FaultInfo)
  | resolve (why : SettleWhy)
  | hold
  | broken
deriving DecidableEq, Repr

/-- A leaf of the page table: where its entry stands, the entry, its page size. -/
structure Leaf where
  place : Nat
  entry : Nat
  size : Nat
deriving DecidableEq, Repr

/-- The end of a walk (R222, R223, R232). -/
inductive Walk where
  | leaf (l : Leaf)
  | invalid
  | broken
deriving DecidableEq, Repr

/-- The kind of an entry (Table 11-2). -/
def pteKind (e : Nat) : Nat := natBits e 63 60

/-- The levels of Table 11-1: shift, entries, and the size code of a leaf. -/
def walkLevels : List (Nat × Nat × Option Nat) :=
  [(46, 1024, none), (33, 8192, some 3), (28, 32, some 2), (21, 128, some 1), (16, 32, some 0)]

/-- The page size of a size code. -/
def pageSize (code : Nat) : Nat :=
  match code with
  | 0 => 65536
  | 1 => 2097152
  | 2 => 268435456
  | _ => 8589934592

/-- The fields that must be zero in an entry of each kind (Tables 11-2, 11-3). -/
def pteReservedOk (e : Nat) : Bool :=
  natBits e 59 56 == 0 && natBits e 15 12 == 0 && natBits e 1 0 == 0 &&
  (match pteKind e with
   | 1 => natBits e 55 44 == 0 && natBits e 3 2 == 0
   | 2 => natBits e 55 44 == 0
   | 3 => natBits e 55 26 == 0
   | 4 => natBits e 47 24 == 0
   | _ => true)

/-- The page of an entry is backed (R223). -/
def pteBacked (ports z e size : Nat) : Bool :=
  match pteKind e with
  | 2 => hbmBacked ports (natBits e 43 16 * 65536) size
  | 3 => decide (natBits e 25 16 * 65536 + size ≤ z)
  | 4 => decide (natBits e 23 16 * 65536 + size ≤ Config.sliceBytes)
  | _ => true

/-- A walk from a table at a partition-physical address (R222, R223). -/
def State.walkFrom (s : State) (ports va : Nat) : Nat → List (Nat × Nat × Option Nat) → Walk
  | _, [] => .invalid
  | q, (shift, entries, leafCode) :: rest =>
    match hbmKey ports (q + 8 * (va / 2 ^ shift % entries)) with
    | none => .invalid
    | some at_ =>
      if s.poisonAt at_ then .broken
      else
        let e := s.readNat at_ 8
        if pteKind e = 1 then
          (if pteReservedOk e then s.walkFrom ports va (natBits e 43 16 * 65536) rest else .invalid)
        else if 2 ≤ pteKind e ∧ pteKind e ≤ 8 then
          (match leafCode with
           | none => .invalid
           | some code =>
             if natBits e 3 2 = code ∧ pteReservedOk e ∧ pteBacked ports s.poolBytes e (pageSize code) then
               .leaf ⟨at_, e, pageSize code⟩
             else .invalid)
        else .invalid

/-- The entries a walk reads are lines of HBM (R352). -/
def State.walkLines (s : State) (ports va : Nat) : Nat → List (Nat × Nat × Option Nat) → Nat
  | _, [] => 0
  | q, (shift, entries, _) :: rest =>
    match hbmKey ports (q + 8 * (va / 2 ^ shift % entries)) with
    | none => 0
    | some at_ =>
      let e := s.readNat at_ 8
      if pteKind e = 1 then 1 + s.walkLines ports va (natBits e 43 16 * 65536) rest else 1

/-- A walk for an address is counted: the lines of its entries (R352). -/
def State.countWalk (s : State) (p va : Nat) : State :=
  s.count p 0x06 (s.walkLines (s.part p).ports (va % 2 ^ 56) (s.part p).root walkLevels)

/-- The walk of a partition for an address. -/
def State.walk (s : State) (p va : Nat) : Walk := s.walkFrom (s.part p).ports (va % 2 ^ 56) (s.part p).root walkLevels

/-- The home of a byte of a page, for an access from a die (R223, R234, R358, R363); of a granule or a slice that is not the
partition's, the pool share of a slice among them, one the crossbar discards (R341). -/
def State.leafKey (s : State) (p die entry size va : Nat) : Option Nat :=
  let off := va % size
  match pteKind entry with
  | 2 => hbmKey (s.part p).ports (natBits entry 43 16 * 65536 + off)
  | 3 =>
    let at_ := natBits entry 25 16 * 65536 + off
    let key := poolKey s.poolBytes die at_
    some (if natBit (s.part p).pool (at_ / 4194304) then key else keyForeign key)
  | 4 =>
    let core := natBits entry 55 48
    let key := keySram core (natBits entry 23 16 * 65536 + off)
    some (if s.ownsKey (s.part p) key && !(s.die (core / 64)).fenced then key else keyForeign key)
  | 5 => some (keyHost (p + 1) (natBits entry 55 16 * 65536 + off))
  | 6 => some (keyPeer (natBits entry 55 48) (natBits entry 47 16 * 65536 + off))
  | _ => none

/-- A fault of Table 7-2 with the failing step (Table 15-3). -/
def accessFault (kind va : Nat) (need : Need) (step : Nat) : Chk := .bad ⟨kind, va, need.code * 16 + step⟩

/-- A TLB entry that serves an address. -/
def tlbHit (tlb : List TlbEntry) (p va : Nat) (write : Bool) : Option TlbEntry :=
  firstWhere (fun t => t.part == p && t.va == va - va % t.size && (!write || t.dirty)) tlb

/-- The entries of a core TLB; an entry past them leaves, oldest first (R225; log entry 8). -/
def tlbInstall (limit : Nat) (tlb : List TlbEntry) (e : TlbEntry) : List TlbEntry :=
  (e :: tlb.filter fun t => !(t.part == e.part && t.va == e.va && t.size == e.size)).take limit

/-- Which TLB serves an access: the core's, or Marten's (R225). -/
def State.tlbOf (s : State) (who : Who) : List TlbEntry :=
  if who.ahead then (s.core who.core).walkTlb else (s.core who.core).tlb

/-- Install a translation after its walk set accessed and dirty in the entry (R226). -/
def State.install (s : State) (who : Who) (need : Need) (va : Nat) (l : Leaf) : State :=
  let write := need.writes
  let e := l.entry ||| 16 ||| (if write then 32 else 0)
  let s1 := if e = l.entry then s else s.setPte who.gang.part l.place e
  if pteKind e = 7 ∨ pteKind e = 8 then s
  else
    let t : TlbEntry := ⟨who.gang.part, va - va % l.size, l.size, e, natBit e 5⟩
    s1.modCore who.core fun c =>
      if who.ahead then { c with walkTlb := tlbInstall 512 c.walkTlb t } else { c with tlb := tlbInstall 256 c.tlb t }

/-- The permission of Table 11-2 an access needs (R224). DESIGN CHOICE: for BAR instructions, completion barriers and XFLUSH, of which R224
says nothing (log entry 78). -/
def permitted (entry : Nat) (need : Need) : Bool :=
  match need with
  | .load => natBit entry 6
  | .threshold => natBit entry 6
  | .engineRead => natBit entry 6
  | .store => natBit entry 7
  | .join => natBit entry 7
  | .engineWrite => natBit entry 7
  | .engineBar => natBit entry 7
  | .atomic => natBit entry 7 && natBit entry 8
  | .fetch => natBit entry 9
  | .flush => natBit entry 6
  | .barRead => natBit entry 6
  | .barWrite => natBit entry 7
  | .tile => true
  | .image => natBit entry 6

/-- The region entry that holds an address (R236). -/
def Part.regionAt (q : Part) (va : Nat) : Option (Nat × Region) :=
  firstWhere (fun r => decide (r.2.base ≤ va) && decide (va < r.2.base + r.2.size)) q.regions

/-- The cell width of a region type in bytes (R140, Table 12-2). -/
def cellWidth (type : Nat) : Nat :=
  match type with
  | 2 => 8
  | 6 => 8
  | 8 => 8
  | 7 => 16
  | _ => 4

/-- Step 6 of Table 7-2: the region rules of R140, R142, R235, with the records of Table 12-3. -/
def latticeCheck (need : Need) (va size : Nat) (kind3 : Bool) (r : Option (Nat × Region)) : Option FaultInfo :=
  match need, r with
  | .join, none => some ⟨0x09, va, 1⟩
  | .threshold, none => some ⟨0x09, va, 1⟩
  | .flush, none => some ⟨0x09, va, 1⟩
  | _, none => if kind3 then some ⟨0x09, va, 6⟩ else none
  | .join, some (_, g) =>
    if !kind3 then some ⟨0x09, va, 6⟩ else if size ≠ cellWidth g.type then some ⟨0x09, va, 2⟩ else none
  | .threshold, some (_, g) =>
    if !kind3 then some ⟨0x09, va, 6⟩ else if size ≠ cellWidth g.type then some ⟨0x09, va, 2⟩ else none
  | .store, some (_, g) =>
    if !kind3 then some ⟨0x09, va, 6⟩ else if size ≠ cellWidth g.type then some ⟨0x09, va, 2⟩ else none
  | .atomic, some _ => some ⟨0x09, va, 4⟩
  | .engineWrite, some _ => some ⟨0x09, va, 5⟩
  | _, some _ => if !kind3 then some ⟨0x09, va, 6⟩ else none

/-- The gang reads snapshotted memory through its own view (R319, R323, R324). -/
def State.hasView (s : State) (g : GangId) : Bool := (s.part g.part).mode == 1 && !g.isRoot

/-- The launch keeps a version of the page of an address (R314). -/
def Launch.versionAt (l : Launch) (va : Nat) : Bool :=
  l.versions.any fun v => decide (v.va ≤ va) && decide (va < v.va + v.size)

/-- Some launch of the partition keeps a version of the page of an address (R314). -/
def Part.versionAt (q : Part) (va : Nat) : Bool := q.launches.any fun l => l.2.versionAt va

/-- The launch's snapshot covers a page of a kind at an address: of kinds 2 and 4, and one that was in HBM and has left it (R323). -/
def Launch.snaps (l : Launch) (kind va : Nat) : Bool :=
  kind == 2 || kind == 4 || l.evicted.any fun e => decide (e.1 ≤ va) && decide (va < e.1 + e.2)

/-- A gang sees a page of a kind at an address through its own view (R323, R324). -/
def State.viewed (s : State) (g : GangId) (kind va : Nat) : Bool := s.hasView g && (s.launch g.part g.launch).snaps kind va

/-- The write is the first of a contained launch, or of a MERGE gang, to its page or piece (R314, R324). -/
def State.firstWrite (s : State) (g : GangId) (kind va : Nat) : Option SettleWhy :=
  if s.hasView g then
    (if s.viewed g kind va ∧ !(s.gang g).pieces.contains (va / 65536) then some (.copy g) else none)
  else if (s.header g).contained ∧ !g.isRoot ∧ (kind = 2 ∨ kind = 4 ∨ kind = 5 ∨ kind = 6) ∧
      !(s.part g.part).versionAt va then some (.version g.launch)
  else none

/-- Steps 4 to 7 of Table 7-2 on a page's entry. -/
def State.pageChecks (s : State) (who : Who) (need : Need) (va size entry psize : Nat) : Chk :=
  let kind := pteKind entry
  let pinned := natBit entry 11
  let viewed := s.viewed who.gang kind va
  let q := s.part who.gang.part
  let region := q.regionAt va
  let first := if need.plainWrite then s.firstWrite who.gang kind va else none
  if !permitted entry need then accessFault 0x05 va need 5
  else if (need = .barRead ∨ need = .barWrite ∨ need = .image) ∧ (kind ≠ 4 ∨ region.isSome) then accessFault 0x05 va need 5
  else if need = .atomic ∧ kind = 5 ∧ pinned ∧ !viewed then accessFault 0x05 va need 5
  else if (kind = 5 ∨ kind = 6) ∧ pinned ∧ first.isSome ∧ !viewed then .bad ⟨0x05, va, 16 + 5⟩
  else
    match latticeCheck need va size (kind == 3) region with
    | some f => .bad f
    | none =>
      match s.leafKey who.gang.part who.die entry psize va with
      | none => accessFault 0x04 va need 4
      | some key =>
        if need.plainWrite && !who.issued && s.touchesTag key size then accessFault 0x0A va need 7
        else if need = .atomic ∧ kind = 5 ∧ !viewed then .resolve .migrate
        else
          match first with
          | some why => .resolve why
          | none =>
            .ok key viewed (natBit entry 10) (region.map Prod.fst)

/-- The address of a page for the access count of R227. -/
def pageOf (va size : Nat) : Nat := va - va % size

/-- A request to a remote page raises its die's count; the one that passes the threshold is resolvable (R227). -/
def State.touch (s : State) (who : Who) (entry va psize : Nat) : State × Bool :=
  let kind := pteKind entry
  if (kind = 5 ∨ kind = 6) ∧ who.counts then
    let q := s.part who.gang.part
    let k := (who.die, pageOf va psize)
    let n := min ((tbGet q.touches k).getD 0 + 1) 65535
    let t := smGet 0 q.regs 4
    (s.setPart who.gang.part { q with touches := tbSet q.touches k n }, decide (1 ≤ t) && decide (t < n) && !natBit entry 11)
  else (s, false)

/-- A kind 6 page whose route is unset, or that names this device, is unmapped (R363). -/
def State.peerRouted (s : State) (entry : Nat) : Bool :=
  let dev := natBits entry 55 48
  pteKind entry != 6 || (dev != s.devid && ((smGet 0 s.peers dev).getLsbD 32))

/-- The base of the page of an address, a 64 KiB piece where nothing is mapped. -/
def State.pageBase (s : State) (p va : Nat) : Nat :=
  match s.walk p va with
  | .leaf l => va - va % l.size
  | _ => va - va % 65536

/-- Steps 4 to 7 for the paged space: the TLB, else a walk that sets accessed and dirty (R222 to R227). -/
def State.translatePaged (s : State) (who : Who) (need : Need) (va size : Nat) : State × Chk :=
  let p := who.gang.part
  let finish := fun (s1 : State) (entry psize : Nat) =>
    match s1.pageChecks who need va size entry psize with
    | .ok key snap recorded region =>
      let (s2, past) := s1.touch who entry va psize
      (s2, if past then Chk.resolve .migrate else .ok key snap recorded region)
    | c => (s1, c)
  match tlbHit (s.tlbOf who) p va need.writes with
  | some t => if s.peerRouted t.entry then finish s t.entry t.size else (s, accessFault 0x04 va need 4)
  | none =>
    let s := s.countWalk p va
    match s.walk p va with
    | .broken => (s.count p 0x08 1, .broken)
    | .invalid => (s, accessFault 0x04 va need 4)
    | .leaf l =>
      let mark := (pageOf va l.size, who.asker)
      if pteKind l.entry = 7 ∧ (s.part p).refused.contains mark then
        (s.modPart p fun q => { q with refused := q.refused.erase mark }, accessFault 0x04 va need 4)
      else if pteKind l.entry = 7 ∨ pteKind l.entry = 8 then
        (s, .resolve (.notPresent (if need = .atomic then 2 else if need.writes then 1 else 0)))
      else if !s.peerRouted l.entry then (s, accessFault 0x04 va need 4)
      else
        let s1 := if permitted l.entry need then s.install who need va l else s
        finish s1 l.entry l.size

/-- The home of a window byte: the member's slice or its save image (R30, R31, R217, R275); while the gang is saved its own engines still
reach the slice (R264). -/
def State.windowKey (s : State) (g : GangId) (m off : Nat) (engine : Bool := false) : Option (Option Nat) :=
  let h := s.header g
  if h.e1 ≤ m ∨ h.scratch ≤ off then none
  else
    let w := s.wg ⟨g, m⟩
    match (s.gang g).state with
    | .running => some (some (keySram w.core (w.base + off)))
    | .draining => some (some (keySram w.core (w.base + off)))
    | .retiring => some (some (keySram w.core (w.base + off)))
    | .saved => (hbmKey (s.part g.part).ports (w.base + off)).map some
    | .saving => some (if engine then some (keySram w.core (w.base + off)) else none)
    | .resuming => some none
    | _ => none

/-- Steps 2 and 5 to 7 for the windows (R30, R31, R155). -/
def State.translateWindow (s : State) (who : Who) (need : Need) (va size : Nat) : Chk :=
  let a := va % 2 ^ 56
  let localWin := decide (a < 0xFE000010000000)
  let g := if localWin then who.gang else ⟨who.gang.part, who.gang.launch, a / 268435456 % 1048576⟩
  let m := a / 16777216 % 16
  let off := a % 16777216
  if localWin = false ∧ a < 0xFF000000000000 then accessFault 0x07 va need 2
  else
    match s.windowKey g m off (who.issued && who.gang == g) with
    | none => accessFault 0x07 va need 2
    | some none => .hold
    | some (some key) =>
      if va % size ≠ 0 then accessFault 0x06 va need 3
      else if need = .fetch then accessFault 0x05 va need 5
      else
        match latticeCheck need va size false none with
        | some f => .bad f
        | none =>
          if need.plainWrite && !who.issued && isSram key && s.touchesTag key size then accessFault 0x0A va need 7
          else .ok key false false none

/-- Steps 2 to 7 of Table 7-2 for a 64-bit pointer (R6, R29, R127). -/
def State.translate (s : State) (who : Who) (need : Need) (va size : Nat) : State × Chk :=
  if !canonical va then (s, accessFault 0x04 va need 2)
  else if va % 2 ^ 56 < 2 ^ 55 then
    (if va % size ≠ 0 then (s, accessFault 0x06 va need 3) else s.translatePaged who need va size)
  else if va % 2 ^ 56 < 0xFE000000000000 then
    (s, if va % size ≠ 0 then accessFault 0x06 va need 3 else accessFault 0x04 va need 4)
  else (s, s.translateWindow who need va size)

/-- Step 2 of Table 7-2: the address an addressing mode forms, or its fault (Table 7-1). -/
def formAddress (mode : Nat) (need : Need) (base : Nat) (offset : Int) : Except FaultInfo Nat :=
  let o : Int := base + offset
  match mode with
  | 0 => .ok (o % 2 ^ 64).toNat
  | 1 => if o < 0 ∨ 2 ^ 28 ≤ o then .error ⟨0x07, ((0xFFFE000000000000 + o) % 2 ^ 64).toNat, need.code * 16 + 2⟩
         else .ok (0xFFFE000000000000 + o.toNat)
  | _ => if o < 0 ∨ 2 ^ 48 ≤ o then .error ⟨0x07, ((0xFFFF000000000000 + o) % 2 ^ 64).toNat, need.code * 16 + 2⟩
         else .ok (0xFFFF000000000000 + o.toNat)

/-- The address is bound for a host or peer page (step 8 of Table 7-2). -/
def boundOff (key : Nat) : Bool := isRemote key && !isForeign key

/-! ### Peers -/

/-- The peer device of a key. -/
def peerOf (key : Nat) : Nat := (key - 2 ^ 80) / 2 ^ 64

/-- The route-table entry that a request to a key is issued under (R363). -/
def State.routeTo (s : State) (key : Nat) : BitVec 256 := if 2 ^ 80 ≤ key then smGet 0 s.peers (peerOf key) else 0

/-- The ready links of a route's mask, ascending (R363). -/
def State.readyLinks (s : State) (route : BitVec 256) : List Nat :=
  (natsFrom 0 24).filter fun l => route.getLsbD l && s.ready.getLsbD (48 + l)

/-- The link a request to an address of a peer travels over: ⌊pa / 64⌋ mod the count of the ready links of its route; none where there are
none (R363). -/
def State.linkOf (s : State) (route : BitVec 256) (pa : Nat) : Option Nat :=
  let ls := s.readyLinks route
  ls[pa / 64 % ls.length]?

/-- A peer can be reached by a route: over a ready direct link, or Ethernet where the entry says so (R363, R365). -/
def State.routeOpen (s : State) (dev : Nat) (route : BitVec 256) : Bool :=
  !s.unreachable.contains dev &&
    (s.readyLinks route != [] || (route.getLsbD 33 && (natsFrom 0 4).any fun p => s.ready.getLsbD (72 + p)))

/-- A peer can be reached by the entry of the route table as it stands. -/
def State.peerReachable (s : State) (dev : Nat) : Bool := s.routeOpen dev (smGet 0 s.peers dev)

/-- The key is a peer's that a request of a route cannot reach (R365). -/
def State.lostVia (s : State) (route : BitVec 256) (key : Nat) : Bool := decide (2 ^ 80 ≤ key) && !s.routeOpen (peerOf key) route

/-- The key is a peer's that cannot be reached (R365). -/
def State.lostPeer (s : State) (key : Nat) : Bool := s.lostVia (s.routeTo key) key

/-- The n bytes at a home; of a peer that cannot be reached, the poison code (R365). -/
def State.farBytes (s : State) (key n : Nat) : List PByte :=
  if s.lostPeer key then (natsFrom 0 n).map fun _ => ⟨0, true⟩ else s.readBytes key n

/-- n bytes are copied in lines from one map of places to another, all read before any is written; the lines of HBM and the poison are
counted (R304, R352). -/
def State.copyLines (s : State) (p n : Nat) (src dst : Nat → Option Nat) : State :=
  let moved := (natsFrom 0 (ceilDiv n 64)).filterMap fun i =>
    match src (64 * i), dst (64 * i) with
    | some a, some b => some (a, b, s.farBytes a 64)
    | _, _ => none
  let hbm := (moved.filter fun m => isHbm m.1).length + (moved.filter fun m => isHbm m.2.1).length
  let s1 := moved.foldl (fun acc m => acc.writeBytes m.2.1 m.2.2) s
  (s1.count p 0x06 hbm).count p 0x08 (moved.filter fun m => anyPoison m.2.2).length

/-! ### Slices (R350) -/

/-- The engine that moves bytes to or from a remote home: host DMA, Xouth, Ethernet. -/
def State.engineOf (s : State) (route : BitVec 256) (key : Nat) : Nat :=
  if key < 2 ^ 80 then 0 else if (s.linkOf route (key % 2 ^ 64)).isSome then 1 else 2

/-- The slices have all started. -/
def Part.sliced (q : Part) (o : SliceOwner) : Bool := q.slices.any fun x => x.owner == o && x.bytes == 0

/-- Bytes wait for their slices: they are asked for once; the flag says all have started, and they are then spent. -/
def State.takeSlices (s : State) (p : Nat) (want : List Slice) : State × Bool :=
  let q := s.part p
  if want.all fun w => q.sliced w.owner then
    (if want.isEmpty then s else s.setPart p { q with slices := q.slices.filter fun x => !want.any fun w => w.owner == x.owner }, true)
  else (s.setPart p { q with slices := q.slices ++ want.filter fun w => !q.slices.any fun x => x.owner == w.owner }, false)

/-- The slices of n bytes at a home off the device, by a route. -/
def State.slicesVia (s : State) (route : BitVec 256) (o : SliceOwner) (key n prio : Nat) : List Slice :=
  if isRemote key && !isForeign key && !s.lostVia route key then [⟨o, s.engineOf route key, n, prio⟩] else []

/-- The slices of n bytes at a home off the device. -/
def State.homeSlices (s : State) (o : SliceOwner) (key n prio : Nat) : List Slice := s.slicesVia (s.routeTo key) o key n prio

end Sys2Proof.Machine
end

