-- ==== Sys2Proof/Machine/Device.lean ====
section
/-! DEFINITION. What the device writes on its own account, the debug log, sector barriers and their waiters, and the snapshot
bytes a MERGE partition keeps (spec/07 R149 to R154; spec/15 R300 to R303; spec/16 R325). -/

namespace Sys2Proof.Machine

/-! ### Sector barriers -/

/-- Phase of a sector barrier (Table 7-9). -/
def barPhase (o : Nat) : Nat := natBits o 3 0
/-- Error of a sector barrier. -/
def barError (o : Nat) : Bool := natBit o 4
/-- Pending sectors of a sector barrier, modulo 2^32. -/
def barSectors (o : Nat) : Nat := natBits o 63 32
/-- Arrivals still expected. -/
def barArrivals (o : Nat) : Nat := natBits o 79 64
/-- Arrivals per phase. -/
def barReload (o : Nat) : Nat := natBits o 95 80

/-- A sector barrier from its fields. -/
def barMake (phase : Nat) (err : Bool) (sectors arrivals reload : Nat) : Nat :=
  phase % 16 + 16 * bit01 err + 2 ^ 32 * (sectors % 2 ^ 32) + 2 ^ 64 * (arrivals % 65536) + 2 ^ 80 * (reload % 65536)

/-- One update of a sector barrier: an arrival or none, an error, sectors added (R152). -/
def barUpdate (o : Nat) (arrive err : Bool) (sectors : Int) : Nat :=
  let a := barArrivals o
  let err' := barError o || err || (arrive && a == 0)
  let a' := if arrive then a - 1 else a
  let n := ((barSectors o : Int) + sectors) % 2 ^ 32
  if a' = 0 ∧ n = 0 then barMake (barPhase o + 1) err' 0 (barReload o) (barReload o)
  else barMake (barPhase o) err' n.toNat a' (barReload o)

/-- Change every thread of a warp. -/
def Warp.mapThreads (w : Warp) (f : Nat → Thread → Thread) : Warp := { w with lanes := w.lanes.map fun l => (l.1, f l.1 l.2) }

/-- Change every thread. -/
def State.mapThreads (s : State) (f : ThreadId → Thread → Thread) : State :=
  { s with warps := s.warps.map fun w => (w.1, w.2.mapThreads fun l t => f ⟨w.1, l⟩ t) }

/-- A return of BARWAIT is an acquire: the thread learns what the completed phases released (R153). -/
def Thread.learn (t : Thread) (ks : List Known) : Thread := { t with sync := { t.sync with knows := joinKnown t.sync.knows ks } }

/-- A waiter re-tests its barrier: it becomes ready once the phase differs, or the tag is gone (R153, R154). -/
def Thread.barTest (t : Thread) (key o : Nat) (tagged : Bool) (done : List Known) : Thread :=
  match t.wait with
  | .barrier k phase pred next =>
    if k = key then
      (if !tagged then { t.writePred pred false with wait := .ready, pc := next }
       else if barPhase o ≠ phase then { (t.writePred pred (!barError o)).learn done with wait := .ready, pc := next }
       else t)
    else t
  | _ => t

/-- What a barrier's arrivals have released. -/
def State.barSyncOf (s : State) (key : Nat) : BarSync := (tbGet s.barSync key).getD ⟨[], []⟩

/-- The waiters of a barrier re-test. -/
def State.barWake (s : State) (key : Nat) : State :=
  let o := s.readNat key 16
  let tagged := s.tagged key
  s.mapThreads fun _ t => t.barTest key o tagged (s.barSyncOf key).done

/-- What an update of a barrier releases joins its open phase, or, where it completes that, the completed ones (R152, R153). -/
def BarSync.note (b : BarSync) (ks : List Known) (completes : Bool) : BarSync :=
  let all := joinKnown b.open_ ks
  if completes then ⟨[], joinKnown b.done all⟩ else { b with open_ := all }

/-- An update of the sector barrier at a key, with what it releases; it is discarded where the line is not tagged. -/
def State.barApply (s : State) (key : Nat) (arrive err : Bool) (sectors : Int) (ks : List Known) : State :=
  if s.tagged key then
    let old := s.readNat key 16
    let new := barUpdate old arrive err sectors
    let b := (s.barSyncOf key).note ks (barPhase new != barPhase old)
    ({ s with barSync := tbSet s.barSync key b }.writeNat key 16 new).barWake key
  else s

/-- Sectors a completed command subtracts from its barrier, its writes released with them; keyGone stands for none (R152, R210, R263). -/
def State.barComplete (s : State) (key sectors : Nat) : State :=
  if key = keyGone then s else s.barApply key false false (-(sectors : Int)) [⟨.device, s.nextId⟩]

/-! ### Outside writes in a MERGE partition -/

/-- The MERGE launch whose snapshot stands (R322, R323). -/
def Part.snapshotOf (q : Part) : Option (Nat × Launch) :=
  if q.mode = 1 then firstWhere (fun l => l.2.placed) q.launches else none

/-- A byte off the device lies in a page that was in HBM when the snapshot was taken and has left it since (R323). -/
def State.leftHbm (s : State) (p : Nat) (l : Launch) (key : Nat) : Bool :=
  l.evicted.any fun e =>
    match s.walk p e.1 with
    | .leaf m =>
      (match s.leafKey p 0 m.entry m.size e.1 with
       | some k => isRemote k && decide (k ≤ key) && decide (key < k + e.2)
       | none => false)
    | _ => false

/-- Before an outside write to n bytes of snapshotted memory, the ECC words it touches are kept as the snapshot (R133, R325). -/
def State.keepSnapshot (s : State) (p key n : Nat) : State :=
  match (s.part p).snapshotOf with
  | none => s
  | some (no, l) =>
    if n ≠ 0 ∧ (isHbm key || isSram key || s.leftHbm p l key) then
      let lo := eccBase key
      let missing := (natsFrom lo (eccBase (key + n - 1) + eccSize key - lo)).filter fun k => (tbGet l.kept k).isNone
      s.modLaunch p no fun l => { l with kept := l.kept ++ missing.map fun k => (k, ⟨s.byteAt k, s.poisonAt k⟩) }
    else s

/-! ### Device-generated writes -/

/-- Where a device-generated write ends (R303). -/
inductive DevTarget where
  | ready (l : Leaf) (key : Nat)
  | wait (l : Leaf)
  | drop
deriving DecidableEq, Repr

/-- The translation of a device-generated write (R303). -/
def State.devTarget (s : State) (p va : Nat) : DevTarget :=
  let die := ((s.diesOf p).head?).getD 0
  if 2 ^ 55 ≤ va ∨ ((s.part p).regionAt va).isSome then .drop
  else
    match s.walk p va with
    | .leaf l =>
      if pteKind l.entry = 7 ∨ pteKind l.entry = 8 then .wait l
      else if !natBit l.entry 7 || pteKind l.entry == 3 || !s.peerRouted l.entry then .drop
      else
        match s.leafKey p die l.entry l.size va with
        | some key => .ready l key
        | none => .drop
    | _ => .drop

/-- Two settlements are one (R228). -/
def SettleWhy.joins (a b : SettleWhy) : Bool :=
  match a, b with
  | .notPresent _, .notPresent _ => true
  | a, b => a == b

/-- What a settlement is of: a page, or a 64 KiB piece of a MERGE gang's view (R324). -/
def State.settleBase (s : State) (p va : Nat) (why : SettleWhy) : Nat :=
  match why with
  | .copy _ => va - va % 65536
  | _ => s.pageBase p va

/-- One waits for a settlement already. -/
def Settle.waits (x : Settle) (w : Waiter) : Bool := x.asks.any fun a => a.who == w

/-- Ask Badger to settle a page; a request for a page being settled joins it (R228). -/
def State.askSettle (s : State) (p die : Nat) (g : GangId) (why : SettleWhy) (a : Ask) : State :=
  let page := s.settleBase p a.va why
  s.modPart p fun q =>
    if q.settles.any fun x => x.va == page && x.why.joins why then
      { q with settles := q.settles.map fun x =>
          if x.va = page ∧ x.why.joins why ∧ !x.waits a.who then { x with asks := x.asks ++ [a] } else x }
    else { q with settles := q.settles ++ [⟨page, die, g, why, [a], none, none, none, []⟩] }

/-- What a debug-log record holds (Table 15-5). -/
structure LogRec where
  event : Nat
  kind : Nat := 0
  launch : Nat := 0
  summary : Nat := 0
  gang : Nat := 0
  core : Nat := 0
  warp : Nat := 0
  lane : Nat := 255
  info : Nat := 0
  entry : Nat := 0
  pc : Nat := 0
  addr : Nat := 0
  lanes : Nat := 0
deriving DecidableEq, Repr

/-- The 64 bytes of a debug-log record. -/
def LogRec.bytes (r : LogRec) (time seq : Nat) : List Byte :=
  natBytes 8 time ++ natBytes 1 r.event ++ natBytes 1 r.kind ++ natBytes 2 r.launch ++ natBytes 4 r.summary ++
  natBytes 8 r.gang ++ natBytes 2 r.core ++ natBytes 1 r.warp ++ natBytes 1 r.lane ++ natBytes 4 r.info ++
  natBytes 8 r.entry ++ natBytes 8 r.pc ++ natBytes 8 r.addr ++ natBytes 4 r.lanes ++ natBytes 4 seq

/-- Partition time in ns (R21). -/
def Part.time (q : Part) : Nat := q.ticks * 20 / 21

/-- The entry count of the debug log: a power of two from 64 to 65,536, else none (R300). -/
def Part.logCount (q : Part) : Nat := natBits (smGet 0 q.regs 5) 95 64

/-- The address of a device-generated write. -/
def DevOp.va : DevOp → Nat
  | .bytes va _ _ => va
  | .record va _ _ _ => va
  | .status va _ _ _ => va
  | .void va _ => va
  | .arrive va _ _ _ => va

/-- The priority of a device-generated write's bytes: that of the gang or the launch which caused it, register 0x03's for the host's (R350);
an arrival moves none. -/
def DevOp.prio : DevOp → Nat
  | .bytes _ _ n => n
  | .record _ _ _ n => n
  | .status _ _ _ n => n
  | .void _ n => n
  | .arrive _ _ _ _ => 0

/-- Write a device-generated write at its home, with the entry's accessed and dirty bits set; to a peer that cannot be reached nothing is
written (R365). -/
def State.devPerform (s : State) (p : Nat) (op : DevOp) (l : Leaf) (key : Nat) : State :=
  let s0 := s.countWalk p op.va
  let s1 := if l.entry ||| 48 = l.entry then s0 else s0.setPte p l.place (l.entry ||| 48)
  let put := fun (bs : List Byte) (told : List Told) =>
    if s1.lostPeer key then s1.count p 0x0A 1
    else ((s1.countLines p key bs.length).keepSnapshot p key bs.length).putBytes key (bs.map fun b => ⟨b, false⟩) told
  match op with
  | .bytes _ bs _ => put bs []
  | .record _ bs _ _ => put bs []
  | .status _ bs n _ => put bs [⟨none, 4, [⟨.launch p n, s.nextId⟩]⟩]
  | .void _ _ => put [s.byteAt key ||| 1] []
  | .arrive _ err _ n => s1.barApply key true err 0 [⟨.launch p n, s.nextId⟩]

/-- The write is a record of the debug log. -/
def DevOp.isRecord : DevOp → Bool
  | .record _ _ _ _ => true
  | _ => false

/-- The write is a debug-log record that comes before the next consequence for a gang (R300). -/
def DevOp.before (o : DevOp) (g : GangId) : Bool :=
  match o with
  | .record _ _ h _ => h == g
  | _ => false

/-- The write is dropped: it is counted, and nothing else of it happens (R303). -/
def State.devDrop (s : State) (p : Nat) : State := s.count p 0x0D 1

/-- The bytes of a device-generated write. -/
def DevOp.size : DevOp → Nat
  | .bytes _ bs _ => bs.length
  | .record _ bs _ _ => bs.length
  | .status _ bs _ _ => bs.length
  | .void _ _ => 1
  | .arrive _ _ _ _ => 16

/-- What becomes of a device-generated write: it waits, for Badger or for its slices, or it is over; the flag says it was dropped. -/
inductive DevEnd where
  | waits (s : State)
  | over (s : State) (dropped : Bool)

/-- Try one device-generated write (R303); to a home off the device it goes in slices (R350; log entry 52). -/
def State.devTry (s : State) (p : Nat) (op : DevOp) : DevEnd :=
  match s.devTarget p op.va with
  | .wait _ => .waits s
  | .drop => .over (s.devDrop p) true
  | .ready l key =>
    match op with
    | .arrive _ _ home _ =>
      if pteKind l.entry = 4 ∧ key = home ∧ s.tagged key then .over (s.devPerform p op l key) false else .over (s.devDrop p) true
    | _ =>
      match s.takeSlices p (s.homeSlices (.device op.va) key op.size op.prio) with
      | (s1, true) => .over (s1.devPerform p op l key) false
      | (s1, false) => .waits s1

/-- Badger has still to settle the page of an address, for what the device does itself (R228, R303). -/
def State.settling (s : State) (p va : Nat) : Bool :=
  match s.walk p va with
  | .leaf l => (pteKind l.entry == 7 || pteKind l.entry == 8) && !(s.part p).refused.contains (pageOf va l.size, .device)
  | _ => false

/-- The device itself asks for a page (R303). -/
def State.askDevice (s : State) (p va : Nat) : State :=
  s.askSettle p (((s.diesOf p).head?).getD 0) (rootGang p) (.notPresent 1) { who := .device, va := va, pc := 0, entry := 0 }

/-- A device-generated write in order: behind those that wait, else at once; a page Badger must settle is asked for. -/
def State.devOp (s : State) (p : Nat) (op : DevOp) : State × Bool :=
  if (s.part p).held ≠ [] then (s.modPart p fun q => { q with held := q.held ++ [op] }, false)
  else
    match s.devTry p op with
    | .over s1 dropped => (s1, dropped)
    | .waits s0 =>
      let s1 := s0.modPart p fun q => { q with held := [op] }
      match s.devTarget p op.va with
      | .wait _ => (s1.askDevice p op.va, false)
      | _ => (s1, false)

/-- Write a debug-log record for something of a priority; a count of 0 disables the log (R300). A dropped record is only counted (R303). -/
def State.logAs (s : State) (p : Nat) (r : LogRec) (prio : Nat) : State :=
  let q := s.part p
  let n := q.logCount
  if n = 0 then s
  else
    let base := natBits (smGet 0 q.regs 5) 63 0
    let op := DevOp.record (base + 64 * ((q.debugSeq - 1) % n)) (r.bytes q.time q.debugSeq) ⟨p, r.launch, r.gang⟩ prio
    ((s.modPart p fun q => { q with debugSeq := q.debugSeq + 1 }).devOp p op).1

/-- Write a debug-log record of a gang's launch. -/
def State.log (s : State) (p : Nat) (r : LogRec) : State := s.logAs p r (s.launch p r.launch).hdr.prio

/-- A device-generated write other than a debug-log record; a dropped one is reported, event 8 (R303). -/
def State.devWrite (s : State) (p : Nat) (op : DevOp) : State :=
  let (s1, dropped) := s.devOp p op
  if dropped then s1.logAs p { event := 8, addr := op.va } op.prio else s1

/-- A device-generated write whose page was refused is dropped. -/
def State.devRefused (s : State) (p va : Nat) : Option State :=
  let mark := (s.pageBase p va, Waiter.device)
  if (s.part p).refused.contains mark then
    some ((s.modPart p fun q => { q with refused := q.refused.erase mark }).devDrop p)
  else none

/-- A write that waited was dropped: it is reported, but for a debug-log record (R303). -/
def State.devReport (s : State) (p : Nat) (op : DevOp) (dropped : Bool) : State :=
  if dropped && !op.isRecord then s.logAs p { event := 8, addr := op.va } op.prio else s

/-- The device-generated writes that waited are tried again in order (R303); the number bounds the tries. -/
def State.flushHeld (s : State) (p : Nat) : Nat → State
  | 0 => s
  | n + 1 =>
    match (s.part p).held with
    | [] => s
    | op :: rest =>
      match s.devTry p op with
      | .over s1 dropped => ((s1.modPart p fun q => { q with held := rest }).devReport p op dropped).flushHeld p n
      | .waits s1 =>
        match s.devTarget p op.va with
        | .wait _ =>
          (match s.devRefused p op.va with
           | some s2 => ((s2.modPart p fun q => { q with held := rest }).devReport p op true).flushHeld p n
           | none => s.askDevice p op.va)
        | _ => s1

end Sys2Proof.Machine
end

