-- ==== Sys2Proof/Machine/Lattice.lean ====
section
/-! DEFINITION. Lattice cells: joins, orders, thresholds, the update of a replica with its dirty marks, and the re-test of parked
LDLT lanes (spec/07 R140 to R144; spec/12 R239 to R245). -/

namespace Sys2Proof.Machine

/-- key(x) of R141. -/
def maxfKey (x : Nat) : Nat := if x / 2147483648 % 2 = 0 then x + 2147483648 else 4294967295 - x

/-- A MAXF32 NaN becomes 0x7FC0_0000 (R141, R142). -/
def cellOperand (type v : Nat) : Nat :=
  if type = 4 ∧ 255 = v / 8388608 % 256 ∧ v % 8388608 ≠ 0 then 0x7FC00000 else v

/-- The two's complement value of a 32-bit word. -/
def signed32 (x : Nat) : Int := if x < 2147483648 then x else (x : Int) - 4294967296

/-- Word i of a cell. -/
def slotOf (width i x : Nat) : Nat := x / 2 ^ (width * i) % 2 ^ width

/-- Combine cells slot by slot. -/
def mapSlots (width n : Nat) (f : Nat → Nat → Nat) (x y : Nat) : Nat :=
  sumNat ((natsFrom 0 n).map fun i => f (slotOf width i x) (slotOf width i y) * 2 ^ (width * i))

/-- cell ⊔ v of Table 7-8. -/
def joinCell (type cell v : Nat) : Nat :=
  match type with
  | 1 => max cell v
  | 2 => max cell v
  | 3 => if signed32 v < signed32 cell then v else cell
  | 4 => if maxfKey cell < maxfKey v then v else cell
  | 5 => cell ||| v
  | 6 => cell ||| v
  | 7 => mapSlots 32 4 max cell v
  | _ => mapSlots 8 8 max cell v

/-- x ⊒ y of Table 7-8. -/
def aboveCell (type x y : Nat) : Bool :=
  match type with
  | 1 => decide (y ≤ x)
  | 2 => decide (y ≤ x)
  | 3 => decide (signed32 x ≤ signed32 y)
  | 4 => decide (maxfKey y ≤ maxfKey x)
  | 5 => x &&& y == y
  | 6 => x &&& y == y
  | 7 => (natsFrom 0 4).all fun i => decide (slotOf 32 i y ≤ slotOf 32 i x)
  | _ => (natsFrom 0 8).all fun i => decide (slotOf 8 i y ≤ slotOf 8 i x)

/-- The threshold of Table 7-8 is met. -/
def metCell (type cell thr : Nat) : Bool :=
  match type with
  | 1 => decide (thr ≤ cell)
  | 2 => decide (thr ≤ cell)
  | 3 => decide (signed32 cell ≤ signed32 thr)
  | 4 => decide (maxfKey thr ≤ maxfKey cell)
  | 5 => cell &&& thr == thr
  | 6 => cell &&& thr == thr
  | 7 => decide (thr ≤ sumNat ((natsFrom 0 4).map fun i => slotOf 32 i cell))
  | _ => (natsFrom 0 8).all fun i => decide (slotOf 8 i thr ≤ slotOf 8 i cell)

/-- The bottom value of a type (Table 12-2). -/
def bottomCell (type : Nat) : Nat :=
  match type with
  | 3 => 0x7FFFFFFF
  | 4 => 0xFFFFFFFF
  | _ => 0

/-- JINC's addition to a die's slot, saturating (R143). -/
def jincCell (die cell addend : Nat) : Nat :=
  let old := slotOf 32 die cell
  cell - old * 2 ^ (32 * die) + min (old + addend) 4294967295 * 2 ^ (32 * die)

/-- The home of a cell's replica on a die (R234). -/
def State.replicaKey (s : State) (p die va : Nat) : Option Nat :=
  match s.walk p va with
  | .leaf l => if pteKind l.entry = 3 then s.leafKey p die l.entry l.size va else none
  | _ => none

/-- The registers of a cell: one, two or four (R139). -/
def cellWords (width : Nat) : Nat := width / 4

/-- A lane parked at LDLT is tested again (R144, R242); a poisoned cell sends it back to the LDLT, which consumes the poison
(R243). -/
def Thread.ldltTest (t : Thread) (key type cell : Nat) (poison : Bool) : Thread :=
  match t.wait with
  | .ldlt x _ k thr _ _ next =>
    if k = key then
      (if poison then { t with wait := .ready, pc := next - 12 }
       else if metCell type cell thr then
         let t1 := (t.writeRegs (wideWrite x.d (cellWords (cellWidth type)) ⟨cell, false⟩)).writePred (predNum x.c) true
         { t1 with wait := .ready, pc := next }
       else t)
    else t
  | _ => t

/-- The dies a die's rounds send to, by the schedule: those a rank ever serves (R245). -/
def schedDests (sched : Nat) (live : List Nat) (die : Nat) : List Nat :=
  let k := live.length
  let r := (live.filter fun d => decide (d < die)).length
  let ranks :=
    match sched with
    | 0 => [(r + 1) % k]
    | 1 => [r ^^^ 1, r ^^^ 2]
    | _ => natsFrom 0 k
  (ranks.filter fun q => decide (q < k) && q != r).filterMap fun q => live[q]?

/-- Set a cell's dirty marks on a die for the schedule's destinations (R245). -/
def State.markCell (s : State) (p entry off die : Nat) : State :=
  let sched := ((tbGet (s.part p).regions entry).map Region.sched).getD 0
  (schedDests sched (s.diesOf p) die).foldl
    (fun acc d => acc.modDie die fun x =>
      { x with marks := if x.marks.contains ⟨p, entry, off, d⟩ then x.marks else x.marks ++ [⟨p, entry, off, d⟩] }) s

/-- The scope at which a parked LDLT of a cell acquires, where it does; none of another lane (R199). -/
def Thread.ldltAcquire (t : Thread) (key : Nat) : Option (Option Nat) :=
  match t.wait with
  | .ldlt x _ k _ _ _ _ => if k = key then some x.acquireScope else none
  | _ => none

/-- The lanes that stop waiting for a cell have read it: what they learn, and that they take no older value (R145, R200, R212). -/
def State.ldltReads (s : State) (before : State) (key n : Nat) : State :=
  let lanes := before.warps.flatMap fun w => w.2.lanes.filterMap fun l =>
    (l.2.ldltAcquire key).map fun scope => ((⟨w.1, l.1⟩ : ThreadId), scope)
  lanes.foldl
    (fun acc x =>
      if (acc.thread x.1).wait = .ready then
        let (s1, d) := acc.takeFrom x.1 acc.nextId key n x.2 (acc.tops key n) (acc.newRaces x.1 key n x.2)
        s1.noteSync x.1 d
      else acc) s

/-- One update of a replica cell (R240): its new value, dirty marks for a rise, the parked lanes tested again but for those of a gang
that is saved or resuming, which see the cell of the die they resume on (R145, R346). A poisoned cell stays poisoned (R243). -/
def State.updateCell (s : State) (p entry va key die : Nat) (value : Nat) (poison fromMerge : Bool) (w : Writer) : State :=
  match tbGet (s.part p).regions entry with
  | none => s
  | some r =>
    let n := cellWidth r.type
    let old := s.readNat key n
    let was := anyPoison (s.readBytes key n)
    let bad := poison || was
    let s1 := (s.keepPast key n { w with chain := true }).writeBytes key ((natBytes n value).map fun b => ⟨b, bad⟩)
    let s2 := if (value = old ∧ bad = was) ∨ (fromMerge ∧ r.sched = 2) then s1 else s1.markCell p entry (va - r.base) die
    (s2.mapThreads fun t th =>
      if t.gang.part = p ∧ (s.gang t.gang).state ≠ .saved ∧ (s.gang t.gang).state ≠ .resuming then th.ldltTest key r.type value bad else th).ldltReads s2 key n

/-- A join into a replica cell: of an operand (R141, R142), or of a cell's value that Owl merges (R240, R245). -/
def State.joinAt (s : State) (p entry va key die : Nat) (v : Nat) (poison fromMerge : Bool) (w : Writer) : State :=
  match tbGet (s.part p).regions entry with
  | none => s
  | some r =>
    let old := s.readNat key (cellWidth r.type)
    s.updateCell p entry va key die (joinCell r.type old (if fromMerge then v else cellOperand r.type v)) poison fromMerge w

end Sys2Proof.Machine
end

