-- ==== Sys2Proof/Machine/Access.lean ====
section
/-! DEFINITION. Accesses on their way to their homes and what they do there: order stages, loads, stores, atomics, lattice
updates, MERGE views, RECORD chunks and REPLAY gates (spec/07 R132 to R143; spec/10; spec/16 R324 to R339). -/

namespace Sys2Proof.Machine

/-! ### Atomics (Table 7-6) -/

/-- The width of an atomic in bytes. -/
def atomBytes (op ty : Nat) : Nat := if op = 8 ∨ 2 ≤ ty then 8 else 4

/-- A value of w bits read as signed. -/
def signedN (w x : Nat) : Int := if x < 2 ^ (w - 1) then x else (x : Int) - 2 ^ w

/-- The smaller or larger of two values in the type. -/
def atomPick (wantMax signed : Bool) (w old b : Nat) : Nat :=
  let less := if signed then decide (signedN w b < signedN w old) else decide (b < old)
  if wantMax then (if b = old then old else if less then old else b) else if less then b else old

/-- The new value at the location (Table 7-6). -/
def atomNew (op ty old b : Nat) : Nat :=
  let w := 8 * atomBytes op ty
  let signed := ty == 0 || ty == 2
  match op with
  | 0 => (old + b) % 2 ^ w
  | 1 => old &&& b
  | 2 => old ||| b
  | 3 => old ^^^ b
  | 4 => atomPick false signed w old b
  | 5 => atomPick true signed w old b
  | 6 => b
  | 7 => (addRNE f32 old b).bits
  | 8 => (addRNE f64 old b).bits
  | _ => (addRNE bf16 (old % 65536) (b % 65536)).bits + 65536 * (addRNE bf16 (old / 65536) (b / 65536)).bits

/-- What an atomic leaves: the stored value with its poison, none where a CAS fails (R137). -/
def atomApply (op : AccOp) (old : Nat) (oldPoison : Bool) : Option (Nat × Bool) :=
  match op with
  | .atom o ty b p _ => some (atomNew o ty old b, p || (o != 6 && oldPoison))
  | .cas c n _ pn => if old = c then some (n, pn) else none
  | _ => none

/-! ### MERGE views (R324) -/

/-- A byte as a MERGE gang sees it: its private copy, the kept snapshot, the shared page. -/
def State.viewByte (s : State) (g : GangId) (va key : Nat) : PByte :=
  match tbGet (s.gang g).view va with
  | some b => b
  | none =>
    match tbGet (s.launch g.part g.launch).kept key with
    | some b => b
    | none => ⟨s.byteAt key, s.poisonAt key⟩

/-- The bytes of a range as a MERGE gang sees them. -/
def State.viewBytes (s : State) (g : GangId) (va key n : Nat) : List PByte :=
  (natsFrom 0 n).map fun i => s.viewByte g (va + i) (key + i)

/-- A write to a gang's private copy, with the poison of the 32-byte words it touches (R133), and its write mask. -/
def State.viewWrite (s : State) (g : GangId) (va key : Nat) (bs : List PByte) (byStore : Bool) : State :=
  let n := bs.length
  let lo := va - va % 32
  let words := (natsFrom 0 (n / 32 + 2)).filter fun i => decide (lo + 32 * i < va + n)
  let byteNow := fun (b : Nat) =>
    if va ≤ b ∧ b < va + n then (bs[b - va]?).getD ⟨0, false⟩
    else s.viewByte g b (key + b - va)
  let cells := words.flatMap fun i =>
    let w := lo + 32 * i
    let inside := bytesIn w 32 va bs
    let old := (natsFrom 0 32).any fun j => (s.viewByte g (w + j) (key + w + j - va)).p
    let bad := anyPoison inside || (old && decide (inside.length ≠ 32))
    (natsFrom 0 32).map fun j => (w + j, (⟨(byteNow (w + j)).v, bad⟩ : PByte))
  s.modGang g fun q =>
    { q with view := cells.foldl (fun acc c => tbSet acc c.1 c.2) q.view
             stored := if byStore then (natsFrom va n).foldl nsInsert q.stored else q.stored }

/-! ### Plain reads and writes at a home -/

/-- The bytes an access reads at its home; an unreachable peer answers with the poison code (R365). -/
def State.homeBytes (s : State) (a : Access) : List PByte :=
  if a.snap then s.viewBytes a.gang a.va a.key a.size
  else if s.lostVia a.route a.key then (natsFrom 0 a.size).map fun _ => ⟨0, true⟩
  else s.readBytes a.key a.size

/-- The access reads only. -/
def Access.isLoad (a : Access) : Bool :=
  match a.op with
  | .load _ => true
  | _ => false

/-- The access is a read-modify-write. -/
def Access.isRmw (a : Access) : Bool :=
  match a.op with
  | .atom _ _ _ _ _ => true
  | .cas _ _ _ _ => true
  | _ => false

/-- The access is a RED. -/
def Access.isRed (a : Access) : Bool :=
  match a.op with
  | .atom _ _ _ _ wantsOld => !wantsOld
  | _ => false

/-- The thread of an access, none for an engine or the device. -/
def AccSrc.thread? (s : AccSrc) : Option ThreadId :=
  match s with
  | .thread t => some t
  | .device => none

/-- Who writes by an access; what an engine writes takes its number when it is written (R197). -/
def Access.writer (a : Access) (now : Nat) : Writer :=
  match a.src with
  | .thread t => { who := some t, id := a.id, told := a.told, chain := a.isRmw, sc := a.scAfter }
  | .device => { id := now }

/-- A write at a home: the gang's private copy, or the shared location, whose snapshot and history are kept first (R201, R324, R325); the
crossbar discards one that leaves the partition (R341). -/
def State.homeWrite (s : State) (a : Access) (bs : List PByte) (byStore : Bool) : State :=
  if a.snap then s.viewWrite a.gang a.va a.key bs byStore
  else if isForeign a.key then s.countError
  else if s.lostVia a.route a.key then s.count a.gang.part 0x0A 1
  else
    ((if s.hasView a.gang || decide (2 ^ 55 ≤ a.va % 2 ^ 56) then s else s.keepSnapshot a.gang.part a.key bs.length).keepPast a.key bs.length
      (a.writer s.nextId)).writeBytes a.key bs

/-! ### Lanes that wait for their group -/

/-- A lane of the group is still at a boundary instruction it shares with the others (R84, R128, R137). -/
def Warp.stillAt (w : Warp) (here : Dword) (lane : Nat) : Bool :=
  let t := w.thread lane
  t.pc == here &&
    (match t.wait with
     | .ready => true
     | .atomic _ _ _ _ _ => true
     | .logged _ _ _ => true
     | _ => false)

/-- Lanes that have done their part go on once no lane of their group is still at the instruction (R80, R137). -/
def Warp.regroup (w : Warp) : Warp :=
  w.mapThreads fun _ t =>
    match t.wait with
    | .together mates here next =>
      if mates.any (w.stillAt here) then t else { t with wait := .ready, pc := next }
    | _ => t

/-! ### What a thread receives -/

/-- The words a load delivers: its bytes, extended to its registers (R132). -/
def loadWords (size n : Nat) (signed : Bool) (bs : List PByte) : List PWord :=
  let p := anyPoison bs
  let x := natOfBytes (bs.map PByte.v)
  let v := if signed ∧ size < 4 ∧ 2 ^ (8 * size - 1) ≤ x then 2 ^ 32 - 2 ^ (8 * size) + x else x
  (wordsOf n v).map fun w => ⟨w, p⟩

/-- Bytes forwarded from the lane's own store buffer stand in place of those read (R132). -/
def applyForward (bs : List PByte) (fwd : List (Nat × PByte)) : List PByte :=
  (natsFrom 0 bs.length).map fun i =>
    match tbGet fwd i with
    | some b => b
    | none => (bs[i]?).getD ⟨0, false⟩

/-- A load's data returns to its pending result. -/
def Thread.loadDone (t : Thread) (id size : Nat) (bs : List PByte) : Thread :=
  { t with pends := t.pends.map fun p =>
      if p.id = id then { p with ready := true, words := loadWords size p.regs.length p.signed bs } else p }

/-- An ATOM or CAS completes: d takes the old value (R137). -/
def Thread.atomDone (t : Thread) (id old : Nat) (poison : Bool) : Thread :=
  match t.wait with
  | .atomic i d wide mates next =>
    if i = id then
      { t.writeRegs (wideWrite (BitVec.ofNat 9 d) (if wide then 2 else 1) ⟨old, poison⟩) with wait := .together mates t.pc next }
    else t
  | _ => t

/-- Give a thread its result, in the leader and the shadow alike (R308). -/
def State.give (s : State) (src : AccSrc) (f : Thread → Thread) : State :=
  match src with
  | .device => s
  | .thread t =>
    s.modWarp t.warp fun w =>
      { w with lanes := tbModify w.lanes t.lane f, shadow := w.shadow.map fun sh => tbModify sh t.lane f }.regroup

/-! ### Record and replay (R330 to R339) -/

/-- A log descriptor's base (Table 16-5). -/
def Part.logBase (q : Part) (reg : Nat) : Nat := natBits (smGet 0 q.regs reg) 63 0
/-- A log descriptor's capacity. -/
def Part.logCap (q : Part) (reg : Nat) : Nat := natBits (smGet 0 q.regs reg) 95 64

/-- Append an entry to the order or digest log, or set overflow (R331). -/
def State.appendLog (s : State) (p launch reg count size : Nat) (bs : List Byte) : State :=
  let q := s.part p
  let base := q.logBase reg
  let prio := (s.launch p launch).hdr.prio
  if q.logCap reg = 0 then s
  else if q.logCap reg ≤ count then s.devWrite p (.bytes (base + 8) (natBytes 4 1) prio)
  else (s.devWrite p (.bytes (base + 64 + size * count) bs prio)).devWrite p (.bytes base (natBytes 8 (count + 1)) prio)

/-- An order-log chunk (Table 16-7). -/
def chunkBytes (va launch flags seq : Nat) (pairs : List (Nat × Nat)) : List Byte :=
  natBytes 8 va ++ natBytes 2 launch ++ natBytes 1 pairs.length ++ natBytes 1 flags ++ natBytes 4 seq ++
  ((natsFrom 0 12).map fun i => (pairs[i]?).getD (0, 0)).flatMap fun g => natBytes 2 g.1 ++ natBytes 2 g.2

/-- Write a chunk to the order log. -/
def State.writeChunk (s : State) (p launch va : Nat) (c : Chunk) : State :=
  let n := (s.part p).orderCount
  let s1 := s.appendLog p launch 6 n 64 (chunkBytes va launch 0 c.seq c.pairs)
  if n < (s.part p).logCap 6 then s1.modPart p fun q => { q with orderCount := n + 1, orderOf := q.orderOf ++ [launch] } else s1

/-- Log an atomic of a RECORD gang on its word (R330, R332). -/
def State.record (s : State) (g : GangId) (va : Nat) : State :=
  let w := va - va % 8
  let l := s.launch g.part g.launch
  let put := fun (s : State) (c : Chunk) => s.modLaunch g.part g.launch fun l => { l with chunks := tbSet l.chunks w c }
  match tbGet l.chunks w with
  | none => put s ⟨0, [(g.gang, 1)]⟩
  | some c =>
    match c.pairs.getLast? with
    | none => put s ⟨c.seq, [(g.gang, 1)]⟩
    | some (lg, run) =>
      if lg = g.gang ∧ run < 65535 then put s ⟨c.seq, c.pairs.dropLast ++ [(lg, run + 1)]⟩
      else if c.pairs.length < 12 then put s ⟨c.seq, c.pairs ++ [(g.gang, 1)]⟩
      else put (s.writeChunk g.part g.launch w c) ⟨c.seq + 1, [(g.gang, 1)]⟩

/-- A gang's digest now (R333). -/
def State.digestOf (s : State) (g : GangId) : Nat :=
  sumNat ((s.threadsOf g).map fun t => (s.thread t).digest.toNat) % 2 ^ 32

/-- Mark a REPLAY gang divergent and log it (R339). -/
def State.markDivergent (s : State) (g : GangId) : State :=
  let l := s.launch g.part g.launch
  let s1 := s.modLaunch g.part g.launch fun l => { l with divergent := nsInsert l.divergent g.gang }
  s1.log g.part { event := 2, kind := 0x16, launch := g.launch, gang := g.gang, info := s.digestOf g, addr := (tbGet l.digests g.gang).getD 0 }

/-- The list of a gated word. -/
def State.gateList (s : State) (g : GangId) (va : Nat) : List (Nat × Nat) :=
  (tbGet (s.launch g.part g.launch).lists (va - va % 8)).getD []

/-- Replace the list of a gated word. -/
def State.setGateList (s : State) (g : GangId) (va : Nat) (l : List (Nat × Nat)) : State :=
  s.modLaunch g.part g.launch fun x => { x with lists := tbSet x.lists (va - va % 8) l }

/-- The access meets a gate (R337): an atomic of a launch's gang on a recorded page of a REPLAY partition. -/
def State.gated (s : State) (a : Access) : Bool :=
  (s.part a.gang.part).mode == 3 && !a.gang.isRoot && a.recorded &&
    (match a.op with
     | .atom _ _ _ _ _ => true
     | .cas _ _ _ _ => true
     | _ => false)

/-! ### What a load learns (R200, R201) -/

/-- A thread learns from a load: of an uncommitted span for as long as that stands, of a committed one for good (R83, R197). -/
def Thread.learnFrom (t : Thread) (committed : Bool) (d : Sync) : Thread :=
  if committed then
    let e := { d with races := [] }
    { t with sync := t.sync.add e, undo := { t.undo with sync := t.undo.sync.add e } }
  else { t with sync := t.sync.add d }

/-- A release behind an acquire covers what that has learned (R200). -/
def Access.learn (a : Access) (ks : List Known) : Access :=
  { a with told := a.told.map fun r => if some r.scope = a.release then { r with knows := joinKnown r.knows ks } else r }

/-- A load of a thread has returned: what it learned goes to the thread, and to its releases that wait behind it. -/
def State.loadLearns (s : State) (t : ThreadId) (id : Nat) (d : Sync) : State :=
  if d = Sync.start [] then s
  else
    let committed := (s.thread t).pends.any fun p => p.id == id && p.committed
    let s1 := s.give (.thread t) fun th => th.learnFrom committed d
    { s1 with raced := if committed then d.races.foldl nsInsert s1.raced else s1.raced
              coreQ := s1.coreQ.map fun b => if b.src = .thread t ∧ id < b.id then b.learn d.knows else b }

/-! ### Performing -/

/-- What an ATOM or CAS of a thread learns from the value it takes, and its place in its scope's sequencer (R200, R202). -/
def State.atomicLearns (s : State) (a : Access) : State :=
  match a.src.thread? with
  | some t =>
    if a.snap ∨ a.isRed then s
    else
      let (s1, d) := s.takeFrom t a.id a.key a.size a.acquire (s.tops a.key a.size) (s.newRaces t a.key a.size a.acquire)
      let s2 := s1.noteSync t d
      if a.sc then s2.sequence t (a.acquire.getD 5) else s2
  | none => s

/-- An atomic at its home (R137, R326, R330). -/
def State.performAtomic (s : State) (a : Access) : State :=
  let bs := s.homeBytes a
  let old := natOfBytes (bs.map PByte.v)
  let oldP := anyPoison bs
  let s0 := s.atomicLearns a
  let (s1, wrote) :=
    match atomApply a.op old oldP with
    | some (v, p) => (s0.homeWrite a ((natBytes a.size v).map fun b => ⟨b, p⟩) false, true)
    | none => (if isForeign a.key then s0.countError else s0, false)
  let s2 := if a.snap then s1.modGang a.gang fun g => { g with atoms := g.atoms ++ [⟨a.va, a.size, a.op, wrote⟩] } else s1
  let s3 := if (s.part a.gang.part).mode = 2 ∧ !a.gang.isRoot ∧ a.recorded then s2.record a.gang a.va else s2
  (s3.countPoison a.gang.part bs).give a.src fun t => t.atomDone a.id old oldP

/-- A load at its home: what it takes, and what its thread learns (R132, R201); a MERGE gang's view has no history of its own. -/
def State.performLoad (s : State) (a : Access) (fwd : List (Nat × PByte)) : State :=
  let bs0 := s.homeBytes a
  let (s0, bs, d) :=
    match a.src.thread? with
    | some t => if a.snap then (s, bs0, Sync.start []) else s.lookAt t a.id a.key a.acquire bs0
    | none => (s, bs0, Sync.start [])
  let s1 := (if isForeign a.key then s0.countError else s0).countPoison a.gang.part bs
  let s2 := s1.give a.src fun t => t.loadDone a.id a.size (applyForward bs fwd)
  match a.src.thread? with
  | some t => s2.loadLearns t a.id d
  | none => s2

/-- An access is performed at its home (R198); of one the crossbar discards, a read returns poison and nothing is written (R341). -/
def State.performOp (s : State) (a : Access) : State :=
  let s := s.countLines a.gang.part a.key a.size
  let die := coreOfKey a.key / 64
  let region := a.region.getD 16
  match a.op with
  | .load fwd => s.performLoad a fwd
  | .store bs => s.homeWrite a bs true
  | .storeJoin bs =>
    if isForeign a.key then s.countError
    else s.joinAt a.gang.part region a.va a.key die (natOfBytes (bs.map PByte.v)) (anyPoison bs) false (a.writer s.nextId)
  | .atom _ _ _ _ _ => s.performAtomic a
  | .cas _ _ _ _ => s.performAtomic a
  | .join v => if isForeign a.key then s.countError else s.joinAt a.gang.part region a.va a.key die v false false (a.writer s.nextId)
  | .jinc n at_ =>
    if isForeign a.key then s.countError
    else s.updateCell a.gang.part region a.va a.key at_ (jincCell at_ (s.readNat a.key 16) n) false false (a.writer s.nextId)

/-- Take an access out of the queues. -/
def State.unqueue (s : State) (id : Nat) : State :=
  { s with coreQ := s.coreQ.filter fun a => a.id != id
           dieQ := s.dieQ.filter fun a => a.id != id
           gateQ := s.gateQ.filter fun a => a.id != id }

/-- Perform an access and take it out of its queue. -/
def State.performNow (s : State) (a : Access) : State := (s.unqueue a.id).performOp a

/-- Take one count from a gated word's first pair. -/
def takeRun : List (Nat × Nat) → List (Nat × Nat)
  | [] => []
  | (g, n) :: rest => if n ≤ 1 then rest else (g, n - 1) :: rest

/-- The held access the gate of a word admits now, oldest first. -/
def State.nextHeld (s : State) (g : GangId) (va : Nat) : Option Access :=
  firstWhere (fun a => a.gang.part == g.part && a.gang.launch == g.launch && a.va - a.va % 8 == va - va % 8 &&
    (match s.gateList g va with
     | [] => true
     | (h, _) :: _ => h == a.gang.gang)) s.gateQ

/-- Admit an access at its gate, then those held that the list now names (R337). -/
def State.letIn (s : State) (a : Access) : Nat → State
  | 0 => s
  | n + 1 =>
    let s1 :=
      match s.gateList a.gang a.va with
      | [] => s.markDivergent a.gang
      | l => s.setGateList a.gang a.va (takeRun l)
    let s2 := s1.performNow a
    match s2.nextHeld a.gang a.va with
    | some b => s2.letIn b n
    | none => s2

/-- An access arrives at its home: performed, or held at a gate (R337). -/
def State.arrive (s : State) (a : Access) : State :=
  if s.gated a then
    match s.gateList a.gang a.va with
    | [] => s.letIn a (s.gateQ.length + 1)
    | (h, _) :: _ =>
      if h = a.gang.gang then s.letIn a (s.gateQ.length + 1)
      else { s.unqueue a.id with gateQ := s.gateQ ++ [{ a with heldSince := s.clk }] }
  else s.performNow a

/-- The slices of an access to a remote home. -/
def State.accessSlices (s : State) (a : Access) : List Slice :=
  s.slicesVia a.route (.access a.id) a.key a.size (s.header a.gang).prio

/-! ### Order (R202, R214) -/

/-- The hash lane of a key in a partition (R221). -/
def State.laneOf (s : State) (p key : Nat) : Nat := hashLane (physOf (s.part p).ports key)

/-- Two accesses of one source to one home, one of them a RED: they are performed in issue order (R137). -/
def redOrder (a b : Access) : Bool := (a.isRed || b.isRed) && a.src == b.src && homeOf a.key == homeOf b.key

/-- Every access on its way. -/
def State.inFlight (s : State) : List Access := s.coreQ ++ s.dieQ ++ s.gateQ

/-- An access of these numbers is still on its way. -/
def anyOf (q : List Access) (ids : List Nat) : Bool := q.any fun a => ids.contains a.id

/-- Two keys lie in one 64-byte line. -/
def sameLine (a b : Nat) : Bool := a / 64 == b / 64

/-- An atomic on a gated word with nothing of its thread before it on its line: it comes to the gate itself, past what a gate holds of
its core's other threads (R337; log entry 21). -/
def State.meetsGate (s : State) (a : Access) : Bool :=
  s.gated a && !(s.inFlight.any fun b => b.src == a.src && sameLine b.key a.key && decide (b.id < a.id))

/-- A held access of the core's queue stands before this one on its line (R214, R337). -/
def State.behindGate (s : State) (a : Access) : Bool :=
  (s.gateQ.any fun b => b.core == a.core && sameLine b.key a.key && decide (b.place < a.place)) && !s.meetsGate a

/-- Writes that a release at a scope waits for have not come as far as the scope asks (Table 10-2). An access a gate holds back has not
passed for the gang (log entry 15). -/
def State.releaseHeld (s : State) (scope : Nat) (before : Access → Bool) : Bool :=
  let mine := fun (a : Access) => !a.isLoad && before a
  if scope ≤ 1 then false
  else if scope ≤ 3 then s.gateQ.any mine || s.coreQ.any mine || s.dieQ.any fun a => mine a && s.behindGate a
  else s.inFlight.any mine

/-- A write comes before a release of an access: the thread's own, and those it knew of (R130, R200, R202). -/
def Access.orders (a b : Access) : Bool :=
  decide (b.id < a.id) &&
    (b.src == a.src || a.told.any fun r => some r.scope == a.release && knownTo r.knows b.src.thread? b.id)

/-- The scope at which an access waits as a release: a lattice update's waits for all homes (R248). -/
def Access.waitScope (a : Access) : Option Nat := if a.region.isSome then a.release.map fun _ => 5 else a.release

/-- An access may pass from its core's queue into the die order stage. -/
def State.canStage (s : State) (a : Access) : Bool :=
  !(s.coreQ.any fun b => b.core == a.core && (b.lane == a.lane || redOrder b a) && decide (b.place < a.place)) &&
    !anyOf s.inFlight a.waitPerformed && !a.waitScope.any fun sc => s.releaseHeld sc a.orders

/-- Two accesses of a die's order stage go one way: to one home on one hash lane, of one partition (R214, R349). -/
def samePath (a b : Access) : Bool :=
  a.core / 64 == b.core / 64 && homeOf a.key == homeOf b.key && a.lane == b.lane && a.gang.part == b.gang.part

/-- An access of a die's order stage keeps another, behind it, from its home: on its way there, or, while a gate keeps it, on its line,
but for an atomic that comes to the gate itself (R137, R214, R337). -/
def State.keepsBack (s : State) (b a : Access) : Bool :=
  (samePath b a || redOrder b a) && (!s.behindGate b || (sameLine b.key a.key && !s.meetsGate a))

/-- An access may be performed. -/
def State.canPerform (s : State) (a : Access) : Bool :=
  let ahead := s.dieQ.takeWhile fun b => b.id != a.id
  !(ahead.any fun b => s.keepsBack b a) && !s.behindGate a && !(s.gateQ.any fun b => redOrder b a && decide (b.id < a.id))

/-- One access, which a gate keeps from its home, keeps another: on its line or by the order of REDs, as one it waits for, as a write its
release waits for, or by standing before it in a queue (R130, R137, R214, R337). -/
def State.keepsOff (s : State) (b a : Access) : Bool :=
  let at_ := fun (q : List Access) (x : Access) => q.any fun y => y.id == x.id
  let inCore := at_ s.coreQ a
  (at_ s.gateQ b && ((b.core == a.core && sameLine b.key a.key && decide (b.place < a.place) && !s.meetsGate a) ||
      (redOrder b a && decide (b.id < a.id)))) ||
    (inCore && (a.waitPerformed.contains b.id || (!b.isLoad && a.orders b && a.waitScope.any fun sc => s.releaseHeld sc fun x => x.id == b.id))) ||
    (inCore && at_ s.coreQ b && b.core == a.core && (b.lane == a.lane || redOrder b a) && decide (b.place < a.place)) ||
    ((s.dieQ.takeWhile fun x => x.id != a.id).any (fun x => x.id == b.id) && at_ s.dieQ a && s.keepsBack b a)

/-- The accesses that gates keep from their homes, those found so far among them. -/
def State.keptFrom (s : State) : Nat → List Access → List Access
  | 0, kept => kept
  | n + 1, kept =>
    let more := (s.coreQ ++ s.dieQ).filter fun a => !(kept.any fun b => b.id == a.id) && kept.any fun b => s.keepsOff b a
    if more.isEmpty then kept else s.keptFrom n (kept ++ more)

/-- Every access that can go on only once a gate admits one it holds: those it holds, and those that wait behind them (R337, R338). -/
def State.gateKept (s : State) : List Access :=
  if s.gateQ.isEmpty then [] else s.keptFrom (s.coreQ.length + s.dieQ.length) s.gateQ

/-- The next stage of an access, where its order allows it (MEMORY_ACCESS_PERFORM). -/
def State.stepAccess (s : State) (id : Nat) : State :=
  match firstWhere (fun a => a.id == id) s.coreQ with
  | some a =>
    if s.canStage a then { s with coreQ := s.coreQ.filter (fun b => b.id != id), dieQ := s.dieQ ++ [a] } else s
  | none =>
    match firstWhere (fun a => a.id == id) s.dieQ with
    | some a =>
      if s.canPerform a then
        (match s.takeSlices a.gang.part (s.accessSlices a) with
         | (s1, true) => s1.arrive a
         | (s1, false) => s1)
      else s
    | none => s

/-- Drop accesses that a rollback or an end of their threads withdraws. -/
def State.dropAccesses (s : State) (ids : List Nat) : State :=
  { s with coreQ := s.coreQ.filter fun a => !ids.contains a.id
           dieQ := s.dieQ.filter fun a => !ids.contains a.id
           gateQ := s.gateQ.filter fun a => !ids.contains a.id }

/-- The accesses of a thread on their way. -/
def State.accessesOf (s : State) (t : ThreadId) : List Access := s.inFlight.filter fun a => a.src == .thread t

/-- A release of a thread at a scope still waits: for its own writes, and for those it knows of (R147, R152, R200, R202). -/
def State.releasing (s : State) (t : ThreadId) (scope : Nat) : Bool :=
  s.releaseHeld scope fun a => a.src == .thread t || knownTo (s.thread t).sync.knows a.src.thread? a.id

/-- An acquire fence still waits for the thread's loads (R147). -/
def State.acquiring (s : State) (t : ThreadId) : Bool := (s.accessesOf t).any Access.isLoad

/-- Every store ahead in the core's queue, for a releasing lattice update (R248). -/
def State.coreStores (s : State) (t : ThreadId) : List Nat :=
  let core := s.coreOf t.warp
  (s.inFlight.filter fun a => a.core == core && !a.isLoad).map Access.id

/-- An earlier access of the thread to these bytes is still on its way (R203). -/
def State.linePending (s : State) (t : ThreadId) (key n : Nat) : Bool :=
  (s.accessesOf t).any fun a => decide (a.key < key + n) && decide (key < a.key + a.size)

/-- The acquires of a thread that later accesses wait for (R130). -/
def State.acquireWaits (s : State) (t : ThreadId) : List Nat :=
  ((s.accessesOf t).filter fun a => a.acquire.isSome).map Access.id

/-- An access came to its paths before a lane that acts at its step: before the lane's place there. -/
def Thread.before (t : Thread) (a : Access) : Bool :=
  match t.arrived with
  | none => true
  | some n => decide (a.place < n)

/-- The 64-byte lines of n bytes from a key, by their first keys. -/
def lines64 (key n : Nat) : List Nat := (natsFrom 0 ((key % 64 + n + 63) / 64)).map fun i => key - key % 64 + 64 * i

/-- Accesses stand before a request of a core's partition to lines of homes: in its core's queue on their hash lanes, in its die's order
stage on the way to those homes, at a gate; of what a gate keeps back, those on the lines themselves (R214, R337). -/
def State.pathBusy (s : State) (p core : Nat) (first : Access → Bool) (lines : List Nat) : Bool :=
  let sameLane := fun (a : Access) => lines.any fun k => a.lane == s.laneOf p k
  let sameWay := fun (a : Access) => lines.any fun k => a.lane == s.laneOf p k && homeOf a.key == homeOf k
  let onLine := fun (a : Access) => lines.contains (a.key - a.key % 64)
  let counts := fun (a : Access) (way : Access → Bool) => first a && a.gang.part == p && (if s.behindGate a then onLine a else way a)
  (s.coreQ.any fun a => a.core == core && counts a sameLane) || (s.dieQ.any fun a => a.core / 64 == core / 64 && counts a sameWay) ||
    s.gateQ.any fun a => a.core == core && onLine a

/-- A RED of the thread to the home of a key is on its way (R137). -/
def State.redPending (s : State) (t : ThreadId) (key : Nat) : Bool :=
  (s.accessesOf t).any fun a => a.isRed && homeOf a.key == homeOf key

/-- An instruction of a lane that acts at its step still waits: for its acquires, for its own accesses to these bytes and its REDs to their
home, and for what stands before it on its way (R130, R137, R203, R214). -/
def State.stepWaits (s : State) (t : ThreadId) (key n : Nat) : Bool :=
  s.acquireWaits t != [] || s.linePending t key n || s.redPending t key ||
    s.pathBusy t.gang.part (s.coreOf t.warp) (s.thread t).before (lines64 key n)

/-- An access to be sent. -/
structure Req where
  va : Nat
  key : Nat
  size : Nat
  op : AccOp
  acquire : Option Nat := none
  release : Option Nat := none
  sc : Bool := false
  snap : Bool := false
  recorded : Bool := false
  region : Option Nat := none
  waits : List Nat := []
deriving DecidableEq, Repr

/-- The access of a thread a request makes: its number is the next one (R197, R199). -/
def State.accessOf (s : State) (t : ThreadId) (r : Req) : Access :=
  let a : Access :=
    { id := s.nextId, place := s.nextId, src := .thread t, gang := t.gang, core := s.coreOf t.warp, va := r.va, key := r.key, size := r.size,
      op := r.op, acquire := r.acquire, release := r.release, sc := r.sc, told := [], scAfter := none, lane := s.laneOf t.gang.part r.key, route := s.routeTo r.key,
      snap := r.snap, recorded := r.recorded, region := r.region, waitPerformed := r.waits ++ s.acquireWaits t, heldSince := s.clk }
  if a.isLoad then a else { a with told := s.tells t r.release s.nextId }

/-- Send an access of a thread into its core's ordered request queue. -/
def State.send (s : State) (t : ThreadId) (r : Req) : State := { s with coreQ := s.coreQ ++ [s.accessOf t r], nextId := s.nextId + 1 }

end Sys2Proof.Machine
end

