-- ==== Sys2Proof/Machine/Span.lean ====
section
/-! DEFINITION. Spans: forming a group, the undo record, rollback, commit, the scoreboard and the lookahead windows
(spec/01 R13; spec/02 R45; spec/05 R79 to R84; spec/16 R333). -/

namespace Sys2Proof

/-! ### Registers an instruction names -/

/-- The registers of a field. DESIGN CHOICE: g0, and the zero pair or quad, which no write changes, is none of them: it stands in no window
and on no scoreboard (log entry 72). -/
def Use.regs (u : Use) (i : RegIdx) : List Nat :=
  if i = 0 then []
  else
    match u with
    | .reg => [i.toNat]
    | .pair => [i.toNat, i.toNat + 1]
    | .quad => Machine.natsFrom i.toNat 4
    | .run n => Machine.natsFrom i.toNat n
    | _ => []

/-- The predicate of a field. -/
def Use.preds (u : Use) (i : RegIdx) : List Nat :=
  match u with
  | .pred => preds7 (predNum i)
  | .selPred => preds7 (predNum i)
  | _ => []

/-- The registers an instruction writes. -/
def Instr.writesRegs (i : Instr) : List Nat :=
  let f := i.form
  let x := i.ext
  match i with
  | .sealExt _ => []
  | .sealBase _ _ => []
  | _ => Use.regs f.d x.d ++ (if f.writesC then Use.regs f.c x.c else [])

/-- The predicates an instruction writes. -/
def Instr.writesPreds (i : Instr) : List Nat :=
  let f := i.form
  let x := i.ext
  f.predWrites ++ Use.preds f.d x.d ++ (if f.writesC then Use.preds f.c x.c else [])

/-- Every register an instruction names. -/
def Instr.namesRegs (i : Instr) : List Nat :=
  let f := i.form
  let x := i.ext
  match i with
  | .sealExt _ => []
  | .sealBase _ _ => []
  | _ => Use.regs f.d x.d ++ Use.regs f.a x.a ++ Use.regs f.b x.b ++ Use.regs f.c x.c

/-- Every predicate an instruction names, its guard included. -/
def Instr.namesPreds (i : Instr) : List Nat :=
  let f := i.form
  let x := i.ext
  f.predWrites ++ f.predReads ++ Use.preds f.d x.d ++ Use.preds f.a x.a ++ Use.preds f.b x.b ++ Use.preds f.c x.c ++
    [x.guard.toNat % 8]

end Sys2Proof

namespace Sys2Proof.Machine

/-- A pending result whose window is closed holds a register or predicate the lists name (R45). -/
def Thread.busy (t : Thread) (regs preds : List Nat) : Bool :=
  t.pends.any fun p => p.window == 0 && ((p.regs.any fun r => regs.contains r) || (p.preds.any fun r => preds.contains r))

/-! ### Groups -/

/-- A thread at the start of a span of a number: its temporaries are zero and its undo record is taken (R13, R83). -/
def Thread.enterSpan (t : Thread) (no : Nat) : Thread :=
  let regs := smFilter (fun r => decide (r < 496)) t.regs
  { t with regs := regs, undo := ⟨regs, t.preds, t.fflags, t.wd, t.sync⟩, stores := [], flt := none, kinds := 0, span := no }

/-- The lanes that are ready. -/
def Warp.readyLanes (w : Warp) : List Nat := (w.lanes.filter fun l => l.2.wait == .ready).map Prod.fst

/-- The ready lanes at a PC, ascending. -/
def Warp.lanesAt (w : Warp) (pc : Dword) : List Nat :=
  (natsFrom 0 32).filter fun l => (w.thread l).wait == .ready && (w.thread l).pc == pc && (tbGet w.lanes l).isSome

/-- The shadow of a paired warp stands where its leader stands: boundary instructions, commits and rollbacks reach both (R307, R308). -/
def Warp.syncShadow (w : Warp) : Warp :=
  { w with shadow := w.shadow.map fun _ => w.lanes, shadowMasks := if w.shadow.isSome then w.masks else [] }

/-- The entry is of a boundary instruction (R128). -/
def LogEntry.boundary (e : LogEntry) : Bool := e.index == 0

/-- Form the issue group at a PC (R80); a paired warp's shadow takes its leader's state (R308). -/
def State.formGroup (s : State) (id : WarpId) (pc : Dword) : State :=
  let w := s.warp id
  let lanes := w.lanesAt pc
  let w1 := lanes.foldl (fun acc l => acc.setThread l ((acc.thread l).enterSpan s.nextId)) w
  { s with nextId := s.nextId + 1 }.setWarp id
    { w1.syncShadow with
        cur := some { lanes := lanes, entry := pc, pc := pc, count := 0, phase := .run, windows := [], held := none, overrun := none, passed := 0 }
        log := w1.log.filter LogEntry.boundary }

/-! ### Rollback -/

/-- The effect of a rollback on a thread (Table 5-2). -/
def Thread.rollback (t : Thread) (entry : Dword) : Thread :=
  { t with pc := entry, regs := t.undo.regs, preds := t.undo.preds, fflags := t.undo.fflags, wd := t.undo.wd, sync := t.undo.sync, stores := [],
           pends := t.pends.filter Pend.committed, flt := none, kinds := 0 }

/-- The loads a rollback withdraws. -/
def Warp.openLoads (w : Warp) : List Nat :=
  match w.cur with
  | none => []
  | some g => g.lanes.flatMap fun l => ((w.thread l).pends.filter fun p => !p.committed).map Pend.id

/-- The lanes of the current group at its span entry. -/
def Warp.rollbackLanes (w : Warp) (g : Issue) : Warp :=
  let w1 := g.lanes.foldl (fun acc l => acc.setThread l ((acc.thread l).rollback g.entry)) w
  { w1.syncShadow with log := w.log.filter LogEntry.boundary }

/-- An unsealed span is open in the warp. -/
def Warp.spanOpen (w : Warp) : Option Issue :=
  match w.cur with
  | none => none
  | some g => if g.phase = .sealed then none else some g

/-- The loads of an open span are withdrawn: they have been no reads (R83, R197). -/
def State.dropLoads (s : State) (id : WarpId) : State := (s.dropAccesses (s.warp id).openLoads).unread (s.warp id).openLoads

/-- Roll the span of a warp back; its group is no more (R83). -/
def State.rollbackWarp (s : State) (id : WarpId) : State :=
  let w := s.warp id
  match w.spanOpen with
  | none => s.setWarp id { w.syncShadow with cur := none }
  | some g => (s.dropLoads id).setWarp id { w.rollbackLanes g with cur := none }

/-- Roll the span back and stand at its entry in another phase, for the slow gear (R293, R310). -/
def State.restartSpan (s : State) (id : WarpId) (phase : Phase) : State :=
  let w := s.warp id
  match w.cur with
  | none => s
  | some g =>
    let w1 := w.rollbackLanes g
    let w2 := (g.lanes.foldl (fun acc l => acc.setThread l { acc.thread l with stores := [] }) w1).syncShadow
    (s.dropLoads id).setWarp id
      { w2 with cur := some { g with pc := g.entry, count := 0, phase := phase, windows := [], held := none, overrun := none, passed := 0 } }

/-! ### Commit -/

/-- The pieces of a store for the digest (R333). -/
def digestPieces (va : Nat) (bs : List PByte) : List (Nat × Nat) :=
  if bs.length ≤ 4 then [(va, natOfBytes (bs.map PByte.v))]
  else (natsFrom 0 (bs.length / 4)).map fun i => (va + 4 * i, natOfBytes (((bs.drop (4 * i)).take 4).map PByte.v))

/-- h after a store (R333). -/
def digestStore (h : Word) (st : StoreRec) : Word :=
  (digestPieces st.va st.bytes).foldl (fun h p => h * 33 + (BitVec.ofNat 32 p.1 ^^^ BitVec.ofNat 32 p.2)) h

/-- The stores of a group in release order: by position, then by lane (R32, R82). -/
def Warp.releaseOrder (w : Warp) (lanes : List Nat) : List (Nat × StoreRec) :=
  (natsFrom 1 24).flatMap fun i => lanes.flatMap fun l =>
    ((w.thread l).stores.filter fun st => st.index == i).map fun st => (l, st)

/-- The home lies in the gang's own scratch (R283). -/
def State.ownScratch (s : State) (g : GangId) (key : Nat) : Bool :=
  (s.wgsOf g).any fun w => inSlice (s.wg w).core (s.wg w).base (s.header g).scratch key

/-- A gang that acts outside its own allocations is no longer clean (R283). -/
def State.soil (s : State) (g : GangId) (key : Nat) : State :=
  if s.ownScratch g key then s else s.modGang g fun q => { q with clean := false }

/-- Release a store into the core's ordered request queue (R82, R133). -/
def State.releaseStore (s : State) (t : ThreadId) (st : StoreRec) : State :=
  if keyGone ≤ st.key then s.soil t.gang st.key
  else (s.soil t.gang st.key).send t
    { va := st.va, key := st.key, size := st.bytes.length,
      op := if st.region.isSome then .storeJoin st.bytes else .store st.bytes,
      release := st.release, snap := st.snap, region := st.region }

/-- The stores of a thread's span in program order (R333). -/
def Thread.storesInOrder (t : Thread) : List StoreRec := (natsFrom 1 24).flatMap fun i => t.stores.filter fun st => st.index == i

/-- A thread's part in a commit: its results stay pending, its windows close, it stands after the span (R45, R82). -/
def Thread.commit (t : Thread) (pc : Dword) (digests : Bool) : Thread :=
  { t with pc := pc
           digest := if digests then t.storesInOrder.foldl digestStore t.digest else t.digest
           stores := []
           pends := t.pends.map fun p => if p.committed then p else { p with committed := true, sealing := true, window := 0 }
           flt := none
           kinds := 0
           sync := { t.sync with races := [] } }

/-- The bytes on which the loads of a group's span race: they count once it commits (R197, R201). -/
def Warp.racesOf (w : Warp) (lanes : List Nat) : List Nat := lanes.flatMap fun l => (w.thread l).sync.races

/-- The span of a warp commits (SPAN_COMMIT, R82). -/
def State.commitSpan (s : State) (id : WarpId) : State :=
  let w := s.warp id
  match w.cur with
  | none => s
  | some g =>
    let mode := (s.part id.gang.part).mode
    let digests := (mode == 2 || mode == 3) && !id.gang.isRoot
    let s1 := (w.releaseOrder g.lanes).foldl (fun acc e => acc.releaseStore ⟨id, e.1⟩ e.2) s
    let w1 := s1.warp id
    let w2 := g.lanes.foldl (fun acc l => acc.setThread l ((acc.thread l).commit g.pc digests)) w1
    let s2 := { s1 with raced := (w1.racesOf g.lanes).foldl nsInsert s1.raced }
    (s2.count id.gang.part 0x03 1).setWarp id
      { w2.syncShadow with cur := some { g with phase := .sealed, windows := [] }, log := w.log.filter LogEntry.boundary }

/-- Every result the seal waits for has landed in every lane (R82). -/
def Warp.landed (w : Warp) (lanes : List Nat) : Bool :=
  lanes.all fun l => !(w.thread l).pends.any Pend.sealing

/-- A pending result lands in its registers, and in the undo record of an open span it precedes (R83). -/
def Thread.land (t : Thread) (p : Pend) : Thread :=
  let writes := (p.regs.zip p.words).filter fun w => w.1 != 0
  let t1 := (t.writeRegs writes).writePreds (p.preds.zip p.bits)
  let u := if p.committed then
      let t2 := ({ t with regs := t.undo.regs, preds := t.undo.preds }.writeRegs writes).writePreds (p.preds.zip p.bits)
      { t.undo with regs := t2.regs, preds := t2.preds }
    else t.undo
  { t1 with pends := t.pends.filter (fun q => q.id != p.id), undo := u }

/-- The first result of a thread that may land: returned, its window closed. -/
def Thread.landable (t : Thread) : Option Pend := firstWhere (fun p => p.ready && p.window == 0) t.pends

/-! ### Lookahead windows -/

/-- Every open window moves on by one instruction (R45). -/
def tickWindows (ws : List Window) : List Window :=
  (ws.filter fun w => decide (1 < w.left)).map fun w => { w with left := w.left - 1 }

/-- A thread issues one instruction at a clk: the watchdog counts it, its windows move on (R45, R90, R277). -/
def Thread.issued (t : Thread) (now : Nat) : Thread :=
  { t with wd := t.wd + 1, lastIssue := now, issues := t.issues + 1, stalled := false, pends := t.pends.map fun p => { p with window := p.window - 1 } }

/-- The instruction writes a destination inside an open window (R45). -/
def windowClash (ws : List Window) (i : Instr) : Bool :=
  ws.any fun w => (w.regs.any fun r => i.writesRegs.contains r) || (w.preds.any fun p => i.writesPreds.contains p)

end Sys2Proof.Machine
end

