-- ==== Sys2Proof/Machine/Place.lean ====
section
/-! DEFINITION. What a gang occupies and how it is placed, freed and cancelled (spec/11 R216, R218; spec/13 R265; spec/14 R269,
R270; spec/15 R307). -/

namespace Sys2Proof.Machine

/-- The gang holds cores. -/
def GangState.resident : GangState → Bool
  | .placing => true
  | .running => true
  | .draining => true
  | .saving => true
  | .resuming => true
  | .retiring => true
  | _ => false

/-- Every launched lane of a warp has ended. -/
def Warp.ended (w : Warp) : Bool := w.lanes.all fun l => l.2.wait == .exited

/-- Warps and registers count twice for a paired launch (R307). -/
def Header.copies (h : Header) : Nat := if h.paired then 2 else 1

/-- The warps of a core that still hold their slots and registers (R91). -/
def State.liveWarpsOn (s : State) (core : Nat) : List WarpId :=
  (s.warps.filter fun w => s.coreOf w.1 == core && (s.gang w.1.gang).state.resident && !w.2.ended).map Prod.fst

/-- Warp slots taken on a core. -/
def State.usedSlots (s : State) (core : Nat) : Nat :=
  sumNat ((s.liveWarpsOn core).map fun w => (s.header w.gang).copies)

/-- Registers taken on a core. -/
def State.usedRegs (s : State) (core : Nat) : Nat :=
  sumNat ((s.liveWarpsOn core).map fun w => (s.header w.gang).copies * (s.header w.gang).regs * 32)

/-- Round up to 64 KiB. -/
def align64K (n : Nat) : Nat := ceilDiv n 65536 * 65536

/-- The workgroups on a core whose gangs hold it. -/
def State.wgsOn (s : State) (core : Nat) : List (WgId × Wg) :=
  s.wgs.filter fun w => w.2.core == core && (s.gang w.1.gang).state.resident

/-- The 64 KiB units of a core's slice that are taken, by scratch or by SMAP (R103, R216). -/
def State.usedUnits (s : State) (core : Nat) : List Nat :=
  ((s.wgsOn core).flatMap fun w => natsFrom (w.2.base / 65536) (ceilDiv (s.header w.1.gang).scratch 65536)) ++
  (s.core core).mapped

/-- The lowest run of n free units below a limit, from a candidate on. -/
def freeRun (used : List Nat) (n limit : Nat) : Nat → Nat → Option Nat
  | 0, _ => none
  | fuel + 1, u =>
    if limit < u + n then none
    else if (natsFrom u n).all fun k => !used.contains k then some u
    else freeRun used n limit fuel (u + 1)

/-- The slice base of a new allocation on a core: the lowest that fits below the pool share (R216, R269; log entry 5). -/
def State.freeBase (s : State) (core scratch : Nat) : Option Nat :=
  (freeRun (s.usedUnits core) (ceilDiv scratch 65536) (s.sliceLimit / 65536) 257 0).map fun u => u * 65536

/-- Some lane of a workgroup has not ended. -/
def State.wgLive (s : State) (w : WgId) : Bool := s.warps.any fun v => v.1.wg == w && !v.2.ended

/-- The lowest free workgroup slot of a core (R269). A workgroup whose lanes have all ended holds none: the model's choice, R91 frees
its warp slots and the spec says nothing of this one (log entry 66). -/
def State.freeWgSlot (s : State) (core : Nat) : Nat :=
  ((natsFrom 0 32).filter fun k => !((s.wgsOn core).any fun w => w.2.slot == k && s.wgLive w.1)).headD 0

/-- The core has room for a workgroup of a header (R269). -/
def State.coreFits (s : State) (p core : Nat) (h : Header) : Bool :=
  (s.part p).hasCore core && !(s.die (core / 64)).fenced &&
    decide (s.usedSlots core + h.copies * h.warps ≤ Config.warpSlots) &&
    decide (s.usedRegs core + h.copies * h.regs * 32 * h.warps ≤ Config.coreRegs) &&
    (s.freeBase core h.scratch).isSome

/-- The cores of a rectangle, row-major, by its top-left core (R269). -/
def rectCores (gshape top : Nat) : List Nat :=
  let (r, c) := shapeDims gshape
  (natsFrom 0 (r * c)).map fun m => top + m / c * 8 + m % c

/-- The top-left cores of a die's aligned rectangles, ascending. -/
def alignedTops (gshape die : Nat) : List Nat :=
  let (r, c) := shapeDims gshape
  ((natsFrom 0 64).filter fun k => k / 8 % r == 0 && k % 8 % c == 0).map fun k => 64 * die + k

/-- The rectangle is kept for another gang (R282). -/
def State.reservedFor (s : State) (p : Nat) (g : GangId) (cores : List Nat) : Bool :=
  (s.die ((cores.headD 0) / 64)).reserved.any fun r =>
    r.1 == p && !(r.2.2 == g) && cores.any fun c => r.2.1.contains c

/-- A free aligned rectangle for a gang (R269); a relaunched gang avoids the core its fault arose on (R313). -/
def State.rectFree (s : State) (g : GangId) (h : Header) (top : Nat) : Bool :=
  let cores := rectCores h.gshape top
  (cores.all fun c => s.coreFits g.part c h) && !s.reservedFor g.part g cores

/-- HBM bytes of a partition. -/
def Part.hbmBytes (q : Part) : Nat := ((natsFrom 0 48).filter fun k => natBit q.ports k).length * Config.portBytes

/-- The spill store of a gang (R269). -/
def Header.spillBytes (h : Header) : Nat := h.e1 * h.warps * h.spillw * 129

/-- Bytes of a partition's HBM that are taken: by frames, and by the spill stores of its gangs (R229, R269). -/
def State.hbmTaken (s : State) (p : Nat) : Nat :=
  let spills := sumNat ((tbKeys s.gangs).filterMap fun g =>
    if g.part = p ∧ ((s.gang g).state.resident ∨ (s.gang g).state = .saved) then some (s.header g).spillBytes else none)
  sumNat ((s.part p).frames.map fun f => f.2 * 65536) + spills

/-- The partition's HBM has room for n more bytes (R269). -/
def State.hbmFits (s : State) (p n : Nat) : Bool := decide (s.hbmTaken p + n ≤ (s.part p).hbmBytes)

/-- The partition's HBM has room for a gang's spill store (R269). -/
def State.spillFits (s : State) (p : Nat) (h : Header) : Bool := s.hbmFits p h.spillBytes

/-- The rectangle a distributor takes on a die: the free one of lowest top-left core, off the excluded core if it can; without room
for the gang's spill store none is free (R269). -/
def State.chooseRect (s : State) (g : GangId) (h : Header) (die : Nat) : Option Nat :=
  let free := if s.spillFits g.part h then (alignedTops h.gshape die).filter fun t => s.rectFree g h t else []
  match (s.gang g).excluded with
  | none => free.head?
  | some c =>
    match (free.filter fun t => !(rectCores h.gshape t).contains c).head? with
    | some t => some t
    | none => free.head?

/-- The lanes of a warp as they start (R9); they know what their launch's thread did (R99). -/
def startLanes (h : Header) (warp now : Nat) (knows : List Known) : List (Nat × Thread) :=
  (natsFrom 0 (min 32 (h.e0 - 32 * warp))).map fun l =>
    (l, { Thread.start (BitVec.ofNat 64 h.entry) h.deadline now with sync := .start knows })

/-- A workgroup starts: its allocation is zero-filled, its slots empty, its warps at the entry (R7, R9, R270). -/
def State.startWg (s : State) (w : WgId) (h : Header) (core : Nat) : State :=
  let base := (s.freeBase core h.scratch).getD 0
  let slot := s.freeWgSlot core
  let s1 := s.zeroFill (inSlice core base (align64K h.scratch))
  let s2 := s1.setWg w { Wg.absent with core := core, slot := slot, base := base }
  let knows := (s.launch w.gang.part w.gang.launch).knows
  let lanes := fun (k : Nat) => startLanes h k s.clk knows
  (natsFrom 0 h.warps).foldl
    (fun acc k => acc.setWarp ⟨w, k⟩ { Warp.absent with lanes := lanes k, shadow := if h.paired then some (lanes k) else none }) s2

/-- No rectangle is kept for a gang any longer (R282). -/
def State.unreserve (s : State) (g : GangId) : State :=
  { s with dies := s.dies.map fun d => (d.1, { d.2 with reserved := d.2.reserved.filter fun r => !(r.2.2 == g) }) }

/-- A gang takes its rectangle: every member's allocation is made (PLACING, R269, R270). -/
def State.placeGang (s : State) (g : GangId) (h : Header) (top : Nat) : State :=
  let s1 := s.modGang g fun q =>
    { q with state := .placing, die := top / 64, topCore := top, clean := true }
  let s2 := ((natsFrom 0 h.e1).zip (rectCores h.gshape top)).foldl (fun acc m => acc.startWg ⟨g, m.1⟩ h m.2) s1
  s2.unreserve g

/-! ### Ending -/

/-- The numbers of every pending load of a warp. -/
def Warp.allLoads (w : Warp) : List Nat := w.lanes.flatMap fun l => l.2.pends.map Pend.id

/-- A lane ends: its pending results are dropped unseen (R91). -/
def Thread.exit (t : Thread) : Thread := { t with wait := .exited, pends := [], stores := [], flt := none, kinds := 0 }

/-- Every lane of a gang stops: open spans roll back, pending loads and held accesses are withdrawn (R312). -/
def State.killLanes (s : State) (g : GangId) : State :=
  let s1 := (s.warpsOf g).foldl
    (fun acc w =>
      let a := acc.rollbackWarp w
      let v := a.warp w
      (a.dropAccesses v.allLoads).setWarp w { v.mapThreads (fun _ t => t.exit) with cur := none, log := [] }) s
  { s1 with gateQ := s1.gateQ.filter fun a => !(a.gang == g) }

/-- The command at the head of an MCAST queue came there now, or before (R260). -/
def stampHead (now : Nat) : List Cmd → List Cmd
  | [] => []
  | c :: cs => { c with headAt := if c.headAt = 0 then now else c.headAt } :: cs

/-- Every queued engine command of a gang is cancelled; its posted rounds finish with their results dropped (R265, R312). -/
def State.cancelEngines (s : State) (g : GangId) : State :=
  { s with
      nextId := s.nextId + 1
      cores := s.cores.map fun c =>
      (c.1, { c.2 with copyQ := c.2.copyQ.filter fun x => !(x.wg.gang == g)
                       bulkQ := c.2.bulkQ.filter fun x => !(x.wg.gang == g)
                       mcastQ := stampHead s.nextId (c.2.mcastQ.filter fun x => !(x.wg.gang == g))
                       matQ := c.2.matQ.map fun x => if x.wg.gang = g then { x with dropped := true } else x
                       tracker := c.2.tracker.filter fun x => !(x.2.gang == g) }) }

/-- The slots, tiles and contexts of workgroups are free again (R18). -/
def Core.release (c : Core) (p : WgId → Bool) : Core :=
  { c with
      slots := c.slots.filter fun x => !p x.2.owner
      accs := c.accs.filter fun x => !p x.2.owner
      tiles := c.tiles.filter fun x => !p x.2.owner
      ctxs := c.ctxs.filter fun x => !p x.2.owner }

/-- A workgroup has a posted round. -/
def Core.posted (c : Core) (w : WgId) : Bool := c.matQ.any fun e => e.wg == w

/-- A core without a gang that is given up: the slots of a workgroup with posted rounds stay claimed, under another name, until every one
of these has completed (R170). -/
def Core.giveUp (c : Core) (g : GangId) (n : Nat) : Core :=
  let name := fun (w : WgId) => if w.of g ∧ c.posted w then w.gone n else w
  let c1 : Core :=
    { c with
        slots := c.slots.map fun x => (x.1, { x.2 with owner := name x.2.owner })
        accs := c.accs.map fun x => (x.1, { x.2 with owner := name x.2.owner })
        matQ := c.matQ.map fun e => { e with wg := name e.wg } }
  c1.release fun w => w.of g

/-- The slots of a workgroup that was given up, once its posted rounds have completed (R170). -/
def Core.releaseGone (c : Core) (w : WgId) : Core :=
  if w.member < 16 ∨ c.posted w then c else c.release fun o => o == w

/-- A key lies in a gang's allocations. -/
def State.inGang (s : State) (g : GangId) (key : Nat) : Bool :=
  (s.wgsOf g).any fun w =>
    let x := s.wg w
    if (s.gang g).state = .saved then inHbm (s.part g.part).ports x.base (s.header g).scratch key
    else inSlice x.core x.base (align64K (s.header g).scratch) key

/-- Every access under way to a gang's allocations is performed, those past the order stage first (R217, R218). -/
def State.settleAccesses (s : State) (inside : Nat → Bool) : State :=
  ((s.dieQ ++ s.coreQ).filter fun a => inside a.key).foldl (fun acc a => acc.performNow a) s

/-- Some thread has a store to a set of homes in an open span (R218). -/
def State.storesInto (s : State) (inside : Nat → Bool) : Bool :=
  s.warps.any fun w => w.2.lanes.any fun l => l.2.stores.any fun st => inside st.key

/-- Stores of open spans into a set of homes find them gone. -/
def State.losePlaces (s : State) (inside : Nat → Bool) : State :=
  s.mapThreads fun _ t => { t with stores := t.stores.map fun st => if inside st.key then { st with key := keyGone } else st }

/-- Give a frame back. -/
def State.giveFrame (s : State) (p u : Nat) : State := s.modPart p fun q => { q with frames := q.frames.filter fun f => f.1 != u }

/-- The frames of a saved gang's images are free again. -/
def State.giveImages (s : State) (g : GangId) : State :=
  if (s.gang g).state = .saved then (s.wgsOf g).foldl (fun acc w => acc.giveFrame g.part ((s.wg w).base / 65536)) s else s

/-- A gang's allocations are freed and zero-filled; its threads are gone (R218, R285). -/
def State.freeGang (s : State) (g : GangId) : State :=
  let inside := s.inGang g
  let s0 := ((((s.settleAccesses inside).losePlaces inside).zeroFill inside).giveImages g)
  let s1 := s0.modGang g fun q => { q with cores := [], gated := [], parked := [] }
  { s1 with nextId := s1.nextId + 1
            warps := s1.warps.filter fun w => !(w.1.gang == g)
            wgs := s1.wgs.filter fun w => !(w.1.gang == g)
            cores := s1.cores.map fun c => (c.1, c.2.giveUp g s1.nextId)
            dies := s1.dies.map fun d => (d.1, { d.2 with holding := d.2.holding.filter fun x => !(x.gang == g) }) }

/-- A workgroup whose lanes have all ended gives back its slots, tiles, contexts and rounds, once no command names them and its posted
rounds have completed (R18, R170, R186, R255). -/
def State.wgEnd (s : State) (w : WgId) : State :=
  let ended := s.warps.all fun v => !(v.1.wg == w) || v.2.ended
  let c := s.core (s.wg w).core
  let named := (c.copyQ ++ c.bulkQ ++ c.mcastQ).any (fun x => x.wg == w) || c.posted w
  if ended ∧ !named ∧ (tbGet s.wgs w).isSome then
    (s.modCore (s.wg w).core fun c => c.release fun o => o == w).setWg w { s.wg w with k := [] }
  else s

/-- A CTXSAVE of a gang that a lane waits with is answered (R274). -/
def Thread.ctxWake (t : Thread) (g : GangId) (status : Nat) : Thread :=
  if t.ctx = some (g, none) then { t with ctx := some (g, some status) } else t

/-- Every CTXSAVE that waits for a gang is answered. -/
def State.ctxWake (s : State) (g : GangId) (status : Nat) : State := s.mapThreads fun _ t => t.ctxWake g status

/-- What stays of a gang that is QUEUED again: where it ran, the core to avoid, its clk in RUNNING (R269, R283, R313). -/
def Gang.again (q : Gang) : Gang :=
  { Gang.fresh with excluded := q.excluded, die := q.die, topCore := q.topCore, runClk := q.runClk }

/-- A gang is given up: nothing of its run is left, and it is QUEUED (R273, R285, R329). -/
def State.dropGang (s : State) (g : GangId) : State :=
  let s1 := (((s.killLanes g).cancelEngines g).freeGang g).ctxWake g 2
  let s1 := s1.dropAccesses ((s1.inFlight.filter fun a => a.gang == g && a.snap).map Access.id)
  let s1 := s1.modPart g.part fun q => { q with frames := q.frames.filter fun f => !(s.gang g).copyFrames.contains f.1 }
  s1.setGang g (s.gang g).again

/-- A gang is discarded and returns to QUEUED, ahead of every gang not yet placed, to be run again from its entry (R267, R285). -/
def State.discardGang (s : State) (g : GangId) : State :=
  (s.dropGang g).modLaunch g.part g.launch fun l => { l with redo := nsInsert l.redo g.gang }

/-! ### The end of a gang's lanes (R98, R273) -/

/-- Every lane of a gang has ended or waits at its EXIT. -/
def State.lanesDone (s : State) (g : GangId) : Bool :=
  (s.warpsOf g).all fun w => (s.warp w).lanes.all fun l => l.2.wait == .exited || l.2.wait == .exitWait

/-- Every lane of a gang has ended. -/
def State.lanesEnded (s : State) (g : GangId) : Bool := (s.warpsOf g).all fun w => (s.warp w).ended

/-- A running gang whose lanes are all ended is RETIRING (R273, R280). -/
def State.gangDone (s : State) (g : GangId) : State :=
  if (s.gang g).state = .running ∧ !g.isRoot ∧ s.lanesDone g then s.modGang g fun q => { q with state := .retiring } else s

/-- The launch has gangs the master has not handed out. -/
def Launch.unhanded (l : Launch) : Bool := l.redo != [] || l.again != [] || decide (l.walk < l.hdr.gangs)

/-- Every gang of a launch has been placed and has retired. -/
def State.gangsOver (s : State) (p n : Nat) : Bool :=
  (s.gangsOf p n).all (fun g => (s.gang g).state == .retired) && !(s.launch p n).unhanded &&
    s.dies.all fun d => !d.2.handed.any fun h => h.part == p && h.launch == n

/-- The launch has ended: a fault or a lost die has ended it, or its last gang has retired (R98). -/
def State.launchOver (s : State) (p n : Nat) : Bool := (s.launch p n).ending.isSome || s.gangsOver p n

/-- Forget every translation of a range (R102). -/
def State.flushTlb (s : State) (p : Nat) (hit : TlbEntry → Bool) : State :=
  { s with cores := s.cores.map fun c =>
      (c.1, { c.2 with tlb := c.2.tlb.filter fun t => !(t.part == p && hit t)
                       walkTlb := c.2.walkTlb.filter fun t => !(t.part == p && hit t) }) }

/-- The translation lies in a range of addresses. -/
def tlbIn (va size : Nat) (t : TlbEntry) : Bool := decide (t.va < va + size) && decide (va < t.va + t.size)

/-- Stores still in span store buffers go to a page's new home (R228). -/
def State.rekeyStores (s : State) (p va size : Nat) : State :=
  s.mapThreads fun t th =>
    if t.gang.part = p then
      { th with stores := th.stores.map fun st =>
          if va ≤ st.va ∧ st.va < va + size then
            (match s.walk p st.va with
             | .leaf l =>
               (match s.leafKey p (s.dieOf t.warp) l.entry l.size st.va with
                | some k => { st with key := k }
                | none => st)
             | _ => st)
          else st }
    else th

end Sys2Proof.Machine
end

