-- ==== Sys2Proof/Machine/Contain.lean ====
section
/-! DEFINITION. Gang-level faults and containment: ends, relaunches, replays (spec/05 R98; spec/14 R266; spec/15 R299,
R312 to R316; spec/16 R328, R329, R335, R339). -/

namespace Sys2Proof.Machine

/-- Where a gang-level fault arose: its lane, PC and address for the record (R299), the core, whether it is pinned (R313). -/
structure FaultSite where
  thread : Option ThreadId := none
  pc : Nat := 0
  entry : Nat := 0
  addr : Nat := 0
  info : Nat := 0
  core : Nat := 0
  pinned : Bool := true
deriving DecidableEq, Repr

/-- The debug-log record of a fault of a gang. -/
def FaultSite.record (f : FaultSite) (event kind : Nat) (g : GangId) : LogRec :=
  { event := event, kind := kind, launch := g.launch, gang := g.gang, core := f.core, pc := f.pc, entry := f.entry,
    addr := f.addr, info := f.info, warp := (f.thread.map fun t => t.warp.warp).getD 0,
    lane := (f.thread.map ThreadId.lane).getD 255 }

/-- The lanes of a gang that are outside an open span end at once, the others at their seal (R98). -/
def State.endLanes (s : State) (g : GangId) : State :=
  (s.warpsOf g).foldl
    (fun acc w =>
      let v := acc.warp w
      let inSpan := (v.spanOpen.map Issue.lanes).getD []
      let gone := v.launched.filter fun l => !inSpan.contains l
      let loads := gone.flatMap fun l => (v.thread l).pends.map Pend.id
      (acc.dropAccesses loads).setWarp w
        { v.mapThreads (fun l t => if inSpan.contains l then t else t.exit) with
            cur := if v.spanOpen.isSome then v.cur else none }) s

/-- A gang without lanes that issue is discarded: it is RETIRED at once (R98, R273). -/
def State.scrapGang (s : State) (g : GangId) : State :=
  ((((s.killLanes g).cancelEngines g).freeGang g).ctxWake g 2).modGang g fun q => { q with state := .retired, held := false }

/-- A gang of a launch that ends is discarded: one whose lanes do not issue at once, another at the span boundaries of its lanes, from the
state it is in (R98, R273). -/
def State.endGang (s : State) (g : GangId) : State :=
  match (s.gang g).state with
  | .retired => s
  | .queued => s.modGang g fun q => { q with state := .retired }
  | .placing => s.scrapGang g
  | .saving => s.scrapGang g
  | .saved => s.scrapGang g
  | .resuming => s.scrapGang g
  | _ =>
    let s1 := (s.endLanes g).cancelEngines g
    let s2 := { s1 with gateQ := s1.gateQ.filter fun a => !(a.gang == g) }
    (s2.ctxWake g 2).modGang g fun q => { q with held := false }

/-- A launch ends before its last gang retires; the first such end stands (R98, R316). -/
def State.endLaunch (s : State) (p n status kind die gang : Nat) : State :=
  if (s.launch p n).ending.isSome then s
  else
    let s1 := s.modLaunch p n fun l => { l with ending := some (status, kind, die, gang) }
    (s.gangsOf p n).foldl State.endGang s1

/-- Every lane of a root gang ends (R266). -/
def State.endRoot (s : State) (g : GangId) : State := (s.killLanes g).cancelEngines g

/-- A gang is placed again from its entry, ahead of every unplaced gang; one of a cooperative launch at once (R313). -/
def State.relaunch (s : State) (g : GangId) (kind : Nat) (f : FaultSite) : State :=
  let h := s.header g
  let top := (s.gang g).topCore
  let n := (tbGet (s.launch g.part g.launch).relaunches g.gang).getD 0
  let s1 := (s.log g.part (f.record 3 kind g)).modGang g fun q => { q with excluded := some f.core }
  let s2 := (s1.discardGang g).modLaunch g.part g.launch fun l => { l with relaunches := tbSet l.relaunches g.gang (n + 1) }
  if h.cooperative then
    let s3 := s2.placeGang g h top
    (s3.modGang g fun q => { q with state := .running }).modLaunch g.part g.launch fun l =>
      { l with redo := nsErase l.redo g.gang }
  else s2

/-- Set the void flag of every entry of a launch that a log holds, at its offset in entries of a size (R303, R335). -/
def State.voidEntries (s : State) (p reg size flagAt launch : Nat) (owners : List Nat) : State :=
  let base := (s.part p).logBase reg
  ((natsFrom 0 owners.length).zip owners).foldl
    (fun acc e => if e.2 = launch then acc.devWrite p (.void (base + 64 + size * e.1 + flagAt) (s.launch p launch).hdr.prio) else acc) s

/-- The bytes of a version's frame go back to the page, which kept its place (R315). -/
def State.restoreBytes (s : State) (p : Nat) (v : Version) (l : Leaf) : State :=
  let home := fun (i : Nat) => s.leafKey p 0 l.entry l.size (v.va + i)
  let inside := fun key => (natsFrom 0 v.size).any fun i => home i == some key
  ((s.settleAccesses inside).copyLines p v.size (fun i => hbmKey (s.part p).ports (65536 * v.old + i)) home).giveFrame p v.old

/-- The page of a version takes its shadow version back; the working copy is freed (R315). -/
def State.restoreVersion (s : State) (p : Nat) (v : Version) : State :=
  match s.walk p v.va with
  | .leaf l =>
    if v.copied then s.restoreBytes p v l
    else
      let unit := natBits l.entry 43 16
      let inside := fun key => (natsFrom 0 v.size).any fun i => s.leafKey p 0 l.entry l.size (v.va + i) == some key
      let s1 := (s.settleAccesses inside).setPte p l.place v.entry
      ((s1.flushTlb p (tlbIn v.va v.size)).giveFrame p unit).rekeyStores p v.va v.size
  | _ => s

/-- Every gang of a launch is discarded and its walk starts again (R315, R329, R335, R339). -/
def State.replayLaunch (s : State) (p n : Nat) (f : FaultSite) (kind : Nat) (g : GangId) : State :=
  let s1 := s.log p (f.record 4 kind g)
  let s2 := (s1.gangsOf p n).foldl (fun acc x => if (acc.gang x).state = .queued then acc else acc.discardGang x) s1
  let mine := fun (a : Access) => a.gang.part == p && a.gang.launch == n
  let s3 := ((s2.dieQ ++ s2.coreQ).filter mine).foldl (fun acc a => acc.performNow a) s2
  let s4 := (s3.launch p n).versions.foldl (fun acc v => acc.restoreVersion p v) s3
  let s5 :=
    if (s.part p).mode = 2 then
      (s4.voidEntries p 6 64 11 n (s4.part p).orderOf).voidEntries p 7 16 10 n (s4.part p).digestOf
    else s4
  { s5.modLaunch p n fun l =>
      { l with walk := 0, again := [], redo := [], replays := l.replays + 1, versions := [], chunks := [], lists := l.listsAll,
               divergent := [] } with
    gangs := s5.gangs.map fun x => if x.1.part = p ∧ x.1.launch = n then (x.1, { x.2.again with excluded := none }) else x
    dies := s5.dies.map fun d => (d.1, { d.2 with handed := d.2.handed.filter fun x => !(x.part == p && x.launch == n) }) }

/-- What containment makes of a fault of a gang (Table 15-8). -/
inductive Fate where
  | relaunch
  | replay
  | ends
deriving DecidableEq, Repr

/-- The fate of a gang under containment (R313, R315, Table 15-8); the end of a launch stands (R316). -/
def State.fateOf (s : State) (g : GangId) (kind : Nat) (f : FaultSite) : Fate :=
  let l := s.launch g.part g.launch
  let merge := (s.part g.part).mode == 1
  let pinned := f.pinned && decide ((tbGet l.relaunches g.gang).getD 0 < 2)
  if l.ending.isSome ∨ !(kind == 0x11 || kind == 0x17 || kind == 0x1B) ∨ !(merge || l.hdr.contained) then .ends
  else if pinned ∧ (merge ∨ (s.gang g).clean) then .relaunch
  else if l.replays < 2 then .replay
  else .ends

/-- The fate is carried out. -/
def State.fate (s : State) (g : GangId) (kind : Nat) (f : FaultSite) : State :=
  match s.fateOf g kind f with
  | .relaunch => s.relaunch g kind f
  | .replay => s.replayLaunch g.part g.launch f kind g
  | .ends => s.endLaunch g.part g.launch 4 kind 0 g.gang

/-- Every lane of a gang stops at once, its engine work with them (R312). -/
def State.stopGang (s : State) (g : GangId) : State := (s.killLanes g).cancelEngines g

/-- The gang holds cores or an image: it has lanes to stop (R312). -/
def State.faultable (s : State) (g : GangId) : Bool := (s.gang g).state.resident || (s.gang g).state == .saved

/-- A gang-level fault (R312): it is logged, every lane stops, and containment decides; a root gang's lanes end (R266). -/
def State.gangFault (s : State) (g : GangId) (kind : Nat) (f : FaultSite) : State :=
  let s1 := s.log g.part (f.record 2 kind g)
  if g.isRoot then s1.endRoot g
  else if !s.faultable g then s1
  else (s1.stopGang g).fate g kind f

/-- A fault without a handler, or a second one in-handler, ends the gang unless containment runs it again (R94, R291, R298, R302,
R306). -/
def State.gangEnd (s : State) (g : GangId) (kind : Nat) (inHandler : Bool) (f : FaultSite) : State :=
  if g.isRoot then (s.log g.part (f.record 7 kind g)).endRoot g
  else if inHandler || s.fateOf g kind f == .ends then
    ((s.log g.part (f.record 7 kind g)).stopGang g).endLaunch g.part g.launch 4 kind 0 g.gang
  else (s.stopGang g).fate g kind f

end Sys2Proof.Machine
end

