-- ==== Sys2Proof/Machine/Ops.lean ====
section
/-! DEFINITION. The shared operations of the instructions: taking a fault and returning from one, running a span instruction over
its group, running a boundary instruction lane by lane, sealing a span and the slow gear (spec/05 R79 to R95; spec/15 R289 to
R298, R307 to R310). -/

namespace Sys2Proof.Machine

/-! ### Taking a fault and returning -/

/-- A fault is delivered to a lane (R94, R298): its record is written, it is in-handler and enters the header's handler as a new
span; with no handler, or already in-handler, its gang ends. `here` is the PC of the instruction concerned. -/
def State.takeFault (s : State) (t : ThreadId) (f : FaultInfo) (entry frpc here : Dword) : State :=
  let th := s.thread t
  let handler := (s.header t.gang).handler
  let site : FaultSite :=
    { thread := some t, pc := here.toNat, entry := entry.toNat, addr := f.addr, info := f.info, core := s.coreOf t.warp }
  if th.inHandler then s.gangEnd t.gang f.kind true site
  else if handler = 0 then s.gangEnd t.gang f.kind false site
  else s.setThread t
    { th with
        fr := { kind := BitVec.ofNat 8 f.kind, pc := frpc, entry := entry, lane := BitVec.ofNat 32 t.lane,
                addr := BitVec.ofNat 64 f.addr, info := BitVec.ofNat 32 f.info }
        inHandler := true
        pc := BitVec.ofNat 64 handler
        wait := .ready }

/-- The transfer rules of R87: a poisoned, a non-canonical or a misaligned target. -/
def transferFault (tgt : Nat) (poison : Bool) : Option FaultInfo :=
  if poison then some (consumed 2)
  else if !canonical tgt then some ⟨0x04, tgt, 96⟩
  else if tgt % 4 ≠ 0 then some ⟨0x06, tgt, 96⟩
  else none

/-- Return from a handler (R95): the lane leaves in-handler and stands at %frpc as a new span. -/
def Thread.returnFromFault (t : Thread) : Thread := { t with inHandler := false, pc := t.fr.pc, wait := .ready }

/-- word0 of an instruction, for the records of Table 15-2. -/
def wordZero (i : Instr) : Nat := ((encodeWords i).headD 0).toNat

/-- A fault whose record holds the instruction's address and word0 (Table 15-2). -/
def wordFault (kind : Nat) (i : Instr) (pc : Dword) : FaultInfo := ⟨kind, pc.toNat, wordZero i⟩

/-- A fault whose record holds the instruction's address and a number. -/
def hereFault (kind info : Nat) (pc : Dword) : FaultInfo := ⟨kind, pc.toNat, info⟩

/-! ### Boundary instructions -/

/-- How a lane leaves a boundary instruction: on to the next one, to a target, parked, logged for a page with its address and captured
operands (R128), held alone, held with the lanes above, at a fault with its %frpc, at a fault that leaves the lanes above free to act (R94), at
a poisoned page-table entry, at an address no frame is left for (R229). -/
inductive LaneEnd where
  | go
  | jump (pc : Dword)
  | park (w : Wait)
  | log (va : Nat) (data : List PWord)
  | hold
  | stall
  | fault (f : FaultInfo)
  | trap (f : FaultInfo) (frpc : Dword)
  | deliver (f : FaultInfo) (frpc : Dword)
  | broken
  | exhausted (va : Nat)
deriving DecidableEq, Repr

/-- The lane has issued the instruction. -/
def LaneEnd.performed : LaneEnd → Bool
  | .hold => false
  | .stall => false
  | _ => true

/-- The lanes above perform nothing (R84, R253). -/
def LaneEnd.stops : LaneEnd → Bool
  | .stall => true
  | .fault _ => true
  | .trap _ _ => true
  | .broken => true
  | .exhausted _ => true
  | _ => false

/-- The lane's access is logged. -/
def LaneEnd.isLog : LaneEnd → Bool
  | .log _ _ => true
  | _ => false

/-- The instruction is a guard-true YIELD of the lane (R90). -/
def isYield (i : Instr) (t : Thread) : Bool :=
  match i with
  | .yieldBase _ _ => true
  | .yield x => t.guard x.guard
  | _ => false

/-- The lane's count reaches its deadline where it issues the instruction (R90). -/
def Thread.overdue (t : Thread) (i : Instr) : Bool := decide (t.deadline ≤ t.wd + 1) && !isYield i t

/-- The first of the lanes whose count reaches its deadline where they issue the instruction. -/
def Warp.overrun (w : Warp) (i : Instr) (lanes : List Nat) : Option Nat := firstWhere (fun l => (w.thread l).overdue i) lanes

/-- The group issues nothing: its watchdog fault comes next (R90; log entry 23). -/
def State.markOverrun (s : State) (id : WarpId) (lane : Nat) : State :=
  let w := s.warp id
  match w.cur with
  | none => s
  | some g => s.setWarp id { w with cur := some { g with overrun := some lane } }

/-- What an instruction made of a state, unless its group met a watchdog: then it issued nothing (R90). -/
def State.orOverrun (s r : State) : State :=
  match s.focus with
  | none => r
  | some id =>
    match (r.warp id).cur.bind Issue.overrun with
    | some l => s.markOverrun id l
    | none => r

/-- Run lanes in ascending order until one stops the rest; each lane's end is kept (R84). -/
def runEach (act : State → Nat → State × LaneEnd) : State → List Nat → State × List (Nat × LaneEnd)
  | s, [] => (s, [])
  | s, l :: ls =>
    let (s1, e) := act s l
    if e.stops then (s1, [(l, e)])
    else
      let (s2, es) := runEach act s1 ls
      (s2, (l, e) :: es)

/-- A lane parked at an atomic waits for the lanes of its group. -/
def Wait.withMates (w : Wait) (mates : List Nat) : Wait :=
  match w with
  | .atomic id d wide _ next => .atomic id d wide mates next
  | w => w

/-- Where a lane stands after its end at a clk, under the number of its instruction; lanes that are done wait while a lane of the group is held. -/
def Thread.leave (t : Thread) (e : LaneEnd) (now no : Nat) (mates : List Nat) (here next : Dword) : Thread :=
  let t1 := { t.issued now with arrived := none }
  match e with
  | .go => if mates = [] then { t1 with pc := next } else { t1 with wait := .together mates here next, pc := here }
  | .jump pc => { t1 with pc := pc }
  | .park w => { t1 with wait := w.withMates mates, pc := here }
  | .log _ _ => { t with wait := .logged no mates next, pc := here }
  | .hold => { t with pc := here, stalled := true }
  | .stall => { t with pc := here, stalled := true }
  | _ => { t1 with pc := here }

/-- A fault that ends the run of a boundary instruction is taken (R84). -/
def State.endFault (s : State) (id : WarpId) (here : Dword) (e : Nat × LaneEnd) : State :=
  match e.2 with
  | .fault f => s.takeFault ⟨id, e.1⟩ f here here here
  | .trap f frpc => s.takeFault ⟨id, e.1⟩ f here frpc here
  | .broken => s.gangFault id.gang 0x1B { thread := some ⟨id, e.1⟩, pc := here.toNat, entry := here.toNat, core := s.coreOf id }
  | .exhausted va =>
    s.gangFault id.gang 0x18 { thread := some ⟨id, e.1⟩, pc := here.toNat, entry := here.toNat, addr := va, core := s.coreOf id }
  | _ => s

/-- TRAP and BRK deliver their faults lane by lane while the gang stands (R94). -/
def State.deliverAll (s : State) (id : WarpId) (here : Dword) (ends : List (Nat × LaneEnd)) : State :=
  ends.foldl
    (fun acc e =>
      match e.2 with
      | .deliver f frpc => if (acc.thread ⟨id, e.1⟩).wait = .exited then acc else acc.takeFault ⟨id, e.1⟩ f here frpc here
      | _ => acc) s

/-- An instruction is noted in a workgroup's rate (R283). -/
def Rate.note (r : Rate) (clk : Nat) : Rate :=
  let r := if r.since + 65536 ≤ clk then ⟨clk, [], r.now⟩ else r
  match r.now with
  | (c, n) :: rest => if c = clk then { r with now := (c, n + 1) :: rest } else { r with now := (clk, 1) :: r.now }
  | [] => { r with now := [(clk, 1)] }

/-- A warp issues an instruction: it is counted (R283, R352). -/
def State.countIssue (s : State) (id : WarpId) : State :=
  let s1 := s.count id.gang.part 0x02 1
  { s1 with wgs := tbModify s1.wgs id.wg fun w => { w with rate := w.rate.note s1.clk } }

/-- What the lanes of a boundary instruction come to from a state: those that fall through go on. -/
def State.laneEnds (s : State) (i : Instr) (id : WarpId) (g : Issue) (act : State → ThreadId → Dword → Dword → State × LaneEnd) :
    State × List (Nat × LaneEnd) :=
  runEach
    (fun a l =>
      if (a.thread ⟨id, l⟩).guard i.ext.guard || !i.form.guarded then act a ⟨id, l⟩ g.pc (g.pc + BitVec.ofNat 64 (4 * i.words)) else (a, .go))
    s g.lanes

/-- The log entries of a boundary instruction's lanes (R128). -/
def captured (i : Instr) (no : Nat) (here : Dword) (ends : List (Nat × LaneEnd)) : List LogEntry :=
  ends.filterMap fun e =>
    match e.2 with
    | .log va data => some ⟨e.1, no, 0, here, i, va, data⟩
    | _ => none

/-- A boundary instruction over the focused group (R84): lanes ascending, a guard-false lane falls through, lanes that are not
reached stay at the instruction. `whole` makes the lanes that are done wait for the others (R137). -/
def State.runLanes (s : State) (i : Instr) (whole : Bool) (act : State → ThreadId → Dword → Dword → State × LaneEnd) : State :=
  match s.focus with
  | none => s
  | some id =>
    match (s.warp id).cur with
    | none => s
    | some g =>
      let here := g.pc
      let next := here + BitVec.ofNat 64 (4 * i.words)
      let (s1, ends) := s.laneEnds i id g act
      let held := (ends.filter fun e => !e.2.performed).map Prod.fst
      match (s.warp id).overrun i ((ends.filter fun e => e.2.performed).map Prod.fst) with
      | some l => s.markOverrun id l
      | none =>
      let unreached := g.lanes.filter fun l => (tbGet ends l).isNone
      let faulted := ends.any fun e => e.2.stops && e.2.performed
      let done := (ends.filter fun e => e.2.performed && !e.2.stops).map Prod.fst
      let mates := (if whole then done else []) ++ held ++ (if faulted ∨ held = [] then [] else unreached)
      let w1 := s1.warp id
      let no := s1.nextId
      let logs := captured i no here ends
      let w2 := ends.foldl (fun w e => w.setThread e.1 ((w.thread e.1).leave e.2 s.clk no mates here next)) w1
      let w3 := unreached.foldl (fun w l => w.setThread l { w.thread l with pc := here, stalled := true }) w2
      let s2 := { s1 with nextId := if logs = [] then no else no + 1 }.setWarp id
        { w3.syncShadow with cur := none, log := w3.log.filter LogEntry.boundary ++ logs }
      let s3 := (if ends.any fun e => e.2.performed then s2.countIssue id else s2)
      let s4 := (match ends.getLast? with
        | some e => s3.endFault id here e
        | none => s3)
      (s4.deliverAll id here ends).modWarp id Warp.regroup

/-- Instructions the operand log holds (R128). -/
def Warp.logged (w : Warp) : Nat := (distinct (w.log.map LogEntry.no)).length

/-- A boundary instruction whose lanes the operand log may take (R128): it waits whole to issue while a lane needs a full log. -/
def State.runLogged (s : State) (i : Instr) (whole : Bool) (act : State → ThreadId → Dword → Dword → State × LaneEnd) : State :=
  match s.focus with
  | none => s
  | some id =>
    match (s.warp id).cur with
    | none => s
    | some g =>
      if 4 ≤ (s.warp id).logged ∧ (s.laneEnds i id g act).2.any fun e => e.2.isLog then s.runLanes i whole fun a _ _ _ => (a, .stall)
      else s.runLanes i whole act

/-! ### Span instructions -/

/-- What a lane's part of a span instruction comes to: its fault if it has one, its traps included (R105). -/
def LaneOut.faultIn (o : LaneOut) (t : Thread) : Option FaultInfo :=
  match o.fault with
  | some f => some f
  | none => flagTrap t.fmode o.trap o.flags

/-- A lane that does not fault takes its effects: written at once, or as a pending result inside a lookahead window (R45). -/
def Thread.apply (t : Thread) (o : LaneOut) (id window : Nat) (pc : Dword) : Thread :=
  let t1 := { t with fflags := t.fflags ||| o.flags }
  if window = 0 then (t1.writeRegs o.regs).writePreds o.preds
  else
    let p : Pend :=
      { id := id, pc := pc, regs := o.regs.map Prod.fst, preds := o.preds.map Prod.fst, window := window, committed := false,
        sealing := false, ready := true, signed := false, words := o.regs.map Prod.snd, bits := o.preds.map Prod.snd }
    { t1 with pends := t1.pends ++ [p] }

/-- A fault of the first run is recorded, the earliest of a lane with its record, every one by its kind; its lane's effects are withheld
(R34, R293). -/
def Thread.noteFault (t : Thread) (f : FaultInfo) (index : Nat) (pc : Dword) : Thread :=
  let first := match t.flt with
    | some old => if index < old.index then ⟨index, pc, f.atIndex index⟩ else old
    | none => ⟨index, pc, f.atIndex index⟩
  { t with flt := some first, kinds := t.kinds ||| 2 ^ f.kind }

/-- The lanes of a table take a span instruction; sources are read from the table as it stood (R32). -/
def lanesApply (lanes : List (Nat × Thread)) (g : Issue) (guard : BitVec 4) (f : Nat → LaneOut) (now id window : Nat) :
    List (Nat × Thread) :=
  lanes.map fun l =>
    if g.lanes.contains l.1 then
      let t := l.2.issued now
      if l.2.guard guard then
        let o := f l.1
        match o.faultIn l.2 with
        | some e => (l.1, t.noteFault e (g.count + 1) g.pc)
        | none => (l.1, t.apply o id window g.pc)
      else (l.1, t)
    else l

/-- The first lane of a group that faults, ascending. -/
def firstFault (w : Warp) (g : Issue) (guard : BitVec 4) (f : Nat → LaneOut) : Option (Nat × FaultInfo) :=
  (g.lanes.filterMap fun l =>
    if (w.thread l).guard guard then ((f l).faultIn (w.thread l)).map fun e => (l, e.atIndex (g.count + 1)) else none).head?

/-- The group moves on past a span instruction. -/
def Issue.advance (g : Issue) (i : Instr) : Issue :=
  let la := i.ext.la.toNat
  { g with pc := g.pc + BitVec.ofNat 64 (4 * i.words)
           count := g.count + 1
           held := none
           passed := 0
           windows := tickWindows g.windows ++ (if la = 0 then [] else [⟨la, i.writesRegs, i.writesPreds⟩]) }

/-- The slow gear has found its fault: nothing further of the span runs (R295, R296). -/
def Phase.find (p : Phase) (found : Nat × FaultInfo) : Phase :=
  match p with
  | .slow retry sum lane first none => .slow retry sum lane first (some found)
  | p => p

/-- The phase is the slow gear's. -/
def Phase.isSlow : Phase → Bool
  | .slow _ _ _ _ _ => true
  | _ => false

/-- A span instruction over the focused group (R32, R34, R79, R295, R308). -/
def State.runSpan (s : State) (i : Instr) (f : Warp → Issue → Nat → LaneOut) : State :=
  match s.focus with
  | none => s
  | some id =>
    let w := s.warp id
    match w.cur with
    | none => s
    | some g =>
      let guard := i.ext.guard
      let window := i.ext.la.toNat
      match w.overrun i g.lanes with
      | some l => s.markOverrun id l
      | none =>
      let both := fun (h : Issue) (cur : Issue) =>
        { w with lanes := lanesApply w.lanes h guard (f w g) s.clk s.nextId window, cur := some cur,
                 shadow := w.shadow.map fun sh => lanesApply sh h guard (f { w with lanes := sh } g) s.clk s.nextId window }
      let s0 := { s.countIssue id with nextId := s.nextId + 1 }
      match (if g.phase.isSlow then firstFault w g guard (f w g) else none) with
      | some found => s0.setWarp id (both { g with lanes := g.lanes.filter fun l => decide (l ≤ found.1) } { g with phase := g.phase.find found })
      | none => s0.setWarp id (both g (g.advance i))

/-! ### The seal and the slow gear -/

/-- The first fault a group recorded, in slow-gear order (R293). -/
def Warp.firstRecorded (w : Warp) (g : Issue) : Option (Nat × SpanFault) :=
  leastBy (fun a b => decide (a.2.index < b.2.index))
    (g.lanes.filterMap fun l => (w.thread l).flt.map fun f => (l, f))

/-- The kind summary of a report (R293). -/
def Warp.summary (w : Warp) (g : Issue) : Nat :=
  (g.lanes.map fun l => (w.thread l).kinds).foldl (fun a b => a ||| b) 0

/-- What a paired seal compares in one lane (R309). -/
def Thread.agrees (a b : Thread) : Bool :=
  a.stores == b.stores && smFilter (fun r => decide (r < 496)) a.regs == smFilter (fun r => decide (r < 496)) b.regs &&
    a.preds == b.preds && a.fflags == b.fflags && a.flt == b.flt && a.kinds == b.kinds && a.pends == b.pends

/-- Leader and shadow agree (R309). -/
def Warp.paired (w : Warp) (g : Issue) : Bool :=
  match w.shadow with
  | none => true
  | some sh => g.lanes.all fun l => (w.thread l).agrees ((tbGet sh l).getD Thread.absent)

/-- Change the phase of a warp's group. -/
def State.setPhase (s : State) (id : WarpId) (p : Phase) : State :=
  let w := s.warp id
  match w.cur with
  | none => s
  | some g => s.setWarp id { w with cur := some { g with phase := p } }

/-- A span seals (R82, R293, R309): it waits for its logged lanes, then commits, or reports its faults. -/
def State.sealSpan (s : State) (id : WarpId) : State :=
  let w := s.warp id
  match w.cur with
  | none => s
  | some g =>
    if g.phase ≠ .run ∨ (w.log.any fun e => !e.boundary) then s
    else if !w.paired g then s.setPhase id .mismatch
    else
      match w.firstRecorded g with
      | none => s.commitSpan id
      | some (lane, first) => s.setPhase id (.reported (w.summary g) lane first)

/-- A reported span, or a mismatch, is rolled back and runs again in the slow gear (R293, R295, R310). -/
def State.startSlow (s : State) (id : WarpId) : State :=
  match (s.warp id).cur with
  | none => s
  | some g =>
    match g.phase with
    | .reported sum lane first =>
      (s.restartSpan id (.slow false sum lane first none)).count id.gang.part 0x04 1
    | .mismatch =>
      (s.restartSpan id (.slow true 0 0 ⟨0, g.entry, ⟨0, 0, 0⟩⟩ none)).count id.gang.part 0x04 1
    | _ => s

/-- The lane mask of a group. -/
def laneMask (lanes : List Nat) : Nat := sumNat (lanes.map fun l => 2 ^ l)

/-- The slow gear ends (R296, R297, R310): a precise record, or a commit that counts a vanished fault; where leader and shadow differ
the span runs once more, and a second difference is a silent-data mismatch. -/
def State.endSlow (s : State) (id : WarpId) : State :=
  let w := s.warp id
  match w.cur with
  | none => s
  | some g =>
    match g.phase with
    | .slow retry sum lane first found =>
      let r : LogRec :=
        { event := if retry then 5 else 1, kind := first.what.kind, launch := id.gang.launch, summary := sum, gang := id.gang.gang,
          core := s.coreOf id, warp := id.warp, lane := if retry then 255 else lane, info := first.what.info,
          entry := g.entry.toNat, pc := if retry then 0 else first.pc.toNat, addr := first.what.addr, lanes := laneMask g.lanes }
      if !w.paired g then
        if !retry then s.setPhase id .mismatch
        else s.gangFault id.gang 0x17 { entry := g.entry.toNat, pc := g.pc.toNat, core := s.coreOf id }
      else
        match found with
        | some (l, f) =>
          let s1 := if retry then s.log id.gang.part r else s
          (s1.rollbackWarp id).takeFault ⟨id, l⟩ f g.entry g.entry g.pc
        | none =>
          let s1 := s.commitSpan id
          if retry then s1.log id.gang.part r
          else
            let w1 := s1.warp id
            let w2 := g.lanes.foldl
              (fun acc l => acc.setThread l
                { acc.thread l with vanish := if (acc.thread l).vanish = 0xFFFFFFFF then 0xFFFFFFFF else (acc.thread l).vanish + 1 }) w1
            ((s1.setWarp id w2).count id.gang.part 0x05 1).log id.gang.part r
    | _ => s

/-! ### Decode faults -/

/-- A decode-class fault (R51, R290): the span is rolled back and the lane takes it at the span entry. -/
def State.decodeFault (s : State) (id : WarpId) (lane : Nat) (f : FaultInfo) : State :=
  match (s.warp id).cur with
  | none => s
  | some g => (s.rollbackWarp id).takeFault ⟨id, lane⟩ f g.entry g.entry g.pc

end Sys2Proof.Machine
end

