-- ==== Sys2Proof/Machine/Integer.lean ====
section
/-! DEFINITION. Integer arithmetic, bit operations and the base RI instructions (spec/02 R38, R39; spec/04 R60; spec/06 R107 to
R110). -/

namespace Sys2Proof.Machine

/-- A lane function over the lane's own thread. -/
def onThread (h : Thread → LaneOut) : Warp → Issue → Nat → LaneOut := fun w _ l => h (w.thread l)

/-- A span instruction each of whose lanes looks at its own thread only. -/
def spanOn (i : Instr) (h : Thread → LaneOut) (s : State) : Host.Outcome State Fault Refusal := .next (s.runSpan i (onThread h))

/-- A value of w bits read as signed or natural (Table 4-1). -/
def readInt (signed : Bool) (w x : Nat) : Int := if signed then signedN w x else x

/-- Res(x) of R108: clamped with .sat, else reduced, as w bits. -/
def resInt (sat signed : Bool) (w : Nat) (x : Int) : Nat :=
  let lo : Int := if signed then -(2 ^ (w - 1)) else 0
  let hi : Int := if signed then 2 ^ (w - 1) - 1 else 2 ^ w - 1
  ((if sat then satInt x lo hi else x) % 2 ^ w).toNat

/-- The type is signed: modA[0] clear (R107). -/
def Ext.signed (x : Ext) : Bool := !x.modABit 0
/-- .sat (R107). -/
def Ext.sat (x : Ext) : Bool := x.modABit 1

/-- A 32-bit source in the instruction's type. -/
def srcInt (signed : Bool) (v : Word) : Int := readInt signed 32 v.toNat

/-- d := Res(f A B) in 32 bits. -/
def intOp2 (x : Ext) (signed sat : Bool) (f : Int → Int → Int) (t : Thread) : LaneOut :=
  binary32 x (fun a b => BitVec.ofNat 32 (resInt sat signed 32 (f (srcInt signed a) (srcInt signed b)))) t

/-- d := f A B C in 32 bits, typed. -/
def intOp3 (x : Ext) (signed : Bool) (f : Int → Int → Int → Nat) (t : Thread) : LaneOut :=
  ternary32 x (fun a b c => BitVec.ofNat 32 (f (srcInt signed a) (srcInt signed b) (srcInt signed c))) t

/-- d := Res(f A B) in 64 bits. -/
def intOp64 (x : Ext) (f : Int → Int → Int) (t : Thread) : LaneOut :=
  binary64 x (fun a b => resInt (Ext.sat x) (Ext.signed x) 64 (f (readInt (Ext.signed x) 64 a) (readInt (Ext.signed x) 64 b))) t

/-- IADD (Table 6-2). -/
def laneIadd (x : Ext) : Thread → LaneOut := intOp2 x (Ext.signed x) (Ext.sat x) (· + ·)
/-- ISUB (Table 6-2). -/
def laneIsub (x : Ext) : Thread → LaneOut := intOp2 x (Ext.signed x) (Ext.sat x) (· - ·)
/-- IADDC (Table 6-2). -/
def laneIaddc (x : Ext) : Thread → LaneOut :=
  ternary32 x fun a b c =>
    let y := a.toNat + b.toNat + c.toNat % 2
    BitVec.ofNat 32 (if x.modABit 2 then y / 2 ^ 32 else y)
/-- IMIN (Table 6-2). -/
def laneImin (x : Ext) : Thread → LaneOut := intOp2 x (Ext.signed x) false min
/-- IMAX (Table 6-2). -/
def laneImax (x : Ext) : Thread → LaneOut := intOp2 x (Ext.signed x) false max
/-- IABS (Table 6-2). -/
def laneIabs (x : Ext) : Thread → LaneOut :=
  unary32 x fun a => BitVec.ofNat 32 (resInt (Ext.sat x) true 32 (srcInt true a).natAbs)
/-- INEG (Table 6-2). -/
def laneIneg (x : Ext) : Thread → LaneOut :=
  unary32 x fun a => BitVec.ofNat 32 (resInt (Ext.sat x) (Ext.signed x) 32 (-(srcInt (Ext.signed x) a)))
/-- Res(A + B) read back in the type. -/
def sumBack (x : Ext) (a b : Int) : Int := readInt (Ext.signed x) 32 (resInt (Ext.sat x) (Ext.signed x) 32 (a + b))
/-- IAMIN (Table 6-2). -/
def laneIamin (x : Ext) : Thread → LaneOut :=
  intOp3 x (Ext.signed x) fun a b c => resInt false (Ext.signed x) 32 (min (sumBack x a b) c)
/-- IAMAX (Table 6-2). -/
def laneIamax (x : Ext) : Thread → LaneOut :=
  intOp3 x (Ext.signed x) fun a b c => resInt false (Ext.signed x) 32 (max (sumBack x a b) c)
/-- ISAD (Table 6-2). -/
def laneIsad (x : Ext) : Thread → LaneOut :=
  intOp3 x (Ext.signed x) fun a b c => resInt (Ext.sat x) (Ext.signed x) 32 ((a - b).natAbs + c)
/-- IADD64 (Table 6-2). -/
def laneIadd64 (x : Ext) : Thread → LaneOut := intOp64 x (· + ·)
/-- ISUB64 (Table 6-2). -/
def laneIsub64 (x : Ext) : Thread → LaneOut := intOp64 x (· - ·)
/-- LEA (Table 6-2). -/
def laneLea (x : Ext) : Thread → LaneOut := binary32 x fun a b => a + b <<< x.imm.toNat
/-- LEA64 (Table 6-2). -/
def laneLea64 (x : Ext) (t : Thread) : LaneOut :=
  let a := t.pair x.a
  let b := t.srcB x
  out64 x.d (a.p || b.p) (((a.v : Int) + srcInt (Ext.signed x) b.v * 2 ^ x.imm.toNat) % 2 ^ 64).toNat
/-- IMUL (Table 6-2). -/
def laneImul (x : Ext) : Thread → LaneOut := intOp2 x (Ext.signed x) (Ext.sat x) (· * ·)
/-- IMULH (Table 6-2). -/
def laneImulh (x : Ext) : Thread → LaneOut := intOp2 x (Ext.signed x) false fun a b => a * b / 2 ^ 32
/-- IMAD (Table 6-2). -/
def laneImad (x : Ext) : Thread → LaneOut :=
  intOp3 x (Ext.signed x) fun a b c => resInt (Ext.sat x) (Ext.signed x) 32 (a * b + c)
/-- IMULW (Table 6-2). -/
def laneImulw (x : Ext) (t : Thread) : LaneOut :=
  let a := t.reg x.a
  let b := t.srcB x
  out64 x.d (a.p || b.p) (resInt false (Ext.signed x) 64 (srcInt (Ext.signed x) a.v * srcInt (Ext.signed x) b.v))
/-- IMADW (Table 6-2). -/
def laneImadw (x : Ext) (t : Thread) : LaneOut :=
  let a := t.reg x.a
  let b := t.srcB x
  let c := t.pair x.c
  out64 x.d (a.p || b.p || c.p)
    (resInt (Ext.sat x) (Ext.signed x) 64 (srcInt (Ext.signed x) a.v * srcInt (Ext.signed x) b.v + readInt (Ext.signed x) 64 c.v))
/-- Division rounded toward zero. -/
def truncDiv (a b : Int) : Int := Int.tdiv a b
/-- IDIV (Table 6-2, R109). -/
def laneIdiv (x : Ext) (t : Thread) : LaneOut :=
  let a := t.reg x.a
  let b := t.srcB x
  if b.v = 0 then out32 x.d (a.p || b.p) 0xFFFFFFFF flagDZ .intDiv
  else out32 x.d (a.p || b.p)
    (BitVec.ofNat 32 (resInt (Ext.sat x) (Ext.signed x) 32 (truncDiv (srcInt (Ext.signed x) a.v) (srcInt (Ext.signed x) b.v))))
/-- IREM (Table 6-2, R109). -/
def laneIrem (x : Ext) (t : Thread) : LaneOut :=
  let a := t.reg x.a
  let b := t.srcB x
  let va := srcInt (Ext.signed x) a.v
  let vb := srcInt (Ext.signed x) b.v
  if b.v = 0 then out32 x.d (a.p || b.p) a.v flagDZ .intDiv
  else out32 x.d (a.p || b.p) (BitVec.ofNat 32 (resInt false (Ext.signed x) 32 (va - vb * truncDiv va vb)))

/-! ### Bit operations (Table 6-3) -/

/-- SHL. -/
def laneShl (x : Ext) : Thread → LaneOut := binary32 x fun a b => if 32 ≤ b.toNat then 0 else a <<< b.toNat
/-- SHR. -/
def laneShr (x : Ext) : Thread → LaneOut := binary32 x fun a b => if 32 ≤ b.toNat then 0 else a >>> b.toNat
/-- SAR. -/
def laneSar (x : Ext) : Thread → LaneOut := binary32 x fun a b => a.sshiftRight (min b.toNat 32)
/-- ROTL. -/
def laneRotl (x : Ext) : Thread → LaneOut := binary32 x fun a b => a.rotateLeft (b.toNat % 32)
/-- AND. -/
def laneBand (x : Ext) : Thread → LaneOut := binary32 x (· &&& ·)
/-- OR. -/
def laneBor (x : Ext) : Thread → LaneOut := binary32 x (· ||| ·)
/-- XOR. -/
def laneBxor (x : Ext) : Thread → LaneOut := binary32 x (· ^^^ ·)
/-- NOT. -/
def laneBnot (x : Ext) : Thread → LaneOut := unary32 x (~~~ ·)
/-- Bits 0 to n - 1 from a test. -/
def bitsOf (n : Nat) (f : Nat → Bool) : Nat := sumNat ((natsFrom 0 n).map fun i => if f i then 2 ^ i else 0)
/-- BOOL3. -/
def laneBool3 (x : Ext) : Thread → LaneOut :=
  ternary32 x fun a b c =>
    BitVec.ofNat 32 (bitsOf 32 fun i => x.imm.getLsbD (bit01 (a.getLsbD i) + 2 * bit01 (b.getLsbD i) + 4 * bit01 (c.getLsbD i)))
/-- POPC. -/
def lanePopc (x : Ext) : Thread → LaneOut :=
  unary32 x fun a => BitVec.ofNat 32 (sumNat ((natsFrom 0 32).map fun i => bit01 (a.getLsbD i)))
/-- CLZ. -/
def laneClz (x : Ext) : Thread → LaneOut := unary32 x fun a => BitVec.ofNat 32 (32 - bitLen a.toNat)
/-- CTZ. -/
def laneCtz (x : Ext) : Thread → LaneOut :=
  unary32 x fun a => BitVec.ofNat 32 ((firstWhere (fun i => a.getLsbD i) (natsFrom 0 32)).getD 32)
/-- BREV. -/
def laneBrev (x : Ext) : Thread → LaneOut := unary32 x fun a => BitVec.ofNat 32 (bitsOf 32 fun i => a.getLsbD (31 - i))
/-- The field width of R110. -/
def fieldWidth (pos len : Nat) : Nat := if 32 ≤ pos then 0 else min len (32 - pos)
/-- BFE. -/
def laneBfe (x : Ext) : Thread → LaneOut :=
  binary32 x fun a b =>
    let pos := b.toNat % 256
    let w := fieldWidth pos (b.toNat / 256 % 256)
    let v := a.toNat / 2 ^ pos % 2 ^ w
    BitVec.ofNat 32 (if w = 0 then 0 else if Ext.signed x then (signedN w v % 2 ^ 32).toNat else v)
/-- BFI. -/
def laneBfi (x : Ext) : Thread → LaneOut :=
  ternary32 x fun a b c =>
    let pos := b.toNat % 256
    let mask : Word := BitVec.ofNat 32 ((2 ^ fieldWidth pos (b.toNat / 256 % 256) - 1) * 2 ^ pos)
    (c &&& ~~~mask) ||| (BitVec.ofNat 32 (a.toNat * 2 ^ pos) &&& mask)
/-- FUNNEL. -/
def laneFunnel (x : Ext) : Thread → LaneOut :=
  ternary32 x fun a b c => BitVec.ofNat 32 ((b.toNat * 2 ^ 32 + a.toNat) / 2 ^ (c.toNat % 32))
/-- SHL64. -/
def laneShl64 (x : Ext) : Thread → LaneOut := binary64 x fun a b => if 64 ≤ b then 0 else a * 2 ^ b % 2 ^ 64
/-- SHR64. -/
def laneShr64 (x : Ext) : Thread → LaneOut := binary64 x fun a b => if 64 ≤ b then 0 else a / 2 ^ b
/-- SAR64. -/
def laneSar64 (x : Ext) : Thread → LaneOut :=
  binary64 x fun a b => (signedN 64 a / 2 ^ min b 64 % 2 ^ 64).toNat

/-! ### Base RI (Table 2-3) -/

/-- d := f d v. -/
def laneRI (d : RegIdx) (imm : BitVec 15) (lit : Option Dword) (f : Word → Word → Word) (t : Thread) : LaneOut :=
  let a := t.reg d
  out32 d a.p (f a.v (riValue imm lit))

/-- IADD_BASE (R38). -/
def execIaddBase (d b : RegIdx) (lit : Option Dword) (s : State) : Host.Outcome State Fault Refusal :=
  spanOn (.iaddBase d b lit) (laneIadd (Ext.ofRR d b true lit)) s

/-- ISUB_BASE (R38). -/
def execIsubBase (d b : RegIdx) (lit : Option Dword) (s : State) : Host.Outcome State Fault Refusal :=
  spanOn (.isubBase d b lit) (laneIsub (Ext.ofRR d b true lit)) s

/-- IADDC_BASE (R38). -/
def execIaddcBase (d b : RegIdx) (lit : Option Dword) (s : State) : Host.Outcome State Fault Refusal :=
  spanOn (.iaddcBase d b lit) (laneIaddc (Ext.ofRR d b true lit)) s

/-- IMIN_BASE (R38). -/
def execIminBase (d b : RegIdx) (lit : Option Dword) (s : State) : Host.Outcome State Fault Refusal :=
  spanOn (.iminBase d b lit) (laneImin (Ext.ofRR d b true lit)) s

/-- IMAX_BASE (R38). -/
def execImaxBase (d b : RegIdx) (lit : Option Dword) (s : State) : Host.Outcome State Fault Refusal :=
  spanOn (.imaxBase d b lit) (laneImax (Ext.ofRR d b true lit)) s

/-- IABS_BASE (R38). -/
def execIabsBase (d : RegIdx) (s : State) : Host.Outcome State Fault Refusal :=
  spanOn (.iabsBase d) (laneIabs (Ext.ofRR d 0 true none)) s

/-- INEG_BASE (R38). -/
def execInegBase (d : RegIdx) (s : State) : Host.Outcome State Fault Refusal :=
  spanOn (.inegBase d) (laneIneg (Ext.ofRR d 0 true none)) s

/-- IAMIN_BASE (R38). -/
def execIaminBase (d b : RegIdx) (lit : Option Dword) (s : State) : Host.Outcome State Fault Refusal :=
  spanOn (.iaminBase d b lit) (laneIamin (Ext.ofRR d b true lit)) s

/-- IAMAX_BASE (R38). -/
def execIamaxBase (d b : RegIdx) (lit : Option Dword) (s : State) : Host.Outcome State Fault Refusal :=
  spanOn (.iamaxBase d b lit) (laneIamax (Ext.ofRR d b true lit)) s

/-- ISAD_BASE (R38). -/
def execIsadBase (d b : RegIdx) (lit : Option Dword) (s : State) : Host.Outcome State Fault Refusal :=
  spanOn (.isadBase d b lit) (laneIsad (Ext.ofRR d b true lit)) s

/-- IADD64_BASE (R38). -/
def execIadd64Base (d b : RegIdx) (lit : Option Dword) (s : State) : Host.Outcome State Fault Refusal :=
  spanOn (.iadd64Base d b lit) (laneIadd64 (Ext.ofRR d b true lit)) s

/-- ISUB64_BASE (R38). -/
def execIsub64Base (d b : RegIdx) (lit : Option Dword) (s : State) : Host.Outcome State Fault Refusal :=
  spanOn (.isub64Base d b lit) (laneIsub64 (Ext.ofRR d b true lit)) s

/-- SHL_BASE (R38). -/
def execShlBase (d b : RegIdx) (lit : Option Dword) (s : State) : Host.Outcome State Fault Refusal :=
  spanOn (.shlBase d b lit) (laneShl (Ext.ofRR d b true lit)) s

/-- SHR_BASE (R38). -/
def execShrBase (d b : RegIdx) (lit : Option Dword) (s : State) : Host.Outcome State Fault Refusal :=
  spanOn (.shrBase d b lit) (laneShr (Ext.ofRR d b true lit)) s

/-- SAR_BASE (R38). -/
def execSarBase (d b : RegIdx) (lit : Option Dword) (s : State) : Host.Outcome State Fault Refusal :=
  spanOn (.sarBase d b lit) (laneSar (Ext.ofRR d b true lit)) s

/-- ROTL_BASE (R38). -/
def execRotlBase (d b : RegIdx) (lit : Option Dword) (s : State) : Host.Outcome State Fault Refusal :=
  spanOn (.rotlBase d b lit) (laneRotl (Ext.ofRR d b true lit)) s

/-- AND_BASE (R38). -/
def execBandBase (d b : RegIdx) (lit : Option Dword) (s : State) : Host.Outcome State Fault Refusal :=
  spanOn (.bandBase d b lit) (laneBand (Ext.ofRR d b true lit)) s

/-- OR_BASE (R38). -/
def execBorBase (d b : RegIdx) (lit : Option Dword) (s : State) : Host.Outcome State Fault Refusal :=
  spanOn (.borBase d b lit) (laneBor (Ext.ofRR d b true lit)) s

/-- XOR_BASE (R38). -/
def execBxorBase (d b : RegIdx) (lit : Option Dword) (s : State) : Host.Outcome State Fault Refusal :=
  spanOn (.bxorBase d b lit) (laneBxor (Ext.ofRR d b true lit)) s

/-- NOT_BASE (R38). -/
def execBnotBase (d : RegIdx) (s : State) : Host.Outcome State Fault Refusal :=
  spanOn (.bnotBase d) (laneBnot (Ext.ofRR d 0 true none)) s

/-- BOOL3_BASE (R38). -/
def execBool3Base (d b : RegIdx) (lit : Option Dword) (s : State) : Host.Outcome State Fault Refusal :=
  spanOn (.bool3Base d b lit) (laneBool3 (Ext.ofRR d b true lit)) s

/-- POPC_BASE (R38). -/
def execPopcBase (d : RegIdx) (s : State) : Host.Outcome State Fault Refusal :=
  spanOn (.popcBase d) (lanePopc (Ext.ofRR d 0 true none)) s

/-- CLZ_BASE (R38). -/
def execClzBase (d : RegIdx) (s : State) : Host.Outcome State Fault Refusal :=
  spanOn (.clzBase d) (laneClz (Ext.ofRR d 0 true none)) s

/-- CTZ_BASE (R38). -/
def execCtzBase (d : RegIdx) (s : State) : Host.Outcome State Fault Refusal :=
  spanOn (.ctzBase d) (laneCtz (Ext.ofRR d 0 true none)) s

/-- BREV_BASE (R38). -/
def execBrevBase (d : RegIdx) (s : State) : Host.Outcome State Fault Refusal :=
  spanOn (.brevBase d) (laneBrev (Ext.ofRR d 0 true none)) s

/-- BFE_BASE (R38). -/
def execBfeBase (d b : RegIdx) (lit : Option Dword) (s : State) : Host.Outcome State Fault Refusal :=
  spanOn (.bfeBase d b lit) (laneBfe (Ext.ofRR d b true lit)) s

/-- BFI_BASE (R38). -/
def execBfiBase (d b : RegIdx) (lit : Option Dword) (s : State) : Host.Outcome State Fault Refusal :=
  spanOn (.bfiBase d b lit) (laneBfi (Ext.ofRR d b true lit)) s

/-- FUNNEL_BASE (R38). -/
def execFunnelBase (d b : RegIdx) (lit : Option Dword) (s : State) : Host.Outcome State Fault Refusal :=
  spanOn (.funnelBase d b lit) (laneFunnel (Ext.ofRR d b true lit)) s

/-- SHL64_BASE (R38). -/
def execShl64Base (d b : RegIdx) (lit : Option Dword) (s : State) : Host.Outcome State Fault Refusal :=
  spanOn (.shl64Base d b lit) (laneShl64 (Ext.ofRR d b true lit)) s

/-- SHR64_BASE (R38). -/
def execShr64Base (d b : RegIdx) (lit : Option Dword) (s : State) : Host.Outcome State Fault Refusal :=
  spanOn (.shr64Base d b lit) (laneShr64 (Ext.ofRR d b true lit)) s

/-- SAR64_BASE (R38). -/
def execSar64Base (d b : RegIdx) (lit : Option Dword) (s : State) : Host.Outcome State Fault Refusal :=
  spanOn (.sar64Base d b lit) (laneSar64 (Ext.ofRR d b true lit)) s

/-- ADDI (Table 2-3). -/
def execAddi (d : RegIdx) (imm : BitVec 15) (lit : Option Dword) (s : State) : Host.Outcome State Fault Refusal :=
  spanOn (.addi d imm lit) (laneRI d imm lit ((· + ·))) s

/-- MOVI_BASE (Table 2-3). -/
def execMoviBase (d : RegIdx) (imm : BitVec 15) (lit : Option Dword) (s : State) : Host.Outcome State Fault Refusal :=
  spanOn (.moviBase d imm lit) (fun _ => out32 d false (riValue imm lit)) s

/-- ANDI (Table 2-3). -/
def execAndi (d : RegIdx) (imm : BitVec 15) (lit : Option Dword) (s : State) : Host.Outcome State Fault Refusal :=
  spanOn (.andi d imm lit) (laneRI d imm lit ((· &&& ·))) s

/-- SHLI (Table 2-3). -/
def execShli (d : RegIdx) (imm : BitVec 15) (lit : Option Dword) (s : State) : Host.Outcome State Fault Refusal :=
  spanOn (.shli d imm lit) (laneRI d imm lit (fun a v => a <<< v.toNat)) s

/-- SHRI (Table 2-3). -/
def execShri (d : RegIdx) (imm : BitVec 15) (lit : Option Dword) (s : State) : Host.Outcome State Fault Refusal :=
  spanOn (.shri d imm lit) (laneRI d imm lit (fun a v => a >>> v.toNat)) s

/-- SARI (Table 2-3). -/
def execSari (d : RegIdx) (imm : BitVec 15) (lit : Option Dword) (s : State) : Host.Outcome State Fault Refusal :=
  spanOn (.sari d imm lit) (laneRI d imm lit (fun a v => a.sshiftRight v.toNat)) s

/-- IADD (spec/06 Tables 6-1 to 6-3). -/
def execIadd (x : Ext) (s : State) : Host.Outcome State Fault Refusal := spanOn (.iadd x) (laneIadd x) s

/-- ISUB (spec/06 Tables 6-1 to 6-3). -/
def execIsub (x : Ext) (s : State) : Host.Outcome State Fault Refusal := spanOn (.isub x) (laneIsub x) s

/-- IADDC (spec/06 Tables 6-1 to 6-3). -/
def execIaddc (x : Ext) (s : State) : Host.Outcome State Fault Refusal := spanOn (.iaddc x) (laneIaddc x) s

/-- IMIN (spec/06 Tables 6-1 to 6-3). -/
def execImin (x : Ext) (s : State) : Host.Outcome State Fault Refusal := spanOn (.imin x) (laneImin x) s

/-- IMAX (spec/06 Tables 6-1 to 6-3). -/
def execImax (x : Ext) (s : State) : Host.Outcome State Fault Refusal := spanOn (.imax x) (laneImax x) s

/-- IABS (spec/06 Tables 6-1 to 6-3). -/
def execIabs (x : Ext) (s : State) : Host.Outcome State Fault Refusal := spanOn (.iabs x) (laneIabs x) s

/-- INEG (spec/06 Tables 6-1 to 6-3). -/
def execIneg (x : Ext) (s : State) : Host.Outcome State Fault Refusal := spanOn (.ineg x) (laneIneg x) s

/-- IAMIN (spec/06 Tables 6-1 to 6-3). -/
def execIamin (x : Ext) (s : State) : Host.Outcome State Fault Refusal := spanOn (.iamin x) (laneIamin x) s

/-- IAMAX (spec/06 Tables 6-1 to 6-3). -/
def execIamax (x : Ext) (s : State) : Host.Outcome State Fault Refusal := spanOn (.iamax x) (laneIamax x) s

/-- ISAD (spec/06 Tables 6-1 to 6-3). -/
def execIsad (x : Ext) (s : State) : Host.Outcome State Fault Refusal := spanOn (.isad x) (laneIsad x) s

/-- IADD64 (spec/06 Tables 6-1 to 6-3). -/
def execIadd64 (x : Ext) (s : State) : Host.Outcome State Fault Refusal := spanOn (.iadd64 x) (laneIadd64 x) s

/-- ISUB64 (spec/06 Tables 6-1 to 6-3). -/
def execIsub64 (x : Ext) (s : State) : Host.Outcome State Fault Refusal := spanOn (.isub64 x) (laneIsub64 x) s

/-- LEA (spec/06 Tables 6-1 to 6-3). -/
def execLea (x : Ext) (s : State) : Host.Outcome State Fault Refusal := spanOn (.lea x) (laneLea x) s

/-- LEA64 (spec/06 Tables 6-1 to 6-3). -/
def execLea64 (x : Ext) (s : State) : Host.Outcome State Fault Refusal := spanOn (.lea64 x) (laneLea64 x) s

/-- IMUL (spec/06 Tables 6-1 to 6-3). -/
def execImul (x : Ext) (s : State) : Host.Outcome State Fault Refusal := spanOn (.imul x) (laneImul x) s

/-- IMULH (spec/06 Tables 6-1 to 6-3). -/
def execImulh (x : Ext) (s : State) : Host.Outcome State Fault Refusal := spanOn (.imulh x) (laneImulh x) s

/-- IMAD (spec/06 Tables 6-1 to 6-3). -/
def execImad (x : Ext) (s : State) : Host.Outcome State Fault Refusal := spanOn (.imad x) (laneImad x) s

/-- IMULW (spec/06 Tables 6-1 to 6-3). -/
def execImulw (x : Ext) (s : State) : Host.Outcome State Fault Refusal := spanOn (.imulw x) (laneImulw x) s

/-- IMADW (spec/06 Tables 6-1 to 6-3). -/
def execImadw (x : Ext) (s : State) : Host.Outcome State Fault Refusal := spanOn (.imadw x) (laneImadw x) s

/-- IDIV (spec/06 Tables 6-1 to 6-3). -/
def execIdiv (x : Ext) (s : State) : Host.Outcome State Fault Refusal := spanOn (.idiv x) (laneIdiv x) s

/-- IREM (spec/06 Tables 6-1 to 6-3). -/
def execIrem (x : Ext) (s : State) : Host.Outcome State Fault Refusal := spanOn (.irem x) (laneIrem x) s

/-- SHL (spec/06 Tables 6-1 to 6-3). -/
def execShl (x : Ext) (s : State) : Host.Outcome State Fault Refusal := spanOn (.shl x) (laneShl x) s

/-- SHR (spec/06 Tables 6-1 to 6-3). -/
def execShr (x : Ext) (s : State) : Host.Outcome State Fault Refusal := spanOn (.shr x) (laneShr x) s

/-- SAR (spec/06 Tables 6-1 to 6-3). -/
def execSar (x : Ext) (s : State) : Host.Outcome State Fault Refusal := spanOn (.sar x) (laneSar x) s

/-- ROTL (spec/06 Tables 6-1 to 6-3). -/
def execRotl (x : Ext) (s : State) : Host.Outcome State Fault Refusal := spanOn (.rotl x) (laneRotl x) s

/-- AND (spec/06 Tables 6-1 to 6-3). -/
def execBand (x : Ext) (s : State) : Host.Outcome State Fault Refusal := spanOn (.band x) (laneBand x) s

/-- OR (spec/06 Tables 6-1 to 6-3). -/
def execBor (x : Ext) (s : State) : Host.Outcome State Fault Refusal := spanOn (.bor x) (laneBor x) s

/-- XOR (spec/06 Tables 6-1 to 6-3). -/
def execBxor (x : Ext) (s : State) : Host.Outcome State Fault Refusal := spanOn (.bxor x) (laneBxor x) s

/-- NOT (spec/06 Tables 6-1 to 6-3). -/
def execBnot (x : Ext) (s : State) : Host.Outcome State Fault Refusal := spanOn (.bnot x) (laneBnot x) s

/-- BOOL3 (spec/06 Tables 6-1 to 6-3). -/
def execBool3 (x : Ext) (s : State) : Host.Outcome State Fault Refusal := spanOn (.bool3 x) (laneBool3 x) s

/-- POPC (spec/06 Tables 6-1 to 6-3). -/
def execPopc (x : Ext) (s : State) : Host.Outcome State Fault Refusal := spanOn (.popc x) (lanePopc x) s

/-- CLZ (spec/06 Tables 6-1 to 6-3). -/
def execClz (x : Ext) (s : State) : Host.Outcome State Fault Refusal := spanOn (.clz x) (laneClz x) s

/-- CTZ (spec/06 Tables 6-1 to 6-3). -/
def execCtz (x : Ext) (s : State) : Host.Outcome State Fault Refusal := spanOn (.ctz x) (laneCtz x) s

/-- BREV (spec/06 Tables 6-1 to 6-3). -/
def execBrev (x : Ext) (s : State) : Host.Outcome State Fault Refusal := spanOn (.brev x) (laneBrev x) s

/-- BFE (spec/06 Tables 6-1 to 6-3). -/
def execBfe (x : Ext) (s : State) : Host.Outcome State Fault Refusal := spanOn (.bfe x) (laneBfe x) s

/-- BFI (spec/06 Tables 6-1 to 6-3). -/
def execBfi (x : Ext) (s : State) : Host.Outcome State Fault Refusal := spanOn (.bfi x) (laneBfi x) s

/-- FUNNEL (spec/06 Tables 6-1 to 6-3). -/
def execFunnel (x : Ext) (s : State) : Host.Outcome State Fault Refusal := spanOn (.funnel x) (laneFunnel x) s

/-- SHL64 (spec/06 Tables 6-1 to 6-3). -/
def execShl64 (x : Ext) (s : State) : Host.Outcome State Fault Refusal := spanOn (.shl64 x) (laneShl64 x) s

/-- SHR64 (spec/06 Tables 6-1 to 6-3). -/
def execShr64 (x : Ext) (s : State) : Host.Outcome State Fault Refusal := spanOn (.shr64 x) (laneShr64 x) s

/-- SAR64 (spec/06 Tables 6-1 to 6-3). -/
def execSar64 (x : Ext) (s : State) : Host.Outcome State Fault Refusal := spanOn (.sar64 x) (laneSar64 x) s

end Sys2Proof.Machine
end

