-- ==== Sys2Proof/Machine/Compare.lean ====
section
/-! DEFINITION. Comparison and selection (spec/06 R111, Table 6-4). -/

namespace Sys2Proof.Machine

/-- Source B as a register, a pair, or the literal (R47). -/
def Thread.srcWide (t : Thread) (x : Ext) (words : Nat) : PVal :=
  if words = 2 then t.srcB64 x else ⟨(t.srcB x).v.toNat, (t.srcB x).p⟩

/-- A result of one or two words (R104). -/
def outWide (d : RegIdx) (words : Nat) (p : Bool) (v : Nat) (flags : Flags) (trap : TrapClass) : LaneOut :=
  { regs := wideWrite d words ⟨v, p⟩, flags := if p then 0 else flags, trap := trap }

/-- Relations 0 to 5 of Table 6-4 on an order. -/
def relOrder (rel : Nat) (o : Ordering) : Bool :=
  match rel with
  | 0 => o == .eq
  | 1 => o != .eq
  | 2 => o == .lt
  | 3 => o != .gt
  | 4 => o == .gt
  | _ => o != .lt

/-- A relation of floats: a NaN makes .ne and .nan true, .num and the others false. -/
def relFloat (rel : Nat) (o : Option Ordering) : Bool :=
  match o with
  | none => rel == 1 || rel == 7
  | some o => if rel = 6 then true else if rel = 7 then false else relOrder rel o

/-- Rel(A, B) op Pred(q). -/
def Thread.combine (t : Thread) (x : Ext) (rel : Bool) : Bool :=
  let q := t.pred (x.modBBits 2 0)
  match x.modBBits 4 3 with
  | 0 => rel
  | 1 => rel && q
  | 2 => rel || q
  | _ => rel != q

/-- ISET and ISET64. -/
def laneIset (words : Nat) (x : Ext) (t : Thread) : LaneOut :=
  let a := t.wide x.a words
  let b := t.srcWide x words
  let signed := !x.modABit 3
  let o := compare (readInt signed (32 * words) a.v) (readInt signed (32 * words) b.v)
  outPred (predNum x.d) (a.p || b.p) (t.combine x (relOrder (x.modABits 2 0) o))

/-- The format of one or two words. -/
def fmtOf (words : Nat) : Fmt := if words = 2 then f64 else f32

/-- FSET and FSET64. -/
def laneFset (words : Nat) (x : Ext) (t : Thread) : LaneOut :=
  let a := t.wide x.a words
  let b := t.srcWide x words
  let va := (fmtOf words).read (fmodeFtz t.fmode) a.v
  let vb := (fmtOf words).read (fmodeFtz t.fmode) b.v
  let nan := va.isNaN || vb.isNaN
  let flags := if x.modABit 3 && nan then flagNV else va.invalid ||| vb.invalid
  outPred (predNum x.d) (a.p || b.p) (t.combine x (relFloat (x.modABits 2 0) (va.cmp vb))) flags

/-- PSET. -/
def lanePset (x : Ext) (t : Thread) : LaneOut :=
  let k := bit01 (t.pred (predNum x.a)) + 2 * bit01 (t.pred (predNum x.b)) + 4 * bit01 (t.pred (predNum x.c))
  { preds := [(predNum x.d, x.imm.getLsbD k)] }

/-- SEL: poison follows the selected source. -/
def laneSel (x : Ext) (t : Thread) : LaneOut :=
  let v := if t.pred (predNum x.c) != x.c.getLsbD 3 then t.reg x.a else t.srcB x
  out32 x.d v.p v.v

/-- PMOV.get. -/
def lanePmovGet (x : Ext) (t : Thread) : LaneOut := out32 x.d false (t.preds.setWidth 32 ||| 0x80)

/-- PMOV.put. DESIGN CHOICE: with an empty mask a poisoned a is consumed all the same; the spec does not say so (log entry 77). -/
def lanePmovPut (x : Ext) (t : Thread) : LaneOut :=
  let a := t.reg x.a
  if a.p then { fault := some (consumed 2) }
  else { preds := ((natsFrom 0 7).filter fun i => x.imm.getLsbD i).map fun i => (i, a.v.getLsbD i) }

/-- ISET (R111). -/
def execIset (x : Ext) (s : State) : Host.Outcome State Fault Refusal := spanOn (.iset x) (laneIset 1 x) s

/-- ISET64 (R111). -/
def execIset64 (x : Ext) (s : State) : Host.Outcome State Fault Refusal := spanOn (.iset64 x) (laneIset 2 x) s

/-- FSET (R111). -/
def execFset (x : Ext) (s : State) : Host.Outcome State Fault Refusal := spanOn (.fset x) (laneFset 1 x) s

/-- FSET64 (R111). -/
def execFset64 (x : Ext) (s : State) : Host.Outcome State Fault Refusal := spanOn (.fset64 x) (laneFset 2 x) s

/-- PSET (R111). -/
def execPset (x : Ext) (s : State) : Host.Outcome State Fault Refusal := spanOn (.pset x) (lanePset x) s

/-- SEL (R111). -/
def execSel (x : Ext) (s : State) : Host.Outcome State Fault Refusal := spanOn (.sel x) (laneSel x) s

/-- PMOV.get (R111). -/
def execPmovGet (x : Ext) (s : State) : Host.Outcome State Fault Refusal := spanOn (.pmovGet x) (lanePmovGet x) s

/-- PMOV.put (R111). -/
def execPmovPut (x : Ext) (s : State) : Host.Outcome State Fault Refusal := spanOn (.pmovPut x) (lanePmovPut x) s

end Sys2Proof.Machine
end

