-- ==== Sys2Proof/Machine/FloatOps.lean ====
section
/-! DEFINITION. Floating point: FP32, FP64, FP16 and the base forms (spec/06 R112 to R114; spec/04 R62 to R66). -/

namespace Sys2Proof.Machine

/-- The rounding and flush an instruction selects in modA (R112). -/
def Thread.modesA (t : Thread) (x : Ext) : Rnd × Bool := (roundCode t.fmode x.roundA, flushCode t.fmode x.flushA)

/-- d := op A, rounded once. -/
def float1 (words : Nat) (op : Fmt → Rnd → Bool → FVal → FRes) (x : Ext) (t : Thread) : LaneOut :=
  let (mode, flush) := t.modesA x
  let f := fmtOf words
  let a := t.wide x.a words
  let r := op f mode flush (f.read flush a.v)
  outWide x.d words a.p r.bits r.flags .float

/-- d := op A B, rounded once. -/
def float2 (words : Nat) (op : Fmt → Rnd → Bool → FVal → FVal → FRes) (x : Ext) (t : Thread) : LaneOut :=
  let (mode, flush) := t.modesA x
  let f := fmtOf words
  let a := t.wide x.a words
  let b := t.srcWide x words
  let r := op f mode flush (f.read flush a.v) (f.read flush b.v)
  outWide x.d words (a.p || b.p) r.bits r.flags .float

/-- FFMA: one rounding. -/
def laneFfma (words : Nat) (x : Ext) (t : Thread) : LaneOut :=
  let (mode, flush) := t.modesA x
  let f := fmtOf words
  let a := t.wide x.a words
  let b := t.srcWide x words
  let c := t.wide x.c words
  let r := f.fmaF mode flush (f.read flush a.v) (f.read flush b.v) (f.read flush c.v)
  outWide x.d words (a.p || b.p || c.p) r.bits r.flags .float

/-- A - B. -/
def Fmt.subV (f : Fmt) (mode : Rnd) (flush : Bool) (a b : FVal) : FRes :=
  let r := f.addV mode flush a b.negate
  ⟨r.bits, r.flags⟩

/-- FADD. -/
def laneFadd (words : Nat) : Ext → Thread → LaneOut := float2 words Fmt.addV
/-- FSUB. -/
def laneFsub (words : Nat) : Ext → Thread → LaneOut := float2 words Fmt.subV
/-- FMUL. -/
def laneFmul (words : Nat) : Ext → Thread → LaneOut := float2 words Fmt.mulF
/-- FMIN. -/
def laneFmin (words : Nat) : Ext → Thread → LaneOut := float2 words fun f _ _ a b => f.minmaxF false a b
/-- FMAX. -/
def laneFmax (words : Nat) : Ext → Thread → LaneOut := float2 words fun f _ _ a b => f.minmaxF true a b
/-- FDIV. -/
def laneFdiv (words : Nat) : Ext → Thread → LaneOut := float2 words Fmt.divF
/-- FSQRT. -/
def laneFsqrt (words : Nat) : Ext → Thread → LaneOut := float1 words Fmt.sqrtF
/-- FRND. -/
def laneFrnd (words : Nat) : Ext → Thread → LaneOut := float1 words fun f mode _ a => f.integralF mode a

/-- FSCALE: B is a signed 32-bit integer. -/
def laneFscale (words : Nat) (x : Ext) (t : Thread) : LaneOut :=
  let (mode, flush) := t.modesA x
  let f := fmtOf words
  let a := t.wide x.a words
  let b := t.srcB x
  let r := f.scaleF mode flush (f.read flush a.v) b.v.toInt
  outWide x.d words (a.p || b.p) r.bits r.flags .float

/-! ### Half width (R114) -/

/-- The half-width format of modA[5]. -/
def halfFmt (bf : Bool) : Fmt := if bf then bf16 else f16

/-- The result of two elements, with the OR of their flags (R66). -/
def packHalf (d : RegIdx) (p : Bool) (r : Nat → FRes) : LaneOut :=
  out32 d p (BitVec.ofNat 32 ((r 0).bits + 65536 * (r 1).bits)) ((r 0).flags ||| (r 1).flags) .float

/-- Element i of a register. -/
def halfAt (v : Word) (i : Nat) : Nat := v.toNat / 65536 ^ i % 65536

/-- d := op A B on both elements. -/
def half2 (op : Fmt → Rnd → Bool → FVal → FVal → FRes) (x : Ext) (t : Thread) : LaneOut :=
  let (mode, flush) := t.modesA x
  let f := halfFmt (x.modABit 5)
  let a := t.reg x.a
  let b := t.srcB x
  packHalf x.d (a.p || b.p) fun i => op f mode flush (f.read flush (halfAt a.v i)) (f.read flush (halfAt b.v i))

/-- HADD2. -/
def laneHadd2 : Ext → Thread → LaneOut := half2 Fmt.addV
/-- HMUL2. -/
def laneHmul2 : Ext → Thread → LaneOut := half2 Fmt.mulF
/-- HMIN2. -/
def laneHmin2 : Ext → Thread → LaneOut := half2 fun f _ _ a b => f.minmaxF false a b
/-- HMAX2. -/
def laneHmax2 : Ext → Thread → LaneOut := half2 fun f _ _ a b => f.minmaxF true a b
/-- HFMA2. -/
def laneHfma2 (x : Ext) (t : Thread) : LaneOut :=
  let (mode, flush) := t.modesA x
  let f := halfFmt (x.modABit 5)
  let a := t.reg x.a
  let b := t.srcB x
  let c := t.reg x.c
  packHalf x.d (a.p || b.p || c.p) fun i =>
    f.fmaF mode flush (f.read flush (halfAt a.v i)) (f.read flush (halfAt b.v i)) (f.read flush (halfAt c.v i))

/-- FADD_BASE (R38). -/
def execFaddBase (d b : RegIdx) (lit : Option Dword) (s : State) : Host.Outcome State Fault Refusal :=
  spanOn (.faddBase d b lit) (laneFadd 1 (Ext.ofRR d b true lit)) s

/-- FSUB_BASE (R38). -/
def execFsubBase (d b : RegIdx) (lit : Option Dword) (s : State) : Host.Outcome State Fault Refusal :=
  spanOn (.fsubBase d b lit) (laneFsub 1 (Ext.ofRR d b true lit)) s

/-- FMUL_BASE (R38). -/
def execFmulBase (d b : RegIdx) (lit : Option Dword) (s : State) : Host.Outcome State Fault Refusal :=
  spanOn (.fmulBase d b lit) (laneFmul 1 (Ext.ofRR d b true lit)) s

/-- FFMA_BASE (R38). -/
def execFfmaBase (d b : RegIdx) (lit : Option Dword) (s : State) : Host.Outcome State Fault Refusal :=
  spanOn (.ffmaBase d b lit) (laneFfma 1 (Ext.ofRR d b true lit)) s

/-- FMIN_BASE (R38). -/
def execFminBase (d b : RegIdx) (lit : Option Dword) (s : State) : Host.Outcome State Fault Refusal :=
  spanOn (.fminBase d b lit) (laneFmin 1 (Ext.ofRR d b true lit)) s

/-- FMAX_BASE (R38). -/
def execFmaxBase (d b : RegIdx) (lit : Option Dword) (s : State) : Host.Outcome State Fault Refusal :=
  spanOn (.fmaxBase d b lit) (laneFmax 1 (Ext.ofRR d b true lit)) s

/-- FADD (Table 6-5). -/
def execFadd (x : Ext) (s : State) : Host.Outcome State Fault Refusal := spanOn (.fadd x) (laneFadd 1 x) s

/-- FSUB (Table 6-5). -/
def execFsub (x : Ext) (s : State) : Host.Outcome State Fault Refusal := spanOn (.fsub x) (laneFsub 1 x) s

/-- FMUL (Table 6-5). -/
def execFmul (x : Ext) (s : State) : Host.Outcome State Fault Refusal := spanOn (.fmul x) (laneFmul 1 x) s

/-- FFMA (Table 6-5). -/
def execFfma (x : Ext) (s : State) : Host.Outcome State Fault Refusal := spanOn (.ffma x) (laneFfma 1 x) s

/-- FMIN (Table 6-5). -/
def execFmin (x : Ext) (s : State) : Host.Outcome State Fault Refusal := spanOn (.fmin x) (laneFmin 1 x) s

/-- FMAX (Table 6-5). -/
def execFmax (x : Ext) (s : State) : Host.Outcome State Fault Refusal := spanOn (.fmax x) (laneFmax 1 x) s

/-- FDIV (Table 6-5). -/
def execFdiv (x : Ext) (s : State) : Host.Outcome State Fault Refusal := spanOn (.fdiv x) (laneFdiv 1 x) s

/-- FSQRT (Table 6-5). -/
def execFsqrt (x : Ext) (s : State) : Host.Outcome State Fault Refusal := spanOn (.fsqrt x) (laneFsqrt 1 x) s

/-- FSCALE (Table 6-5). -/
def execFscale (x : Ext) (s : State) : Host.Outcome State Fault Refusal := spanOn (.fscale x) (laneFscale 1 x) s

/-- FRND (Table 6-5). -/
def execFrnd (x : Ext) (s : State) : Host.Outcome State Fault Refusal := spanOn (.frnd x) (laneFrnd 1 x) s

/-- FADD on pairs (Table 6-5). -/
def execFadd64 (x : Ext) (s : State) : Host.Outcome State Fault Refusal := spanOn (.fadd64 x) (laneFadd 2 x) s

/-- FSUB on pairs (Table 6-5). -/
def execFsub64 (x : Ext) (s : State) : Host.Outcome State Fault Refusal := spanOn (.fsub64 x) (laneFsub 2 x) s

/-- FMUL on pairs (Table 6-5). -/
def execFmul64 (x : Ext) (s : State) : Host.Outcome State Fault Refusal := spanOn (.fmul64 x) (laneFmul 2 x) s

/-- FFMA on pairs (Table 6-5). -/
def execFfma64 (x : Ext) (s : State) : Host.Outcome State Fault Refusal := spanOn (.ffma64 x) (laneFfma 2 x) s

/-- FMIN on pairs (Table 6-5). -/
def execFmin64 (x : Ext) (s : State) : Host.Outcome State Fault Refusal := spanOn (.fmin64 x) (laneFmin 2 x) s

/-- FMAX on pairs (Table 6-5). -/
def execFmax64 (x : Ext) (s : State) : Host.Outcome State Fault Refusal := spanOn (.fmax64 x) (laneFmax 2 x) s

/-- FDIV on pairs (Table 6-5). -/
def execFdiv64 (x : Ext) (s : State) : Host.Outcome State Fault Refusal := spanOn (.fdiv64 x) (laneFdiv 2 x) s

/-- FSQRT on pairs (Table 6-5). -/
def execFsqrt64 (x : Ext) (s : State) : Host.Outcome State Fault Refusal := spanOn (.fsqrt64 x) (laneFsqrt 2 x) s

/-- FSCALE on pairs (Table 6-5). -/
def execFscale64 (x : Ext) (s : State) : Host.Outcome State Fault Refusal := spanOn (.fscale64 x) (laneFscale 2 x) s

/-- FRND on pairs (Table 6-5). -/
def execFrnd64 (x : Ext) (s : State) : Host.Outcome State Fault Refusal := spanOn (.frnd64 x) (laneFrnd 2 x) s

/-- HADD2 (R114). -/
def execHadd2 (x : Ext) (s : State) : Host.Outcome State Fault Refusal := spanOn (.hadd2 x) (laneHadd2 x) s

/-- HMUL2 (R114). -/
def execHmul2 (x : Ext) (s : State) : Host.Outcome State Fault Refusal := spanOn (.hmul2 x) (laneHmul2 x) s

/-- HFMA2 (R114). -/
def execHfma2 (x : Ext) (s : State) : Host.Outcome State Fault Refusal := spanOn (.hfma2 x) (laneHfma2 x) s

/-- HMIN2 (R114). -/
def execHmin2 (x : Ext) (s : State) : Host.Outcome State Fault Refusal := spanOn (.hmin2 x) (laneHmin2 x) s

/-- HMAX2 (R114). -/
def execHmax2 (x : Ext) (s : State) : Host.Outcome State Fault Refusal := spanOn (.hmax2 x) (laneHmax2 x) s

end Sys2Proof.Machine
end

