-- ==== Sys2Proof/Machine/Convert.lean ====
section
/-! DEFINITION. Conversions (spec/06 R115; spec/04 R67). -/

namespace Sys2Proof.Machine

/-- The rounding and flush an instruction selects in modB (R115). -/
def Thread.modesB (t : Thread) (x : Ext) : Rnd × Bool := (roundCode t.fmode x.roundB, flushCode t.fmode x.flushB)

/-- A type code names a float (R115). -/
def codeFloat (c : Nat) : Option Fmt :=
  match c with
  | 4 => some f16
  | 5 => some bf16
  | 6 => some f32
  | 7 => some f64
  | _ => none

/-- The width of a type code. -/
def codeWidth (c : Nat) : Nat := if c = 2 ∨ c = 3 ∨ c = 7 then 64 else if c = 4 ∨ c = 5 then 16 else 32

/-- The range of an integer type code (Table 4-1). -/
def codeRange (c : Nat) : Int × Int :=
  let w := codeWidth c
  if c % 2 = 0 then (-(2 ^ (w - 1)), 2 ^ (w - 1) - 1) else (0, 2 ^ w - 1)

/-- A value converted from one type code to another (R67, R115). -/
def convertCode (dst src : Nat) (mode : Rnd) (flush : Bool) (v : Nat) : FRes :=
  let raw := v % 2 ^ codeWidth src
  let (lo, hi) := codeRange dst
  let back := fun (n : Int) => (n % 2 ^ codeWidth dst).toNat
  match codeFloat src, codeFloat dst with
  | some fs, some fd => fd.convert mode flush (fs.read flush raw)
  | some fs, none =>
    let r := toIntF mode lo hi (fs.read flush raw)
    ⟨back r.1, r.2⟩
  | none, some fd => fd.ofInt mode flush (readInt (src % 2 == 0) (codeWidth src) raw)
  | none, none => ⟨back (satInt (readInt (src % 2 == 0) (codeWidth src) raw) lo hi), noFlags⟩

/-- Registers of a type code. -/
def codeWords (c : Nat) : Nat := if codeWidth c = 64 then 2 else 1

/-- CVT. -/
def laneCvt (x : Ext) (t : Thread) : LaneOut :=
  let (mode, flush) := t.modesB x
  let a := t.wide x.a (codeWords x.cvtSrc)
  let r := convertCode x.cvtDst x.cvtSrc mode flush a.v
  outWide x.d (codeWords x.cvtDst) a.p r.bits r.flags .float

/-- CVTPK. -/
def laneCvtpk (x : Ext) (t : Thread) : LaneOut :=
  let (mode, flush) := t.modesB x
  let f := halfFmt (x.modABit 0)
  let a := t.reg x.a
  let b := t.srcB x
  packHalf x.d (a.p || b.p) fun i => f.convert mode flush (f32.read flush (if i = 0 then a.v else b.v).toNat)

/-- CVTX. -/
def laneCvtx (x : Ext) (t : Thread) : LaneOut :=
  let flush := flushCode t.fmode x.flushB
  let f := halfFmt (x.modABit 0)
  let a := t.reg x.a
  let r := f32.convert .rne flush (f.read flush (halfAt a.v (x.immBits 0 0)))
  outWide x.d 1 a.p r.bits r.flags .float

/-- CVT (R115). -/
def execCvt (x : Ext) (s : State) : Host.Outcome State Fault Refusal := spanOn (.cvt x) (laneCvt x) s

/-- CVTPK (R115). -/
def execCvtpk (x : Ext) (s : State) : Host.Outcome State Fault Refusal := spanOn (.cvtpk x) (laneCvtpk x) s

/-- CVTX (R115). -/
def execCvtx (x : Ext) (s : State) : Host.Outcome State Fault Refusal := spanOn (.cvtx x) (laneCvtx x) s

end Sys2Proof.Machine
end

