-- ==== Sys2Proof/Machine/Sfu.lean ====
section
/-! DEFINITION. Special functions and RAND (spec/06 R116, R117, Table 6-6). A special function is one fixed mapping within the
bound of Table 6-6: Config.sfuChoice names a result, taken where the bound admits it; else the exact value rounded to nearest
(log entry 6). The exact values are computed to about 2^-300. -/

namespace Sys2Proof.Machine

/-! ### Exact values, fixed-point with 400 fraction bits -/

/-- One. -/
def fxOne : Int := 2 ^ 400
/-- The logarithm of 2. -/
def fxLn2 : Int := 0xb17217f7d1cf79abc9e3b39803f2f6af40f343267298b62d8a0d175b8baafa2be7b876206debac98559552fb4afa1b10ed2e
/-- The ratio of a circle's circumference to its diameter. -/
def fxPi : Int := 0x3243f6a8885a308d313198a2e03707344a4093822299f31d0082efa98ec4e6c89452821e638d01377be5466cf34e90c6cc0ac
/-- A product. -/
def fxMul (a b : Int) : Int := a * b / fxOne
/-- A quotient. -/
def fxDiv (a b : Int) : Int := a * fxOne / b

/-- m * 2^e in fixed point. -/
def fxOf (neg : Bool) (m : Nat) (e : Int) : Int :=
  let k := e + 400
  let a : Int := if 0 ≤ k then m * 2 ^ k.toNat else m / 2 ^ (-k).toNat
  if neg then -a else a

/-- A power series: the term after `t` at position k is t * x / (the divisor of k). -/
def fxSeries (x : Int) (divisor : Nat → Int) : Nat → Nat → Int → Int
  | 0, _, _ => 0
  | n + 1, k, t => t + fxSeries x divisor n (k + 1) (fxMul t x / divisor k)

/-- The exponential of a number from 0 to 1. -/
def fxExp (x : Int) : Int := fxSeries x (fun k => (k : Int) + 1) 120 0 fxOne

/-- The sine of a number of magnitude at most 4. -/
def fxSin (x : Int) : Int := fxSeries (fxMul x x) (fun k => -((2 * (k : Int) + 2) * (2 * k + 3))) 80 0 x

/-- The cosine of a number of magnitude at most 4. -/
def fxCos (x : Int) : Int := fxSeries (fxMul x x) (fun k => -((2 * (k : Int) + 1) * (2 * k + 2))) 80 0 fxOne

/-- The sum of z^(2k+1) / (2k+1), from the term z^(2k+1). -/
def fxAtanhFrom (z2 : Int) : Nat → Nat → Int → Int
  | 0, _, _ => 0
  | n + 1, k, t => t / (2 * k + 1) + fxAtanhFrom z2 n (k + 1) (fxMul t z2)

/-- The binary logarithm of m * 2^e, m > 0. -/
def fxLog2 (m : Nat) (e : Int) : Int :=
  let k := bitLen m - 1
  let f := fxOf false m (-(k : Int))
  let z := fxDiv (f - fxOne) (f + fxOne)
  (e + k) * fxOne + fxDiv (2 * fxAtanhFrom (fxMul z z) 140 0 z) fxLn2

/-- A fixed-point value with an exponent of its own: v * 2^e. -/
structure Exact where
  v : Int
  e : Int
deriving DecidableEq, Repr

/-- 2^x of a fixed-point number. -/
def exactExp2 (x : Int) : Exact := ⟨fxExp (fxMul (x % fxOne) fxLn2), x / fxOne - 400⟩

/-- tanh of a magnitude in fixed point. -/
def exactTanh (x : Int) : Exact :=
  if 100 * fxOne ≤ x then ⟨fxOne - 1, -400⟩
  else
    let t := fxDiv (2 * x) fxLn2
    let ex := fxExp (fxMul (t % fxOne) fxLn2) * 2 ^ (t / fxOne).toNat
    ⟨fxDiv (ex - fxOne) (ex + fxOne), -400⟩

/-- x less the nearest multiple of a whole turn. -/
def fxReduce (x : Int) : Int := x - (x + fxPi) / (2 * fxPi) * (2 * fxPi)

/-! ### Bounds -/

/-- The bound of a function's row of Table 6-6: ulps of the exact value, or an absolute error of 2^k. -/
inductive Bound where
  | ulps (n : Nat)
  | absolute (k : Int)
deriving DecidableEq, Repr

/-- The exponent of the unit in the last place of an exact value in binary32. -/
def Exact.ulp (x : Exact) : Int := max (x.e + (bitLen x.v.natAbs : Int) - 24) (-149)

/-- The distance between a * 2^ea and b * 2^eb is at most n * 2^k. -/
def withinDyadic (a : Int) (ea : Int) (b : Int) (eb : Int) (n : Nat) (k : Int) : Bool :=
  let e := min (min ea eb) k
  decide ((a * 2 ^ (ea - e).toNat - b * 2 ^ (eb - e).toNat).natAbs ≤ n * 2 ^ (k - e).toNat)

/-- The binary32 number lies within the bound of the exact value. -/
def Bound.admits (b : Bound) (x : Exact) (bits : Nat) : Bool :=
  match f32.read false bits with
  | .fin neg m e =>
    match b with
    | .ulps n => withinDyadic (signedMag neg m) e x.v x.e n x.ulp
    | .absolute k => withinDyadic (signedMag neg m) e x.v x.e 1 k
  | _ => false

/-- The named result where the bound admits it, else the exact value rounded; a tiny one is flushed (R64). -/
def sfuPick (minor : Nat) (a : Word) (flush : Bool) (b : Bound) (x : Exact) : Nat :=
  let choice := Config.sfuChoice minor a % 2 ^ 32
  let bits := if b.admits x choice then choice else (f32.round .rne false (decide (x.v < 0)) x.v.natAbs x.e).bits
  if flush ∧ bits / 2 ^ 23 % 256 = 0 then bits / 2 ^ 31 * 2 ^ 31 else bits

/-- A result given exactly, flushed where it is tiny. -/
def sfuExact (flush neg : Bool) (m : Nat) (e : Int) : FRes := ⟨(f32.round .rne flush neg m e).bits, noFlags⟩

/-- A power of two. -/
def isPow2 (m : Nat) : Bool := decide (0 < m) && m == 2 ^ (bitLen m - 1)

/-! ### The functions (Table 6-6) -/

/-- RCP. DESIGN CHOICE: a reciprocal above the largest finite value may be an infinity, without a flag (log entry 76). -/
def sfuRcp (a : Word) (flush : Bool) (v : FVal) : FRes :=
  match v with
  | .nan _ => ⟨f32.canonNaN, v.invalid⟩
  | .inf n => ⟨f32.zero n, noFlags⟩
  | .fin n m e =>
    if m = 0 then ⟨f32.infinity n, flagDZ⟩
    else if isPow2 m then sfuExact flush n 1 (-(e + (bitLen m - 1 : Nat)))
    else ⟨sfuPick 0 a flush (.ulps 1) ⟨signedMag n (2 ^ 400 / m), -e - 400⟩, noFlags⟩

/-- RSQ. -/
def sfuRsq (a : Word) (flush : Bool) (v : FVal) : FRes :=
  match v with
  | .nan _ => ⟨f32.canonNaN, v.invalid⟩
  | .inf n => if n then ⟨f32.canonNaN, flagNV⟩ else ⟨f32.zero false, noFlags⟩
  | .fin n m e =>
    if m = 0 then ⟨f32.infinity n, flagDZ⟩
    else if n then ⟨f32.canonNaN, flagNV⟩
    else
      let odd := e % 2 != 0
      let m1 := if odd then 2 * m else m
      let e1 := if odd then e - 1 else e
      ⟨sfuPick 1 a flush (.ulps 1) ⟨isqrt (2 ^ 400 / m1), -(e1 / 2) - 200⟩, noFlags⟩

/-- EX2. DESIGN CHOICE: of +∞ it is +∞ without a flag (log entry 76). -/
def sfuEx2 (a : Word) (flush : Bool) (v : FVal) : FRes :=
  match v with
  | .nan _ => ⟨f32.canonNaN, v.invalid⟩
  | .inf n => if n then ⟨f32.zero false, noFlags⟩ else ⟨f32.infinity false, noFlags⟩
  | .fin n m e =>
    let top := e + (bitLen m : Int)
    if !n ∧ 8 ≤ top then ⟨f32.infinity false, flagOF⟩
    else if n ∧ 9 ≤ top then ⟨sfuPick 2 a flush (.ulps 2) ⟨1, -600⟩, noFlags⟩
    else
      let x := fxOf n m e
      let k := x / fxOne
      if x % fxOne = 0 ∧ -149 ≤ k ∧ (0 ≤ e ∨ m % 2 ^ (-e).toNat = 0) then sfuExact flush false 1 k
      else ⟨sfuPick 2 a flush (.ulps 2) (exactExp2 x), noFlags⟩

/-- LG2. -/
def sfuLg2 (a : Word) (flush : Bool) (v : FVal) : FRes :=
  match v with
  | .nan _ => ⟨f32.canonNaN, v.invalid⟩
  | .inf n => if n then ⟨f32.canonNaN, flagNV⟩ else ⟨f32.infinity false, noFlags⟩
  | .fin n m e =>
    if m = 0 then ⟨f32.infinity true, flagDZ⟩
    else if n then ⟨f32.canonNaN, flagNV⟩
    else if isPow2 m then
      let k := e + (bitLen m - 1 : Nat)
      sfuExact flush (decide (k < 0)) k.natAbs 0
    else
      let low := decide (e + (bitLen m : Int) - 1 < -1)
      let high := decide (1 ≤ e + (bitLen m : Int) - 1)
      ⟨sfuPick 3 a flush (if low || high then .ulps 2 else .absolute (-22)) ⟨fxLog2 m e, -400⟩, noFlags⟩

/-- SIN and COS. -/
def sfuTrig (minor : Nat) (a : Word) (flush : Bool) (v : FVal) : FRes :=
  match v with
  | .nan _ => ⟨f32.canonNaN, v.invalid⟩
  | .inf _ => ⟨f32.canonNaN, flagNV⟩
  | .fin n m e =>
    if m = 0 then ⟨if minor = 4 then f32.zero n else 0x3F800000, noFlags⟩
    else if fxOf false m e ≤ 65536 * fxOne then
      let r := fxReduce (fxOf n m e)
      ⟨sfuPick minor a flush (.absolute (-21)) ⟨if minor = 4 then fxSin r else fxCos r, -400⟩, noFlags⟩
    else ⟨sfuPick minor a flush (.absolute 0) ⟨0, -400⟩, noFlags⟩

/-- TANH. -/
def sfuTanh (a : Word) (flush : Bool) (v : FVal) : FRes :=
  match v with
  | .nan _ => ⟨f32.canonNaN, v.invalid⟩
  | .inf n => ⟨f32.pack n 127 0, noFlags⟩
  | .fin n m e =>
    if m = 0 then ⟨f32.zero n, noFlags⟩
    else
      let x := exactTanh (fxOf false m e)
      ⟨sfuPick 6 a flush (.ulps 2) ⟨if n then -x.v else x.v, x.e⟩, noFlags⟩

/-- d := f A, with the flush of modA[4:3] (R116). -/
def laneSfu (f : Word → Bool → FVal → FRes) (x : Ext) (t : Thread) : LaneOut :=
  let flush := flushCode t.fmode x.flushA
  let a := t.reg x.a
  let r := f a.v flush (f32.read flush a.v.toNat)
  outWide x.d 1 a.p r.bits r.flags .float

/-! ### RAND (R117) -/

/-- The rounds of RAND. -/
def randRounds : Nat → Word → Word → Word
  | 0, x, _ => x
  | n + 1, x, k =>
    let y := (x ^^^ k) * 0x9E3779B1
    randRounds n (y ^^^ (y >>> 16)) (k + 0x7F4A7C15)

/-- RAND. -/
def laneRand (x : Ext) : Thread → LaneOut :=
  binary32 x fun a b =>
    let r := randRounds 6 b a
    if x.modABit 0 then BitVec.ofNat 32 (f32.round .rne false false (r >>> 8).toNat (-24)).bits else r

/-- RCP (R116). -/
def execRcp (x : Ext) (s : State) : Host.Outcome State Fault Refusal := spanOn (.rcp x) (laneSfu sfuRcp x) s

/-- RSQ (R116). -/
def execRsq (x : Ext) (s : State) : Host.Outcome State Fault Refusal := spanOn (.rsq x) (laneSfu sfuRsq x) s

/-- EX2 (R116). -/
def execEx2 (x : Ext) (s : State) : Host.Outcome State Fault Refusal := spanOn (.ex2 x) (laneSfu sfuEx2 x) s

/-- LG2 (R116). -/
def execLg2 (x : Ext) (s : State) : Host.Outcome State Fault Refusal := spanOn (.lg2 x) (laneSfu sfuLg2 x) s

/-- SIN (R116). -/
def execSin (x : Ext) (s : State) : Host.Outcome State Fault Refusal := spanOn (.sin x) (laneSfu (sfuTrig 4) x) s

/-- COS (R116). -/
def execCos (x : Ext) (s : State) : Host.Outcome State Fault Refusal := spanOn (.cos x) (laneSfu (sfuTrig 5) x) s

/-- TANH (R116). -/
def execTanh (x : Ext) (s : State) : Host.Outcome State Fault Refusal := spanOn (.tanh x) (laneSfu sfuTanh x) s

/-- RAND (R117). -/
def execRand (x : Ext) (s : State) : Host.Outcome State Fault Refusal := spanOn (.rand x) (laneRand x) s

end Sys2Proof.Machine
end

