-- ==== Sys2Proof/Machine/CrossLane.lean ====
section
/-! DEFINITION. Cross-lane instructions (spec/06 R121 to R124). -/

namespace Sys2Proof.Machine

/-- A cross-lane instruction. -/
def crossOn (i : Instr) (f : Warp → List Nat → Nat → LaneOut) (s : State) : Host.Outcome State Fault Refusal :=
  .next (s.runSpan i fun w g l => f w (g.lanes.filter fun k => (w.thread k).guard i.ext.guard) l)

/-- The segment of a lane: its base. -/
def segBase (w l : Nat) : Nat := l - l % 2 ^ w

/-- The contributing lanes of a segment, ascending. -/
def segLanes (contrib : List Nat) (w l : Nat) : List Nat := (natsFrom (segBase w l) (2 ^ w)).filter fun k => contrib.contains k

/-- The source lane of SHFL, none where it leaves the segment (R122). -/
def shflSource (mode w l k : Nat) : Option Nat :=
  let n := 2 ^ w
  let base := segBase w l
  let q := l - base
  match mode with
  | 0 => if k < n then some (base + k) else none
  | 1 => some (base + (q + k) % n)
  | 2 => if k < n then some (base + (q ^^^ k)) else none
  | _ => if k < n then some (base + ((n - 1 - q) ^^^ k)) else none

/-- SHFL and SHFLX (R122). -/
def laneShfl (words : Nat) (x : Ext) (w : Warp) (contrib : List Nat) (l : Nat) : LaneOut :=
  let t := w.thread l
  let b := t.reg x.b
  if !x.shflConst && b.p then { fault := some (consumed 3) }
  else
    let k := if x.shflConst then x.immBits 10 6 else b.v.toNat
    let src := match shflSource (x.modABits 1 0) (x.immBits 5 3) l k with
      | some n => if contrib.contains n then some n else none
      | none => none
    let v := (w.thread (src.getD l)).wide x.a words
    let valid := (preds7 (x.immBits 2 0)).map fun n => (n, src.isSome)
    { regs := wideWrite x.d words v, preds := valid }

/-- LSH (R122). -/
def laneLsh (x : Ext) (w : Warp) (contrib : List Nat) (l : Nat) : LaneOut :=
  let k := x.immBits 4 0
  let base := segBase x.width5 l
  let src := if x.modABit 0 then l + k else l - k
  let inside := if x.modABit 0 then decide (src < base + 2 ^ x.width5) else decide (base + k ≤ l)
  let v := if inside && contrib.contains src then (w.thread src).reg x.a else (w.thread l).reg x.c
  out32 x.d v.p v.v

/-- VOTE (R123). -/
def laneVote (x : Ext) (w : Warp) (contrib : List Nat) (l : Nat) : LaneOut :=
  let seg := segLanes contrib (x.immBits 2 0) l
  let yes := (seg.filter fun k => (w.thread k).pred (x.modABits 5 3) != x.modB.getLsbD 0).length
  let v := match x.modABits 2 0 with
    | 0 => decide (0 < yes)
    | 1 => yes == seg.length
    | 2 => yes == 0
    | 3 => yes == 0 || yes == seg.length
    | 4 => yes % 2 == 1
    | _ => decide (seg.length < 2 * yes)
  { preds := [(predNum x.d, v)] }

/-- BALLOT (R123). -/
def laneBallot (x : Ext) (w : Warp) (contrib : List Nat) (l : Nat) : LaneOut :=
  let seg := segLanes contrib (x.immBits 2 0) l
  let yes := seg.filter fun k => (w.thread k).pred (x.modABits 2 0) != x.modABit 3
  out32 x.d false (BitVec.ofNat 32 (sumNat (yes.map fun k => 2 ^ (k - segBase (x.immBits 2 0) l))))

/-- MATCH (R123). -/
def laneMatch (x : Ext) (w : Warp) (contrib : List Nat) (l : Nat) : LaneOut :=
  let width := x.immBits 2 0
  let seg := segLanes contrib width l
  let key := fun (k : Nat) => (w.thread k).wide x.a (if x.modABit 0 then 2 else 1)
  let same := seg.filter fun k => (key k).v == (key l).v
  let base := segBase width l
  let v := if x.modABit 1 then same.length * 256 + (same.headD 0 - base) else sumNat (same.map fun k => 2 ^ (k - base))
  out32 x.d (seg.any fun k => (key k).p) (BitVec.ofNat 32 v)

/-- A value on its way through REDUCE or SCAN: its bits, the poison and the flags of what entered it. -/
structure Acc where
  v : Nat
  p : Bool
  flags : Flags
deriving DecidableEq, Repr

/-- One combination (Table 6-8). -/
def reduceOp (op : Nat) (a b : Nat) : FRes :=
  let f := fun (wantMax : Bool) => f32.minmaxF wantMax (f32.read false a) (f32.read false b)
  match op with
  | 0 => ⟨(a + b) % 2 ^ 32, noFlags⟩
  | 1 => ⟨atomPick false true 32 a b, noFlags⟩
  | 2 => ⟨atomPick true true 32 a b, noFlags⟩
  | 3 => ⟨min a b, noFlags⟩
  | 4 => ⟨max a b, noFlags⟩
  | 5 => ⟨a &&& b, noFlags⟩
  | 6 => ⟨a ||| b, noFlags⟩
  | 7 => ⟨a ^^^ b, noFlags⟩
  | 8 => addRNE f32 a b
  | 9 => f false
  | _ => f true

/-- Combine two values. -/
def Acc.combine (op : Nat) (a b : Acc) : Acc :=
  let r := reduceOp op a.v b.v
  ⟨r.bits, a.p || b.p, a.flags ||| b.flags ||| r.flags⟩

/-- Combine two positions, either of which may be absent. DESIGN CHOICE: what is combined with nothing keeps its bits, those of a NaN too
(R124; log entry 75). -/
def combineOpt (op : Nat) (a b : Option Acc) : Option Acc :=
  match a, b with
  | some a, some b => some (a.combine op b)
  | some a, none => some a
  | none, b => b

/-- The identity of an exclusive scan (Table 6-8). -/
def reduceId (op : Nat) : Nat :=
  match op with
  | 1 => 0x7FFFFFFF
  | 2 => 0x80000000
  | 3 => 0xFFFFFFFF
  | 5 => 0xFFFFFFFF
  | 8 => 0x80000000
  | 9 => 0x7F800000
  | 10 => 0xFF800000
  | _ => 0

/-- The value a position holds after s stages of the tree. -/
def treeAt (op : Nat) (leaf : Nat → Option Acc) : Nat → Nat → Option Acc
  | 0, p => leaf p
  | s + 1, p => combineOpt op (treeAt op leaf s p) (treeAt op leaf s (p + 2 ^ s))

/-- What a contributing lane brings. -/
def laneAcc (x : Ext) (w : Warp) (contrib : List Nat) (l : Nat) : Option Acc :=
  if contrib.contains l then some ⟨((w.thread l).reg x.a).v.toNat, ((w.thread l).reg x.a).p, noFlags⟩ else none

/-- The write of a combined value. -/
def Acc.out (d : RegIdx) (a : Acc) : LaneOut := out32 d a.p (BitVec.ofNat 32 a.v) a.flags

/-- REDUCE (R124). -/
def laneReduce (x : Ext) (w : Warp) (contrib : List Nat) (l : Nat) : LaneOut :=
  let width := x.immBits 2 0
  ((treeAt (x.modABits 3 0) (laneAcc x w contrib) width (segBase width l)).getD ⟨0, false, noFlags⟩).out x.d

/-- SCAN (R124). -/
def laneScan (x : Ext) (w : Warp) (contrib : List Nat) (l : Nat) : LaneOut :=
  let op := x.modABits 3 0
  let base := segBase (x.immBits 2 0) l
  let upTo := (natsFrom base (l - base + (if x.modABit 4 then 0 else 1))).map (laneAcc x w contrib)
  ((upTo.foldl (combineOpt op) none).getD ⟨reduceId op, false, noFlags⟩).out x.d

/-- SHFL (R122). -/
def execShfl (x : Ext) (s : State) : Host.Outcome State Fault Refusal := crossOn (.shfl x) (laneShfl 1 x) s

/-- SHFLX (R122). -/
def execShflx (x : Ext) (s : State) : Host.Outcome State Fault Refusal := crossOn (.shflx x) (laneShfl 2 x) s

/-- LSH (R122). -/
def execLsh (x : Ext) (s : State) : Host.Outcome State Fault Refusal := crossOn (.lsh x) (laneLsh x) s

/-- VOTE (R123). -/
def execVote (x : Ext) (s : State) : Host.Outcome State Fault Refusal := crossOn (.vote x) (laneVote x) s

/-- BALLOT (R123). -/
def execBallot (x : Ext) (s : State) : Host.Outcome State Fault Refusal := crossOn (.ballot x) (laneBallot x) s

/-- MATCH (R123). -/
def execMatchKey (x : Ext) (s : State) : Host.Outcome State Fault Refusal := crossOn (.matchKey x) (laneMatch x) s

/-- REDUCE (R124). -/
def execReduce (x : Ext) (s : State) : Host.Outcome State Fault Refusal := crossOn (.reduce x) (laneReduce x) s

/-- SCAN (R124). -/
def execScan (x : Ext) (s : State) : Host.Outcome State Fault Refusal := crossOn (.scan x) (laneScan x) s

end Sys2Proof.Machine
end

