-- ==== Sys2Proof/Machine/Block.lean ====
section
/-! DEFINITION. Block formats and the block instructions (spec/04 R68 to R73; spec/06 R125). -/

namespace Sys2Proof.Machine

/-- mmax and the bias of BQ8, or of BQ4 (R69). -/
def blockMax (bq4 : Bool) : Nat := if bq4 then 3 else 63
/-- The bias of R69. -/
def blockBias (bq4 : Bool) : Int := if bq4 then 128 else 132
/-- The magnitude bits of an element. -/
def blockBits (bq4 : Bool) : Nat := if bq4 then 2 else 6

/-- The value of an element under a header (R68, R69). -/
def blockValue (bq4 : Bool) (ehi elo code : Nat) : FVal :=
  let n := blockBits bq4
  let m := code % 2 ^ n
  let neg := natBit code n
  let e := if natBit code (n + 1) then ehi else elo
  if e = 255 then (if m = 0 then .inf neg else .nan false) else .fin neg m ((e : Int) - blockBias bq4)

/-- A binary32 magnitude in units of 2^-149. -/
def unitsOf (v : FVal) : Nat :=
  match v with
  | .fin _ m e => m * 2 ^ (e + 149).toNat
  | _ => 0

/-- A scale 2^(e - bias) in units of 2^-149. -/
def scaleUnits (bq4 : Bool) (e : Nat) : Nat := 2 ^ ((e : Int) - blockBias bq4 + 149).toNat

/-- A special value. -/
def FVal.special : FVal → Bool
  | .fin _ _ _ => false
  | _ => true

/-- The block of 32 values: its two exponents and whether it holds a special value (R71). -/
def blockExps (bq4 : Bool) (d : Nat) (vs : List FVal) : Nat × Nat × Bool :=
  let special := vs.any FVal.special
  let m := maxNat (vs.map unitsOf)
  let e := (firstWhere (fun e => decide (m ≤ blockMax bq4 * scaleUnits bq4 e)) (natsFrom 0 255)).getD 254
  if special then (255, e, true) else (e, e - d, false)

/-- Units divided by a scale, to nearest with ties to even. -/
def nearestUnits (n scale : Nat) : Nat :=
  let q := n / scale
  let r := n % scale
  if scale < 2 * r ∨ (2 * r = scale ∧ q % 2 = 1) then q + 1 else q

/-- The element of a value: selector, sign, magnitude, its flags (R71). -/
def blockElem (bq4 : Bool) (eh el : Nat) (special : Bool) (v : FVal) : Nat × Flags :=
  let n := blockBits bq4
  let mmax := blockMax bq4
  let code := fun (sel neg : Bool) (m : Nat) => bit01 sel * 2 ^ (n + 1) + bit01 neg * 2 ^ n + m
  match v with
  | .nan _ => (code true false 1, noFlags)
  | .inf neg => (code true neg 0, noFlags)
  | .fin neg _ _ =>
    let u := unitsOf v
    let flagsOf := fun (m scale : Nat) (cut : Bool) =>
      if m * scale = u then noFlags else if cut then flagNX ||| flagOF else flagNX
    let q := nearestUnits u (scaleUnits bq4 el)
    if q ≤ mmax then (code false neg q, flagsOf q (scaleUnits bq4 el) false)
    else if special then (code false neg mmax, flagsOf mmax (scaleUnits bq4 el) true)
    else
      let h := nearestUnits u (scaleUnits bq4 eh)
      (code true neg (min h mmax), flagsOf (min h mmax) (scaleUnits bq4 eh) (decide (mmax < h)))

/-- The values of the 32 lanes: a lane that does not contribute brings +0.0 (R71, R73). -/
def warpBits (x : Ext) (w : Warp) (contrib : List Nat) (l : Nat) : Nat :=
  if contrib.contains l then ((w.thread l).reg x.a).v.toNat else 0

/-- Some contributing lane's input is poisoned. -/
def warpPoison (x : Ext) (w : Warp) (contrib : List Nat) : Bool := contrib.any fun l => ((w.thread l).reg x.a).p

/-- QBLK (R71). -/
def laneQblk (x : Ext) (w : Warp) (contrib : List Nat) (l : Nat) : LaneOut :=
  let bq4 := x.modABit 0
  let value := fun (k : Nat) => f32.read false (warpBits x w contrib k)
  let (eh, el, special) := blockExps bq4 x.imm.toNat ((natsFrom 0 32).map value)
  let (code, flags) := blockElem bq4 eh el special (value l)
  out32 x.d (warpPoison x w contrib) (BitVec.ofNat 32 (eh * 2 ^ 24 + el * 2 ^ 16 + code)) flags

/-- DQBLK (R72). -/
def laneDqblk (x : Ext) (w : Warp) (_ : List Nat) (l : Nat) : LaneOut :=
  let a := (w.thread l).reg x.a
  let v := blockValue (x.modABit 0) (natBits a.v.toNat 31 24) (natBits a.v.toNat 23 16) (natBits a.v.toNat 7 0)
  out32 x.d a.p (BitVec.ofNat 32 (f32.bitsOf v))

/-- One stage of the butterfly over the 32 lanes (R73). -/
def hadStage (st : Nat) (v : List FRes) : List FRes :=
  let get := fun (k : Nat) => (v[k]?).getD ⟨0, noFlags⟩
  (natsFrom 0 32).map fun l =>
    let lower := !natBit l st
    let x := get (if lower then l else l - 2 ^ st)
    let y := get (if lower then l + 2 ^ st else l)
    let a := f32.read false x.bits
    let b := f32.read false y.bits
    let r := f32.addV .rne false a (if lower then b else b.negate)
    ⟨r.bits, (get l).flags ||| r.flags⟩

/-- The butterfly, and its scaling (R73). -/
def hadWarp (scaled : Bool) (v : List FRes) : List FRes :=
  let u := [0, 1, 2, 3, 4].foldl (fun acc st => hadStage st acc) v
  if scaled then u.map fun r =>
      let m := f32.mulF .rne false (f32.read false r.bits) (f32.read false 0x3E3504F3)
      ⟨m.bits, r.flags ||| m.flags⟩
  else u

/-- HAD32 (R73). -/
def laneHad32 (x : Ext) (w : Warp) (contrib : List Nat) (l : Nat) : LaneOut :=
  let out := hadWarp (!x.modABit 0) ((natsFrom 0 32).map fun k => ⟨warpBits x w contrib k, noFlags⟩)
  let r := (out[l]?).getD ⟨0, noFlags⟩
  out32 x.d (warpPoison x w contrib) (BitVec.ofNat 32 r.bits) r.flags

/-- HAD32 (R73, R125). -/
def execHad32 (x : Ext) (s : State) : Host.Outcome State Fault Refusal := crossOn (.had32 x) (laneHad32 x) s

/-- QBLK (R71, R125). -/
def execQblk (x : Ext) (s : State) : Host.Outcome State Fault Refusal := crossOn (.qblk x) (laneQblk x) s

/-- DQBLK (R72, R125). -/
def execDqblk (x : Ext) (s : State) : Host.Outcome State Fault Refusal := crossOn (.dqblk x) (laneDqblk x) s

end Sys2Proof.Machine
end

