-- ==== Sys2Proof/Machine/Build.lean ====
section
/-! DEFINITION. The page tables and the root gang that CREATE builds (spec/14 R266; spec/17 R344). Where the tables stand is the
model's choice (log entry 7). -/

namespace Sys2Proof.Machine

/-- The VA of the system image (R344). -/
def imageVa : Nat := 0x100000000
/-- The VA of the page tables (R344). -/
def tablesVa : Nat := 0x200000000

/-- A table entry (Table 11-3). -/
def pteTable (q : Nat) : Nat := 2 ^ 60 + q
/-- A 64 KiB HBM leaf with r, w and at, and x where asked. -/
def pteLeaf (q : Nat) (x : Bool) : Nat := 2 * 2 ^ 60 + q + 0x1C0 + (if x then 0x200 else 0)

/-- L0 tables of an image of a length. -/
def imageTables (ilen : Nat) : Nat := ceilDiv ilen 2097152
/-- L0 tables that map the tables. -/
def selfTables (ilen : Nat) : Nat := (6 + imageTables ilen) / 31 + 1
/-- Units the tables take. -/
def tableUnits (ilen : Nat) : Nat := 6 + imageTables ilen + selfTables ilen

/-- The entries of the tables of an image at q0: place and value (R344 step 5). -/
def tableEntries (q0 ilen : Nat) : List (Nat × Nat) :=
  let unit := fun k => q0 + ilen + 65536 * k
  let n := imageTables ilen
  [(unit 0, pteTable (unit 1)), (unit 1, pteTable (unit 2)), (unit 1 + 8, pteTable (unit 3)),
   (unit 2 + 8 * 16, pteTable (unit 4)), (unit 3, pteTable (unit 5))] ++
  ((natsFrom 0 n).map fun j => (unit 4 + 8 * j, pteTable (unit (6 + j)))) ++
  ((natsFrom 0 (ilen / 65536)).map fun k => (unit (6 + k / 32) + 8 * (k % 32), pteLeaf (q0 + 65536 * k) true)) ++
  ((natsFrom 0 (selfTables ilen)).map fun j => (unit 5 + 8 * j, pteTable (unit (6 + n + j)))) ++
  ((natsFrom 0 (tableUnits ilen)).map fun k => (unit (6 + n + k / 32) + 8 * (k % 32), pteLeaf (unit k) false))

/-- Write 8-byte entries at partition-physical addresses. -/
def State.writeEntries (s : State) (ports : Nat) : List (Nat × Nat) → State
  | [] => s
  | (q, e) :: rest =>
    match hbmKey ports q with
    | some key => (s.writeNat key 8 e).writeEntries ports rest
    | none => s.writeEntries ports rest

/-- Write bytes at partition-physical addresses. -/
def State.writePhys (s : State) (ports : Nat) : Nat → List Byte → State
  | _, [] => s
  | q, b :: bs =>
    match hbmKey ports q with
    | some key => (s.writeBytes key [⟨b, false⟩]).writePhys ports (q + 1) bs
    | none => s.writePhys ports (q + 1) bs

/-- The region of the lowest die with ports of the partition (R344). -/
def imageBase (ports : Nat) : Nat := (((natsFrom 0 4).filter fun d => portsOn ports d != []).headD 0) * 2 ^ 42

/-- The defaults of Table 17-3. -/
def regDefault (ports n : Nat) : Nat :=
  if n = 2 then 0xFFFFFFFF
  else if n = 8 then ((natsFrom 0 48).filter fun k => natBit ports k).length * Config.portBytes / 131072
  else 0

/-- The registers of a new partition. -/
def regsAtCreate (ports mode : Nat) : List (Nat × Nat) :=
  let deadlineless := smSet 0 [] 0 mode
  let withBudget := smSet 0 deadlineless 2 (regDefault ports 2)
  smSet 0 withBudget 8 (regDefault ports 8)

/-- A partition as CREATE makes it, its image in place, its root launch accepted (R344). -/
def State.makePart (s : State) (p rows ports pool mode ilen keyNo : Nat) (h : Header) : State :=
  let q0 := imageBase ports
  let q : Part :=
    { Part.absent with
        mode := mode, budget := regDefault ports 2, grant := regDefault ports 2, rows := rows, ports := ports, pool := pool, keyNo := keyNo, root := q0 + ilen, image := ilen,
        regs := regsAtCreate ports mode,
        frames := [(q0 / 65536, ilen / 65536 + tableUnits ilen)],
        launches := [(0, { Launch.start h 0 0 with walk := 1 })] }
  (s.setPart p q).writeEntries ports (tableEntries q0 ilen)

/-- The root gang runs on core 0 of the lowest requester port (R266, R340). -/
def rootCore (rows : Nat) : Nat := (((natsFrom 0 32).filter fun r => natBit rows r).headD 0) * 8

/-- Start a partition's root gang from its entry, with zeroed state (R266, R317). -/
def State.startRoot (s : State) (p core : Nat) : State :=
  let g := rootGang p
  let h := s.header g
  let s1 := s.setGang g { Gang.fresh with state := .running, die := core / 64, topCore := core }
  s1.startWg ⟨g, 0⟩ h core

/-- A root gang takes its core if that has room for it. -/
def State.placeRoot (s : State) (p core : Nat) : State :=
  if s.coreFits p core (s.header (rootGang p)) then s.startRoot p core else s

/-- The 64-byte header at the start of an image (R27). -/
def headerOf (bs : List Byte) : Header :=
  let at_ := fun o n => natOfBytes ((bs.drop o).take n)
  { entry := at_ 0 8, params := at_ 8 8, handler := at_ 16 8, donebar := at_ 24 8, shape := at_ 32 8, e2 := at_ 40 4,
    e3 := at_ 44 4, e4 := at_ 48 4, e5 := at_ 52 4, control := at_ 56 8 }

/-- An address of a header: R6 and its alignment. -/
def vaOk (va align : Nat) : Bool := canonical va && va % align == 0

/-- R28, for a pool share that leaves `limit` bytes of a slice; a paired launch counts its warps and registers twice (R307). -/
def Header.valid (h : Header) (limit : Nat) : Bool :=
  let ws := (natsFrom 0 6).map h.width
  let dims := shapeDims h.gshape
  decide (5 ≤ h.width 0) && decide (h.width 0 ≤ 10) && decide (h.width 1 ≤ 4) && decide (sumNat ws ≤ 64) &&
  ((natsFrom 0 6).all fun i => decide (1 ≤ h.extent i) && decide (h.extent i ≤ 2 ^ h.width i)) &&
  decide (h.e0 ≤ 1024) && decide (h.gshape ≤ 4) && h.e1 == dims.1 * dims.2 &&
  h.regs % 16 == 0 && decide (16 ≤ h.regs) && decide (h.regs ≤ 496) &&
  decide (h.copies * h.regs * 32 * h.warps ≤ Config.coreRegs) && decide (h.copies * h.warps ≤ Config.warpSlots) &&
  decide (h.scratch ≤ limit) && vaOk h.entry 4 && canonical h.params && vaOk h.handler 4 && vaOk h.donebar 16 &&
  h.control / 2 ^ 43 == 0

/-- The header of a program placed from outside: 32 threads, 496 registers, 4,095 spill words, no handler. -/
def placedHeader : Header :=
  { entry := imageVa, params := imageVa, handler := 0, donebar := 0,
    shape := 496 * 2 ^ 55 + 1 * 2 ^ 47 + 32 * 2 ^ 36 + 5, e2 := 1, e3 := 1, e4 := 1, e5 := 1,
    control := 255 * 2 ^ 27 + 15 * 2 ^ 35 + 4095 * 2 ^ 15 }

/-- A program in partition 0, as a CREATE with that image leaves it, its root warp to move next (log entry 9). -/
def State.placeProgram (s : State) (bs : List Byte) : State :=
  let s1 := (s.makePart 0 1 1 0 0 65536 1 placedHeader).writePhys 1 0 bs
  { s1.startRoot 0 0 with turns := [⟨1, .warp ⟨⟨rootGang 0, 0⟩, 0⟩, []⟩] }

end Sys2Proof.Machine
end

