-- ==== Sys2Proof/Machine/Issue.lean ====
section
/-! DEFINITION. Fetching and decoding an instruction for a group in the order of Table 2-9, what holds it back, and the passing of
time (spec/02 R36, R45, R50, R51; spec/05 R82, R90; spec/14 R276 to R278). -/

namespace Sys2Proof.Machine

/-! ### Fetch (R36) -/

/-- What a fetch comes to. -/
inductive Fetched where
  | words (ws : List Word)
  | fault (f : FaultInfo)
  | wait
  | broken
deriving DecidableEq, Repr

/-- A fault of a fetch: the failing word's address, %frinfo zero (R36). -/
def fetchFault (kind : Nat) (pc : Dword) : FaultInfo := ⟨kind, pc.toNat, 0⟩

/-- One instruction word. DESIGN CHOICE: a fetch that meets R235 is an unmapped one, for 0x09 has no decode class (log entry 71). -/
def State.fetchWord (s : State) (t : ThreadId) (pc : Dword) : State × Fetched :=
  let va := pc.toNat
  let inWindows := decide (0xFE000000000000 ≤ va % 2 ^ 56)
  if canonical va && inWindows then (s, .fault (fetchFault 0x05 pc))
  else
    let (s1, c) := s.translate (s.who t) .fetch va 4
    match c with
    | .ok key snap _ _ =>
      let bs := if snap then s1.viewBytes t.gang va key 4 else s1.farBytes key 4
      (s1.countRead t.gang.part key bs, .words [BitVec.ofNat 32 (natOfBytes (bs.map PByte.v))])
    | .bad f => (s1, .fault (fetchFault (if f.kind = 0x05 then 0x05 else 0x04) pc))
    | .resolve why =>
      let entry := (((s1.warp t.warp).cur.map Issue.entry).getD pc).toNat
      (s1.askSettle t.gang.part (s1.dieOf t.warp) t.gang why { who := .thread t, va := va, pc := va, entry := entry }, .wait)
    | .hold => (s1, .wait)
    | .broken => (s1, .broken)

/-- The words of an instruction by its length bits (R35). -/
def lengthWords (w0 : Word) : Nat :=
  match (field w0 0 2).toNat with
  | 0 => 1
  | 1 => 3
  | 2 => 3
  | _ => 5

/-- Further words of an instruction. -/
def State.fetchMore (s : State) (t : ThreadId) (pc : Dword) (got : List Word) : Nat → State × Fetched
  | 0 => (s, .words got)
  | n + 1 =>
    match s.fetchWord t pc with
    | (s1, .words ws) => s1.fetchMore t (pc + 4) (got ++ ws) n
    | (s1, r) => (s1, r)

/-- All the words of the instruction at a PC. -/
def State.fetch (s : State) (t : ThreadId) (pc : Dword) : State × Fetched :=
  match s.fetchWord t pc with
  | (s1, .words ws) => s1.fetchMore t (pc + 4) ws (lengthWords (ws.headD 0) - 1)
  | r => r

/-! ### Decode (R51) -/

/-- A register index of a launch with n registers per thread (R10). -/
def regBelow (n r : Nat) : Bool := decide (r < n) || decide (496 ≤ r)

/-- The index of a field is below n, with its pair, quad or run (R10, R11, R85, R169). -/
def useBelow (n : Nat) (u : Use) (i : RegIdx) : Bool :=
  match u with
  | .name => regBelow n i.toNat
  | .run k => decide (i.toNat + k ≤ n)
  | u => (u.regs i).all (regBelow n)

/-- The live count a YIELD carries (R41). -/
def liveCount (i : Instr) : Nat :=
  match i with
  | .yieldBase live _ => live.toNat
  | .yield x => x.modB.toNat
  | _ => 0

/-- Every index an instruction names is below the launch's n, a live count within it (Table 2-9 step 4). -/
def regsOk (i : Instr) (n : Nat) : Bool :=
  let f := i.form
  let x := i.ext
  useBelow n f.d x.d && useBelow n f.a x.a && useBelow n f.b x.b && useBelow n f.c x.c && decide (16 * liveCount i ≤ n)

/-- A SPILL or FILL slot is below the launch's spillw (R100). -/
def slotOk (i : Instr) (spillw : Nat) : Bool :=
  match i with
  | .spill x => decide (x.imm.toNat < spillw)
  | .fill x => decide (x.imm.toNat < spillw)
  | _ => true

/-- The lane may run SYS instructions (R50). -/
def State.privileged (s : State) (id : WarpId) (t : Thread) (pc : Dword) : Bool :=
  id.gang.isRoot ||
    (t.inHandler && decide (imageVa ≤ pc.toNat) && decide (pc.toNat < imageVa + (s.part id.gang.part).image))

/-- What decode finds for a group at its PC; of a fault, whether it is a boundary instruction's. -/
inductive Decoded where
  | instr (i : Instr)
  | fault (lane : Nat) (f : FaultInfo) (boundary : Bool)
  | wait
  | broken
deriving DecidableEq, Repr

/-- The instruction belongs to the open span: windows hold no boundary instruction and end with the span (R45, R79). -/
def Issue.inWindow (g : Issue) (i : Instr) : Bool := !i.form.boundary && decide (g.count < 24)

/-- Steps 2 to 5 of Table 2-9 on the words of an instruction. -/
def State.decodeFor (s : State) (id : WarpId) (g : Issue) (ws : List Word) : Decoded :=
  let low := g.lanes.headD 0
  let h := s.header id.gang
  let w0 := (ws.headD 0).toNat
  match decodeWords ws with
  | .error _ => .fault low ⟨0x01, g.pc.toNat, w0⟩ false
  | .ok i =>
    let bad := fun (kind : Nat) => Decoded.fault low ⟨kind, g.pc.toNat, w0⟩ i.form.boundary
    if !slotOk i h.spillw then bad 0x01
    else
      let w := s.warp id
      let unpriv := if i.form.privileged then g.lanes.filter fun l => !s.privileged id (w.thread l) g.pc else []
      match unpriv with
      | l :: _ => .fault l ⟨0x05, g.pc.toNat, w0⟩ i.form.boundary
      | [] =>
        if !regsOk i h.regs then bad 0x02
        else if (i.ext.la != 0 && !i.form.longLatency) || (g.inWindow i && windowClash g.windows i) then bad 0x03
        else .instr i

/-- The slices of the words of an instruction that stand off the device, engine by engine (R350). -/
def State.fetchSlices (s : State) (t : ThreadId) (pc : Dword) (n : Nat) : List Slice :=
  let far := (natsFrom 0 n).flatMap fun i =>
    let va := (pc + BitVec.ofNat 64 (4 * i)).toNat
    match s.walk t.gang.part va with
    | .leaf l =>
      (match s.leafKey t.gang.part (s.dieOf t.warp) l.entry l.size va with
       | some key => if s.viewed t.gang (pteKind l.entry) va then [] else s.homeSlices (.fetch t (s.engineOf (s.routeTo key) key)) key 4 (s.header t.gang).prio
       | none => [])
    | _ => []
  (distinct (far.map Slice.owner)).filterMap fun o =>
    let mine := far.filter fun x => x.owner == o
    mine.head?.map fun x => { x with bytes := sumNat (mine.map Slice.bytes) }

/-- Fetch and decode for a group; an instruction off the device comes in slices (R350). -/
def State.decodeAt (s : State) (id : WarpId) (g : Issue) : State × Decoded :=
  let t : ThreadId := ⟨id, g.lanes.headD 0⟩
  match s.fetch t g.pc with
  | (s1, .words ws) =>
    (match s1.takeSlices id.gang.part (s1.fetchSlices t g.pc ws.length) with
     | (s2, true) => (s2, s2.decodeFor id g ws)
     | (s2, false) => (s2, .wait))
  | (s1, .fault f) => (s1, .fault (g.lanes.headD 0) f false)
  | (s1, .wait) => (s1, .wait)
  | (s1, .broken) => (s1, .broken)

/-! ### What holds an instruction (R45, R82, R90, R295) -/

/-- Some lane waits on the scoreboard for a register the instruction names (R45). -/
def Warp.scoreboard (w : Warp) (g : Issue) (i : Instr) : Bool :=
  g.lanes.any fun l => (w.thread l).busy i.namesRegs i.namesPreds

/-- An SREAD of an accumulator's NaN counter waits while a posted round targets the accumulator (R183). -/
def State.nancBusy (s : State) (id : WarpId) (i : Instr) : Bool :=
  match i with
  | .sread x =>
    x.immBits 7 0 == 0x20 && (s.core (s.coreOf id)).matQ.any fun e => natBits e.op.sword.toNat 18 16 == x.immBits 10 8
  | _ => false

/-- In the slow gear each instruction completes, its loads' data returned, before the next (R295). -/
def Warp.slowBusy (w : Warp) (g : Issue) : Bool :=
  g.phase.isSlow && g.lanes.any fun l => (w.thread l).pends.any fun p => !p.committed && !p.ready

/-- The gang stands in no way of its cooperative launch: it holds its cores and runs, or is done (R271, R287). -/
def GangState.lets : GangState → Bool
  | .running => true
  | .draining => true
  | .retiring => true
  | .retired => true
  | _ => false

/-- A debug-log record of a gang still waits for its page: it comes before the trap, the relaunch or the end that follows (R300). -/
def State.recordWaits (s : State) (g : GangId) : Bool := (s.part g.part).held.any fun o => o.before g

/-- The gang's threads issue (R273, R276); those of a gang that is discarded up to their next span boundary (R98); those of a running
gang of a cooperative launch only while every other gang of it has its cores (R271, R279, R287). -/
def State.issues (s : State) (g : GangId) : Bool :=
  !s.recordWaits g &&
  match (s.gang g).state with
  | .running => !(s.header g).cooperative || (s.gangsOf g.part g.launch).all fun x => (s.gang x).state.lets
  | .draining => true
  | .retiring => true
  | _ => false

/-! ### Time (R21, R352) -/

/-- The cores of a partition on which a gang is resident. -/
def State.busyCores (s : State) (p : Nat) : Nat :=
  ((natsFrom 0 256).filter fun c => s.wgs.any fun w =>
    w.1.gang.part == p && w.2.core == c && (s.gang w.1.gang).state.resident).length

/-- Partition time goes on by n clk where the partition is not suspended. -/
def State.tickPart (s : State) (p n : Nat) : State :=
  if (s.part p).suspended then s
  else (s.modPart p fun q => { q with ticks := q.ticks + n }).count p 0x01 (n * s.busyCores p)

/-- n clk pass. -/
def State.pass (s : State) (n : Nat) : State :=
  if n = 0 then s
  else
    let s1 := (tbKeys s.parts).foldl (fun acc p => acc.tickPart p n) { s with clk := s.clk + n }
    { s1 with gangs := s1.gangs.map fun g =>
        (g.1, if g.2.state = .running then { g.2 with runClk := g.2.runClk + n } else g.2) }

end Sys2Proof.Machine
end

