-- ==== Sys2Proof/Machine/Move.lean ====
section
/-! DEFINITION. Moves, special registers and convergence setup (spec/01 R16, R17, R20 to R26; spec/06 R118 to R120). -/

namespace Sys2Proof.Machine

/-- The warp whose group the instruction belongs to. -/
def State.here (s : State) : WarpId := s.focus.getD ⟨⟨⟨0, 0, 0⟩, 0⟩, 0⟩

/-- A boundary instruction over the group (R84). -/
def boundaryOn (i : Instr) (act : State → ThreadId → Dword → Dword → State × LaneEnd) (s : State) :
    Host.Outcome State Fault Refusal := .next (s.runLanes i false act)

/-- MOV. -/
def laneMov (x : Ext) (t : Thread) : LaneOut :=
  let words := if x.modABit 0 then 2 else 1
  { regs := wideWrite x.d words (t.srcWide x words) }

/-- MOVI. -/
def laneMovi (x : Ext) (_ : Thread) : LaneOut :=
  let words := if x.modABit 0 then 2 else 1
  { regs := wideWrite x.d words ⟨(x.simm % 2 ^ 64).toNat, false⟩ }

/-- The thread's number in its workgroup. -/
def ThreadId.inWg (t : ThreadId) : Nat := 32 * t.warp.warp + t.lane

/-- Work-identifier field i of a thread (R24, R25). -/
def State.widField (s : State) (t : ThreadId) (i : Nat) : Nat :=
  (s.header t.warp.wg.gang).fieldOf (ThreadId.inWg t) t.warp.wg.member t.warp.wg.gang.gang i

/-- The work identifier of a thread (R24). -/
def State.widOf (s : State) (t : ThreadId) : Nat :=
  (s.header t.warp.wg.gang).wid (ThreadId.inWg t) t.warp.wg.member t.warp.wg.gang.gang

/-- The flags a SREAD of %fflags returns: every launched lane's (R23, R118). -/
def Warp.flagsOf (w : Warp) : Flags := w.lanes.foldl (fun a l => a ||| l.2.fflags) 0

/-- The NaN counter of an accumulator slot of the workgroup; zero where it is not the workgroup's (R118, R19). -/
def State.nancOf (s : State) (w : WgId) (slot : Nat) : Nat :=
  match tbGet (s.core (s.wg w).core).accs slot with
  | some a => if a.owner = w then a.nanc else 0
  | none => 0

/-- The value of a special register in a lane (Table 1-4). -/
def State.special (s : State) (w : Warp) (t : ThreadId) (x : Ext) : Nat :=
  let th := w.thread t.lane
  let q := s.part t.warp.wg.gang.part
  match x.sreg with
  | 0x00 => t.lane
  | 0x01 => t.warp.warp
  | 0x02 => (s.wg t.warp.wg).slot
  | 0x03 => t.warp.wg.member
  | 0x04 => t.warp.wg.gang.gang
  | 0x05 => s.coreOf t.warp
  | 0x06 => s.dieOf t.warp
  | 0x08 => s.widField t 0
  | 0x09 => s.widField t 1
  | 0x0A => s.widField t 2
  | 0x0B => s.widField t 3
  | 0x0C => s.widField t 4
  | 0x0D => s.widField t 5
  | 0x0E => s.widOf t
  | 0x10 => th.fmode.toNat
  | 0x11 => w.flagsOf.toNat
  | 0x12 => q.ticks % 2 ^ 64
  | 0x13 => q.time % 2 ^ 64
  | 0x14 => th.vanish.toNat
  | 0x18 => th.fr.kind.toNat
  | 0x19 => th.fr.pc.toNat
  | 0x1A => th.fr.entry.toNat
  | 0x1B => th.fr.lane.toNat
  | 0x1C => th.fr.addr.toNat
  | 0x1D => th.fr.info.toNat
  | _ => s.nancOf t.warp.wg (x.immBits 10 8)

/-- SREAD (R118). -/
def laneSread (s : State) (x : Ext) (w : Warp) (_ : Issue) (l : Nat) : LaneOut :=
  { regs := wideWrite x.d (if x.sregWide then 2 else 1) ⟨s.special w ⟨s.here, l⟩ x, false⟩ }

/-- WID: fields lo to hi, right-aligned (R118). -/
def laneWid (s : State) (x : Ext) (_ : Warp) (_ : Issue) (l : Nat) : LaneOut :=
  let h := s.header s.here.wg.gang
  let lo := h.fieldLo (x.immBits 2 0)
  let hi := h.fieldLo (x.immBits 5 3) + h.width (x.immBits 5 3)
  { regs := wideWrite x.d 2 ⟨s.widOf ⟨s.here, l⟩ / 2 ^ lo % 2 ^ (hi - lo), false⟩ }

/-- SWRITE in one lane (R119). -/
def actSwrite (i : Instr) (x : Ext) (s : State) (t : ThreadId) (here _ : Dword) : State × LaneEnd :=
  let th := s.thread t
  let n := x.sreg
  let v := th.wide x.a (if n = 0x19 then 2 else 1)
  if v.p then (s, .fault (consumed 3))
  else if (n = 0x10 ∧ 256 ≤ v.v) ∨ (n = 0x11 ∧ 32 ≤ v.v) then (s, .fault (wordFault 0x01 i here))
  else if n = 0x10 then (s.setThread t { th with fmode := BitVec.ofNat 32 v.v }, .go)
  else if n = 0x11 then (s.setThread t { th with fflags := BitVec.ofNat 5 v.v }, .go)
  else (s.setThread t { th with fr := { th.fr with pc := BitVec.ofNat 64 v.v } }, .go)

/-- A convergence register before its first KSET. -/
def KReg.absent : KReg := ⟨0, .idle, 0, 0, none, []⟩

/-- A convergence register of a workgroup. -/
def Wg.kreg (w : Wg) (k : Nat) : KReg := (tbGet w.k k).getD KReg.absent

/-- Put a convergence register. -/
def State.setKreg (s : State) (w : WgId) (k : Nat) (v : KReg) : State :=
  s.setWg w { s.wg w with k := tbSet (s.wg w).k k v }

/-- KSET in one lane (R120, Table 6-7). -/
def actKset (x : Ext) (s : State) (t : ThreadId) (here _ : Dword) : State × LaneEnd :=
  let a := (s.thread t).reg x.a
  let n := if x.modB = 1 then a.v.toNat else x.imm.toNat
  let k := x.modABits 2 0
  let r := (s.wg t.warp.wg).kreg k
  if x.modB = 1 ∧ a.p then (s, .fault (consumed 3))
  else if n < 1 ∨ 1024 < n then (s, .fault (hereFault 0x1C 0 here))
  else
    match r.state with
    | .opened =>
      if r.count = 0 then (s.setKreg t.warp.wg k { r with expected := n }, .go) else (s, .fault (hereFault 0x1C 0 here))
    | _ => (s.setKreg t.warp.wg k { KReg.absent with state := .opened, expected := n }, .go)

/-- MOV_BASE (R38). -/
def execMovBase (d b : RegIdx) (lit : Option Dword) (s : State) : Host.Outcome State Fault Refusal :=
  spanOn (.movBase d b lit) (laneMov (Ext.ofRR d b false lit)) s

/-- MOV (R118). -/
def execMov (x : Ext) (s : State) : Host.Outcome State Fault Refusal := spanOn (.mov x) (laneMov x) s

/-- MOVI (R118). -/
def execMovi (x : Ext) (s : State) : Host.Outcome State Fault Refusal := spanOn (.movi x) (laneMovi x) s

/-- SREAD (R118). -/
def execSread (x : Ext) (s : State) : Host.Outcome State Fault Refusal := .next (s.runSpan (.sread x) (laneSread s x))

/-- WID (R118). -/
def execWid (x : Ext) (s : State) : Host.Outcome State Fault Refusal := .next (s.runSpan (.wid x) (laneWid s x))

/-- SWRITE (R119). -/
def execSwrite (x : Ext) (s : State) : Host.Outcome State Fault Refusal := boundaryOn (.swrite x) (actSwrite (.swrite x) x) s

/-- KSET (R120). -/
def execKset (x : Ext) (s : State) : Host.Outcome State Fault Refusal := boundaryOn (.kset x) (actKset x) s

end Sys2Proof.Machine
end

