-- ==== Sys2Proof/Machine/LoadStore.lean ====
section
/-! DEFINITION. LD, LDPARAM, PREFETCH and ST, with the operand log of the lanes whose page Badger has to settle (spec/07 R126 to
R135, R142; spec/10 R197). -/

namespace Sys2Proof.Machine

/-! ### Addresses (R126, R127) -/

/-- The address register or pair of a lane (R126). -/
def Thread.base (t : Thread) (x : Ext) : PVal := t.wide x.a (if x.baseIsPair then 2 else 1)

/-- Steps 1 and 2 of Table 7-2: the address an instruction forms; a poisoned address register is consumed. -/
def Thread.address (t : Thread) (x : Ext) (need : Need) (offset : Int) : Except FaultInfo Nat :=
  let b := t.base x
  let window : Int := match x.addrMode with
    | 1 => 0xFFFE000000000000
    | 2 => 0xFFFF000000000000
    | _ => 0
  if b.p then .error ⟨0x11, ((window + b.v + offset) % 2 ^ 64).toNat, 17⟩ else formAddress x.addrMode need b.v offset

/-- The bytes of a data operand, each with the operand's poison. -/
def dataBytes (size : Nat) (v : PVal) : List PByte := (natBytes size v.v).map fun b => ⟨b, v.p⟩

/-! ### What a lane's access comes to -/

/-- The end of one lane's part of a memory instruction: what its thread takes, a fault, an access logged for a page (its address,
its captured data, what its thread takes under the number of the log), a hold of the whole instruction, an uncorrectable entry. -/
inductive MemEnd where
  | done (upd : Thread → Thread)
  | fault (f : FaultInfo)
  | log (why : SettleWhy) (va : Nat) (data : PVal) (upd : Nat → Thread → Thread)
  | hold
  | broken

/-- A thread's pending load. -/
structure LoadReq where
  va : Nat
  size : Nat
  regs : List Nat
  signed : Bool
  acquire : Option Nat
  index : Nat
  pc : Dword
  window : Nat
deriving DecidableEq, Repr

/-- The pending result of a load of a number. -/
def LoadReq.pend (r : LoadReq) (id : Nat) : Pend :=
  { id := id, pc := r.pc, regs := r.regs, preds := [], window := r.window, committed := false, sealing := false, ready := false,
    signed := r.signed, words := [], bits := [] }

/-- The latest of a lane's buffered stores before a position that covers a byte. -/
def Thread.ownByte (t : Thread) (key index : Nat) : Option (Nat × PByte) :=
  let hits := t.stores.filter fun st => decide (st.index < index) && decide (st.key ≤ key) && decide (key < st.key + st.bytes.length)
  (leastBy (fun a b => decide (b.index < a.index)) hits).map fun st => (st.index, (st.bytes[key - st.key]?).getD ⟨0, false⟩)

/-- The latest of a lane's logged stores before a position that covers a byte. -/
def loggedByte (log : List LogEntry) (lane va index : Nat) : Option (Nat × PByte) :=
  let hits := log.filter fun e => e.lane == lane && decide (e.index < index) && decide (e.va ≤ va) &&
    decide (va < e.va + e.data.length)
  (leastBy (fun a b => decide (b.index < a.index)) hits).map fun e =>
    (e.index, let d := (e.data[va - e.va]?).getD .zero; ⟨d.v.setWidth 8, d.p⟩)

/-- The bytes a load takes from its lane's own earlier stores (R132). -/
def Warp.forward (w : Warp) (lane : Nat) (r : LoadReq) (key : Nat) : List (Nat × PByte) :=
  (natsFrom 0 r.size).filterMap fun i =>
    match (w.thread lane).ownByte (key + i) r.index, loggedByte w.log lane (r.va + i) r.index with
    | some a, some b => some (i, if a.1 < b.1 then b.2 else a.2)
    | some a, none => some (i, a.2)
    | none, some b => some (i, b.2)
    | none, none => none

/-- The bytes of a cell a load takes from its lane's own earlier stores: their join, for each of them is one (R132, R142, R145). -/
def Warp.forwardCell (w : Warp) (lane : Nat) (r : LoadReq) (key type : Nat) : List (Nat × PByte) :=
  match (w.thread lane).stores.filter fun st => decide (st.index < r.index) && st.key == key with
  | [] => []
  | st :: sts =>
    let value := fun (x : StoreRec) => natOfBytes (x.bytes.map PByte.v)
    let v := sts.foldl (fun acc x => joinCell type acc (value x)) (value st)
    let bad := (st :: sts).any fun x => anyPoison x.bytes
    (natsFrom 0 r.size).zip ((natBytes r.size v).map fun b => ⟨b, bad⟩)

/-- A logged load of the lane has to be performed before a later load: it acquires, or reads the same line (R130, R203). -/
def Warp.loadWaits (w : Warp) (lane va : Nat) : Bool :=
  w.log.any fun e => e.lane == lane &&
    (match e.i with
     | .ld x => decide (x.modABits 5 3 ≠ 0) || e.va / 64 == va / 64
     | .ldparam _ => e.va / 64 == va / 64
     | _ => false)

/-- The type code of a region entry. -/
def State.regionType (s : State) (p entry : Nat) : Nat := ((tbGet (s.part p).regions entry).map Region.type).getD 0

/-- What a load of a lane takes from its own stores (R132). -/
def State.forwardTo (s : State) (t : ThreadId) (r : LoadReq) (key : Nat) (region : Option Nat) : List (Nat × PByte) :=
  match region with
  | some e => (s.warp t.warp).forwardCell t.lane r key (s.regionType t.gang.part e)
  | none => (s.warp t.warp).forward t.lane r key

/-- A load of one lane (R132): checked, sent to its home, its result pending. -/
def State.tryLoad (s : State) (t : ThreadId) (r : LoadReq) : State × MemEnd :=
  match s.translate (s.who t) .load r.va r.size with
  | (s1, .ok key snap recorded region) =>
    (s1.send t { va := r.va, key := key, size := r.size, op := .load (s1.forwardTo t r key region), acquire := r.acquire,
                 snap := snap, recorded := recorded, region := region },
     .done fun th => { th with pends := th.pends ++ [r.pend s1.nextId] })
  | (s1, .bad f) => (s1, .fault f)
  | (s1, .resolve why) => (s1, .log why r.va ⟨0, false⟩ fun id th => { th with pends := th.pends ++ [r.pend id] })
  | (s1, .hold) => (s1, .hold)
  | (s1, .broken) => (s1, .broken)

/-- A store of one lane. -/
structure StoreReq where
  va : Nat
  size : Nat
  release : Option Nat
  index : Nat
deriving DecidableEq, Repr

/-- What a store to a region cell writes, none where it is not above the replica (R142). -/
def State.regionStore (s : State) (p entry key size v : Nat) : Option Nat :=
  match tbGet (s.part p).regions entry with
  | none => some v
  | some r =>
    let w := cellOperand r.type v
    if aboveCell r.type w (s.readNat key size) then some w else none

/-- A store of one lane (R133, R142): checked, and placed in its span store buffer. -/
def State.tryStore (s : State) (t : ThreadId) (r : StoreReq) (data : PVal) : State × MemEnd :=
  match s.translate (s.who t) .store r.va r.size with
  | (s1, .ok key snap _ region) =>
    if region.isSome && s1.linePending t key r.size then (s1, .hold)
    else
    let v := data.v % 2 ^ (8 * r.size)
    match (match region with
      | some e => s1.regionStore t.gang.part e key r.size v
      | none => some v) with
    | none => (s1, .fault ⟨0x08, r.va, s1.regionType t.gang.part (region.getD 0)⟩)
    | some w =>
      if data.p ∧ boundOff key ∧ !snap then (s1, .fault ⟨0x11, 0, 88⟩)
      else
        (s1, .done fun th =>
          { th with stores := th.stores ++
              [⟨r.index, r.va, key, dataBytes r.size ⟨w, data.p⟩, r.release, region, snap⟩] })
  | (s1, .bad f) => (s1, .fault f)
  | (s1, .resolve why) => (s1, .log why r.va data fun _ th => th)
  | (s1, .hold) => (s1, .hold)
  | (s1, .broken) => (s1, .broken)

/-! ### The instruction over its group -/

/-- The lanes above go no further: a hold, an uncorrectable entry. -/
def MemEnd.stops (e : MemEnd) : Bool :=
  match e with
  | .done _ => false
  | .fault _ => false
  | .log _ _ _ _ => false
  | _ => true

/-- The lanes of a group in ascending order. -/
def memWalk (act : State → Nat → State × MemEnd) : State → List Nat → State × List (Nat × MemEnd)
  | s, [] => (s, [])
  | s, l :: ls =>
    let (s1, e) := act s l
    if e.stops then (s1, [(l, e)])
    else
      let (s2, es) := memWalk act s1 ls
      (s2, (l, e) :: es)

/-- The entry of the span a lane is in, or its PC. -/
def State.entryOf (s : State) (t : ThreadId) : Dword :=
  match (s.warp t.warp).cur with
  | some g => if g.lanes.contains t.lane then g.entry else (s.thread t).pc
  | none => (s.thread t).pc

/-- The settlement the page of a lane's access at a PC waits for is asked for (R128). -/
def State.askAt (s : State) (t : ThreadId) (why : SettleWhy) (va : Nat) (pc : Dword) : State :=
  s.askSettle t.gang.part (s.dieOf t.warp) t.gang why { who := .thread t, va := va, pc := pc.toNat, entry := (s.entryOf t).toNat }

/-- The settlement the page of the access a lane issues waits for (R128). -/
def State.askFor (s : State) (t : ThreadId) (why : SettleWhy) (va : Nat) : State :=
  s.askAt t why va (((s.warp t.warp).cur.map Issue.pc).getD (s.thread t).pc)

/-- The settlements the lanes' pages wait for. -/
def State.askAll (s : State) (id : WarpId) (ends : List (Nat × MemEnd)) : State :=
  ends.foldl (fun acc e => match e.2 with
    | .log why va _ _ => acc.askFor ⟨id, e.1⟩ why va
    | _ => acc) s

/-- A lane takes its end: in its own thread, in its shadow, in the operand log. -/
def Warp.takeMem (w : Warp) (i : Instr) (g : Issue) (size no : Nat) (e : Nat × MemEnd) (id : Nat) : Warp :=
  let both := fun (f : Thread → Thread) =>
    { w with lanes := tbModify w.lanes e.1 f, shadow := w.shadow.map fun sh => tbModify sh e.1 f }
  match e.2 with
  | .done upd => both upd
  | .fault f => both fun t => t.noteFault f (g.count + 1) g.pc
  | .log _ va data upd =>
    let w1 := both (upd id)
    let bytes := (dataBytes size data).map fun b => (⟨b.v.setWidth 32, b.p⟩ : PWord)
    { w1 with log := w.log ++ [⟨e.1, no, g.count + 1, g.pc, i, va, bytes⟩] }
  | _ => w

/-- Each lane takes its end, a logged one under the next number; the log knows the instruction by a number of its own. -/
def State.takeMems (s : State) (id : WarpId) (i : Instr) (g : Issue) (size no : Nat) : List (Nat × MemEnd) → State
  | [] => s
  | e :: es =>
    let s1 := s.setWarp id ((s.warp id).takeMem i g size no e s.nextId)
    ({ s1 with nextId := s1.nextId + 1 }).takeMems id i g size no es

/-- A lane's end is a logged access. -/
def MemEnd.isLog : MemEnd → Bool
  | .log _ _ _ _ => true
  | _ => false

/-- The lanes of a list issue an instruction. -/
def issueLanes (ls : List Nat) (now : Nat) (lanes : List (Nat × Thread)) : List (Nat × Thread) :=
  lanes.map fun l => if ls.contains l.1 then (l.1, l.2.issued now) else l

/-- The lanes that take a memory instruction in this step: all of the group, in the slow gear its next one (R295). -/
def Issue.turnLanes (g : Issue) : List Nat := if g.phase.isSlow then (g.lanes.drop g.passed).take 1 else g.lanes

/-- The group past a memory instruction, or in the slow gear past one lane of it (R295). -/
def Issue.passLane (g : Issue) (i : Instr) : Issue :=
  if g.phase.isSlow ∧ g.passed + 1 < g.lanes.length then { g with passed := g.passed + 1, held := some i } else g.advance i

/-- A memory span instruction over the focused group (R34, R127, R128, R295): held whole while a lane's target moves or the operand
log is full; in the slow gear lane by lane, each held while its page is settled. -/
def State.runMem (s : State) (i : Instr) (size : Nat) (act : State → ThreadId → Issue → State × MemEnd) : State :=
  match s.focus with
  | none => s
  | some id =>
    let w := s.warp id
    match w.cur with
    | none => s
    | some g =>
      let slow := g.phase.isSlow
      let turn := g.turnLanes
      let (s1, ends) := memWalk (fun a l => act a ⟨id, l⟩ g) s (turn.filter fun l => (w.thread l).guard i.ext.guard)
      let logs := ends.any fun e => e.2.isLog
      let stuck := ends.any (fun e => match e.2 with
        | .hold => true
        | _ => false)
      let broken := (ends.filter fun e => match e.2 with
        | .broken => true
        | _ => false).head?
      let found := (ends.filterMap fun e => match e.2 with
        | .fault f => some (e.1, f.atIndex (g.count + 1))
        | _ => none).head?
      if stuck ∨ (logs ∧ (slow ∨ 4 ≤ w.logged)) then s.askAll id ends
      else
        match w.overrun i turn with
        | some l => s.markOverrun id l
        | none =>
        match broken with
        | some b => s1.gangFault id.gang 0x1B
            { thread := some ⟨id, b.1⟩, pc := g.pc.toNat, entry := g.entry.toNat, core := s.coreOf id }
        | none =>
        let s2 := s1.askAll id ends
        let s3 := if g.passed = 0 then s2.countIssue id else s2
        let w3 := s3.warp id
        let w4 := { w3 with lanes := issueLanes turn s.clk w3.lanes, shadow := w3.shadow.map (issueLanes turn s.clk) }
        match (if slow then found else none) with
        | some f => (s3.setWarp id { w4 with cur := some { g with phase := g.phase.find f } }).takeMems id i g size s3.nextId ends
        | none => (s3.setWarp id { w4 with cur := some (g.passLane i) }).takeMems id i g size s3.nextId ends

/-! ### The instructions -/

/-- The acquire or release scope of modA[5:3], none for relaxed (R131). -/
def Ext.accScope (x : Ext) : Option Nat := if x.modABits 5 3 = 0 then none else some (x.modABits 5 3 - 1)

/-- The size of LD, LDPARAM and ST in bytes (R131). -/
def accSize (x : Ext) : Nat := 2 ^ x.sizeCode

/-- The registers of a size. -/
def accRegs (x : Ext) (i : RegIdx) : List Nat :=
  let n := if x.sizeCode = 4 then 4 else if x.sizeCode = 3 then 2 else 1
  if i = 0 then (natsFrom 0 n).map fun _ => 0 else natsFrom i.toNat n

/-- The load an LD makes in a lane. -/
def loadOf (x : Ext) (g : Issue) (va : Nat) : LoadReq :=
  { va := va, size := accSize x, regs := accRegs x x.d, signed := x.modB.getLsbD 3, acquire := Ext.accScope x,
    index := g.count + 1, pc := g.pc, window := x.la.toNat }

/-- LD in one lane (R132). -/
def actLd (x : Ext) (s : State) (t : ThreadId) (g : Issue) : State × MemEnd :=
  match (s.thread t).address x .load x.simm with
  | .error f => (s, .fault f)
  | .ok va => if (s.warp t.warp).loadWaits t.lane va then (s, .hold) else s.tryLoad t (loadOf x g va)

/-- LDPARAM in one lane (R134). -/
def actLdparam (x : Ext) (s : State) (t : ThreadId) (g : Issue) : State × MemEnd :=
  let params := (s.header t.gang).params
  let va := (params + x.imm.toNat) % 2 ^ 64
  if params = 0 then (s, .fault ⟨0x04, va, 4⟩)
  else if (s.warp t.warp).loadWaits t.lane va then (s, .hold)
  else s.tryLoad t { loadOf x g va with acquire := none }

/-- The data of ST: a register, a pair, a quad, or the literal (R133). -/
def Thread.stData (t : Thread) (x : Ext) : PVal :=
  match x.lit with
  | some v => ⟨v.toNat, false⟩
  | none => t.wide x.b (if x.sizeCode = 4 then 4 else if x.sizeCode = 3 then 2 else 1)

/-- ST in one lane (R133, R142). -/
def actSt (x : Ext) (s : State) (t : ThreadId) (g : Issue) : State × MemEnd :=
  match (s.thread t).address x .store x.simm with
  | .error f => (s, .fault f)
  | .ok va =>
    s.tryStore t { va := va, size := accSize x, release := Ext.accScope x, index := g.count + 1 }
      ((s.thread t).stData x)

/-- LD (R132). -/
def execLd (x : Ext) (s : State) : Host.Outcome State Fault Refusal := .next (s.runMem (.ld x) (accSize x) (actLd x))

/-- LDPARAM (R134). -/
def execLdparam (x : Ext) (s : State) : Host.Outcome State Fault Refusal := .next (s.runMem (.ldparam x) (accSize x) (actLdparam x))

/-- ST (R133). -/
def execSt (x : Ext) (s : State) : Host.Outcome State Fault Refusal := .next (s.runMem (.st x) (accSize x) (actSt x))

/-- PREFETCH writes nothing and raises nothing; the buffer it fills is not visible (R135). -/
def execPrefetch (x : Ext) (s : State) : Host.Outcome State Fault Refusal := .next (s.runSpan (.prefetch x) (onThread fun _ => {}))

end Sys2Proof.Machine
end

