-- ==== Sys2Proof/Machine/Atomic.lean ====
section
/-! DEFINITION. ATOM, CAS and RED (spec/07 R136 to R138). -/

namespace Sys2Proof.Machine

/-- A boundary access whose page Badger has to settle: the lane is held and issues again (R128). -/
def State.waitPage (s : State) (t : ThreadId) (why : SettleWhy) (va : Nat) : State × LaneEnd :=
  (s.askFor t why va, .hold)

/-- A lane that acts at its step and has to wait keeps its place on its paths (R214). -/
def State.holdPlace (s : State) (t : ThreadId) (e : LaneEnd) : State × LaneEnd :=
  (s.modThread t fun th => { th with arrived := some (th.arrived.getD s.nextId) }, e)

/-- A read-modify-write that a lane makes: its width in bytes, its operation, whether it waits for the old value and takes two registers
of it, whether an operand is poisoned (R136, R137). -/
structure Rmw where
  size : Nat
  op : AccOp
  waits : Bool
  wide : Bool
  poisoned : Bool
deriving DecidableEq, Repr

/-- The registers of an atomic's operands. -/
def atomWords (wide : Bool) : Nat := if wide then 2 else 1

/-- The number of words, lowest first. -/
def natOfWords : List Word → Nat
  | [] => 0
  | w :: ws => w.toNat + 4294967296 * natOfWords ws

/-- A number from captured words. -/
def ofWords (ws : List PWord) : PVal := ⟨natOfWords (ws.map PWord.v), ws.any PWord.p⟩

/-- The operands of an atomic, as the operand log captures them: b, and c of a CAS (R128). -/
def Thread.rmwWords (t : Thread) (i : Instr) : List PWord :=
  let take := fun (r : RegIdx) (n : Nat) => (natsFrom 0 n).map fun j => t.regAt r j
  match i with
  | .cas x => take x.b (atomWords (x.atomType == 2)) ++ take x.c (atomWords (x.atomType == 2))
  | i => take i.ext.b (atomWords i.ext.atomWide)

/-- The read-modify-write of an instruction with captured operands. -/
def rmwOf (i : Instr) (ws : List PWord) : Rmw :=
  match i with
  | .cas x =>
    let wide := x.atomType == 2
    let b := ofWords (ws.take (atomWords wide))
    let c := ofWords (ws.drop (atomWords wide))
    ⟨if wide then 8 else 4, .cas b.v c.v b.p c.p, true, wide, b.p || c.p⟩
  | .atom x => let b := ofWords ws; ⟨atomBytes x.atomOp x.atomType, .atom x.atomOp x.atomType b.v b.p true, true, x.atomWide, b.p⟩
  | i =>
    let x := i.ext
    let b := ofWords ws
    ⟨atomBytes x.atomOp x.atomType, .atom x.atomOp x.atomType b.v b.p false, false, x.atomWide, b.p⟩

/-- How a lane goes on after its atomic is sent under a number: it waits for the old value, or a RED completes (R137). -/
def Rmw.sent (r : Rmw) (x : Ext) (id : Nat) (mates : List Nat) (next : Dword) : LaneEnd :=
  if r.waits then .park (.atomic id x.d.toNat r.wide mates next) else .go

/-- A read-modify-write of one lane at an address: checked, sent to its home (R137); where Badger has to settle its page, its operands are
captured (R128). -/
def State.atomicAt (s : State) (t : ThreadId) (i : Instr) (va : Nat) (ws : List PWord) (next : Dword) : State × LaneEnd :=
  let x := i.ext
  let r := rmwOf i ws
  match s.translate (s.who t) .atomic va r.size with
  | (s1, .ok key snap recorded region) =>
    if r.poisoned ∧ boundOff key ∧ !snap then (s1, .fault ⟨0x11, 0, 88⟩)
    else
      ((s1.soil t.gang key).send t
        { va := va, key := key, size := r.size, op := r.op, acquire := x.acquireScope, release := x.releaseScope, sc := x.sequenced,
          snap := snap, recorded := recorded, region := region },
       r.sent x s1.nextId [] next)
  | (s1, .bad f) => (s1, .fault f)
  | (s1, .resolve why) => (s1.askAt t why va (s.thread t).pc, .log va ws)
  | (s1, .hold) => (s1, .hold)
  | (s1, .broken) => (s1, .broken)

/-- ATOM, CAS or RED in one lane (R137). -/
def actRmw (i : Instr) (s : State) (t : ThreadId) (_ next : Dword) : State × LaneEnd :=
  match (s.thread t).address i.ext .atomic i.ext.simm16 with
  | .error f => (s, .fault f)
  | .ok va => s.atomicAt t i va ((s.thread t).rmwWords i) next

/-- ATOM (R137). -/
def execAtom (x : Ext) (s : State) : Host.Outcome State Fault Refusal := .next (s.runLogged (.atom x) true (actRmw (.atom x)))

/-- CAS (R137). -/
def execCas (x : Ext) (s : State) : Host.Outcome State Fault Refusal := .next (s.runLogged (.cas x) true (actRmw (.cas x)))

/-- RED (R137). -/
def execRed (x : Ext) (s : State) : Host.Outcome State Fault Refusal := .next (s.runLogged (.red x) true (actRmw (.red x)))

end Sys2Proof.Machine
end

