-- ==== Sys2Proof/Machine/LatticeOps.lean ====
section
/-! DEFINITION. JOIN, JINC, LDLT, LDLTN and XFLUSH, and the values Owl sends (spec/07 R139 to R146; spec/12 R239 to R248). -/

namespace Sys2Proof.Machine

/-- The cell width an instruction names (R139). -/
def Ext.cellBytes (x : Ext) : Nat := 4 * 2 ^ x.modABits 1 0

/-- JINC in a region other than GCOUNT has a record of its own (Table 12-3). -/
def jincFault (f : FaultInfo) : FaultInfo := if f.kind = 0x09 ∧ f.info = 2 then { f with info := 3 } else f

/-- A lattice update of one lane: checked, sent to its replica (R141, R143, R248). DESIGN CHOICE: a poisoned operand is judged after the
checks of Table 7-2 (log entry 72). -/
def State.sendJoin (s : State) (t : ThreadId) (x : Ext) (size : Nat) (poisoned : Bool) (op : AccOp)
    (record : FaultInfo → FaultInfo) : State × LaneEnd :=
  match (s.thread t).address x .join x.simm16 with
  | .error f => (s, .fault f)
  | .ok va =>
    match s.translate (s.who t) .join va size with
    | (s1, .ok key _ recorded region) =>
      if poisoned then (s1, .fault (consumed 6))
      else
        ((s1.soil t.gang key).send t
          { va := va, key := key, size := size, op := op, release := x.releaseScope, recorded := recorded, region := region,
            waits := if x.ordering = 2 then s1.coreStores t else [] }, .go)
    | (s1, .bad f) => (s1, .fault (record f))
    | (s1, .resolve why) => s1.waitPage t why va
    | (s1, .hold) => (s1, .hold)
    | (s1, .broken) => (s1, .broken)

/-- JOIN in one lane (R141). -/
def actJoin (x : Ext) (s : State) (t : ThreadId) (_ _ : Dword) : State × LaneEnd :=
  let b := (s.thread t).wide x.b (Ext.cellBytes x / 4)
  s.sendJoin t x (Ext.cellBytes x) b.p (.join b.v) id

/-- JINC in one lane (R143). -/
def actJinc (x : Ext) (s : State) (t : ThreadId) (_ _ : Dword) : State × LaneEnd :=
  let b := (s.thread t).reg x.b
  s.sendJoin t x 16 b.p (.jinc b.v.toNat (s.dieOf t.warp)) jincFault

/-- A lane writes a cell and its predicate (R144). -/
def Thread.takeCell (t : Thread) (x : Ext) (cell : Nat) (met : Bool) : Thread :=
  (t.writeRegs (wideWrite x.d (Ext.cellBytes x / 4) ⟨cell, false⟩)).writePred (predNum x.c) met

/-- The value a lane takes of a cell, with what it learns: the local replica's, or, after a race of scopes, an earlier one that it still
may see, where this one meets the threshold or none is asked for (R144, R200, R201). -/
def State.lookCell (s : State) (t : ThreadId) (x : Ext) (key size type thr : Nat) (once : Bool) : State × Nat × Sync :=
  let now := s.readBytes key size
  let (s1, bs, d) := s.lookAt t s.nextId key x.acquireScope now
  let old := natOfBytes (bs.map PByte.v)
  if once || metCell type old thr then (s1, old, d)
  else
    let (s2, e) := s.takeFrom t s.nextId key size x.acquireScope (s.tops key size) (s.newRaces t key size x.acquireScope)
    (s2, natOfBytes (now.map PByte.v), e)

/-- LDLT, or LDLTN, which never parks, in one lane (R144). DESIGN CHOICE: a poisoned threshold is judged after the checks of Table 7-2 (log
entry 72). -/
def actLdlt (once : Bool) (x : Ext) (s : State) (t : ThreadId) (_ next : Dword) : State × LaneEnd :=
  let th := s.thread t
  let size := Ext.cellBytes x
  match th.address x .threshold 0 with
  | .error f => (s, .fault f)
  | .ok va =>
    match s.translate (s.who t) .threshold va size with
    | (s1, .ok key _ _ region) =>
      let thr := th.wide x.b (if size = 4 then 1 else 2)
      let type := s1.regionType t.gang.part (region.getD 16)
      let left := if x.immBits 15 0 = 0 then none else some (x.immBits 15 0 * 1024)
      if thr.p then (s1, .fault (consumed 6))
      else if s1.stepWaits t key size then s1.holdPlace t .hold
      else
      let s1 := s1.countRead t.gang.part key (s1.readBytes key size)
      if anyPoison (s1.readBytes key size) then (s1, .fault (consumed 2))
      else if once || metCell type (s1.readNat key size) thr.v then
        let (s2, cell, d) := s1.lookCell t x key size type thr.v once
        let s3 := s2.noteSync t d
        (s3.setThread t ((s3.thread t).takeCell x cell (metCell type cell thr.v)), .go)
      else (s1, .park (.ldlt x va key thr.v left (s1.gang t.gang).runClk next))
    | (s1, .bad f) => (s1, .fault f)
    | (s1, .resolve why) => s1.waitPage t why va
    | (s1, .hold) => (s1, .hold)
    | (s1, .broken) => (s1, .broken)

/-- A lane parked at LDLT waits no longer: it takes the cell as it is and clears its predicate (R144, R237); a poisoned cell it consumes
(R243). -/
def State.ldltAsIs (s : State) (t : ThreadId) : State :=
  match (s.thread t).wait with
  | .ldlt x _ key _ _ _ next =>
    let size := Ext.cellBytes x
    let bs := s.readBytes key size
    let s1 := s.countRead t.gang.part key bs
    if anyPoison bs then s1.takeFault t (consumed 2) (next - 12) (next - 12) (next - 12)
    else
      let (s2, d) := s1.takeFrom t s1.nextId key size x.acquireScope (s1.tops key size) (s1.newRaces t key size x.acquireScope)
      (s2.noteSync t d).modThread t fun th =>
        { (th.writeRegs (wideWrite x.d (size / 4) ⟨natOfBytes (bs.map PByte.v), false⟩)).writePred (predNum x.c) false with
            wait := .ready, pc := next }
  | _ => s

/-! ### Owl's deltas (R245 to R247) -/

/-- Owl sends the value of a cell from a die to another (R245). -/
def State.sendCell (s : State) (p entry off src dest : Nat) : State :=
  match tbGet (s.part p).regions entry with
  | none => s
  | some r =>
    match s.replicaKey p src (r.base + off) with
    | none => s
    | some key =>
      let bs := s.readBytes key (cellWidth r.type)
      let d : Delta := ⟨s.nextId, p, entry, off, dest, natOfBytes (bs.map PByte.v), anyPoison bs, s.toldIn key (cellWidth r.type), s.clk⟩
      { s.countPoison p bs with deltas := s.deltas ++ [d], nextId := s.nextId + 1 }

/-- The cells of a region that carry a mark on a die. -/
def Die.markedCells (d : Die) (p entry : Nat) : List Nat :=
  distinct ((d.marks.filter fun m => m.part == p && m.entry == entry).map Mark.off)

/-- Clear a region's marks on a die for the destinations a test accepts. -/
def Die.clearMarks (d : Die) (p entry : Nat) (hit : Nat → Bool) : Die :=
  { d with marks := d.marks.filter fun m => !(m.part == p && m.entry == entry && hit m.dest) }

/-- XFLUSH's extra round: every marked cell of the region to every other live die (R247). -/
def State.flushRegion (s : State) (p entry die : Nat) : State :=
  let offs := (s.die die).markedCells p entry
  let dests := (s.diesOf p).filter fun d => d != die
  let s1 := offs.foldl (fun acc off => dests.foldl (fun a d => a.sendCell p entry off die d) acc) s
  s1.modDie die fun d => d.clearMarks p entry fun _ => true

/-- XFLUSH in one lane (R146, R247): the round leaves once the lane's earlier joins are performed. -/
def actXflush (x : Ext) (s : State) (t : ThreadId) (_ _ : Dword) : State × LaneEnd :=
  match (s.thread t).address x .flush 0 with
  | .error f => (s, .fault f)
  | .ok va =>
    match s.translate (s.who t) .flush va 1 with
    | (s1, .ok _ _ _ region) =>
      if (s1.accessesOf t).any fun a => a.region == region then (s1, .hold)
      else (s1.flushRegion t.gang.part (region.getD 16) (s1.dieOf t.warp), .go)
    | (s1, .bad f) => (s1, .fault f)
    | (s1, .resolve why) => s1.waitPage t why va
    | (s1, .hold) => (s1, .hold)
    | (s1, .broken) => (s1, .broken)

/-- JOIN (R141). -/
def execJoin (x : Ext) (s : State) : Host.Outcome State Fault Refusal := boundaryOn (.join x) (actJoin x) s

/-- JINC (R143). -/
def execJinc (x : Ext) (s : State) : Host.Outcome State Fault Refusal := boundaryOn (.jinc x) (actJinc x) s

/-- LDLT (R144). -/
def execLdlt (x : Ext) (s : State) : Host.Outcome State Fault Refusal := boundaryOn (.ldlt x) (actLdlt false x) s

/-- LDLTN (R144). -/
def execLdltn (x : Ext) (s : State) : Host.Outcome State Fault Refusal := boundaryOn (.ldltn x) (actLdlt true x) s

/-- XFLUSH (R146). -/
def execXflush (x : Ext) (s : State) : Host.Outcome State Fault Refusal := boundaryOn (.xflush x) (actXflush x) s

end Sys2Proof.Machine
end

