-- ==== Sys2Proof/Machine/Fence.lean ====
section
/-! DEFINITION. FENCE and QFENCE (spec/07 R147, R148; spec/10 R199, R202). -/

namespace Sys2Proof.Machine

/-- A fence still waits: a release for what comes before it and for the acquires that tell it what that is, an acquire for the loads
before it (R130, R147, R202). -/
def State.fenceWaits (s : State) (t : ThreadId) (x : Ext) : Bool :=
  (x.releaseScope.isSome && (s.releasing t x.scope || s.acquireWaits t != [])) || (x.acquires && s.acquiring t)

/-- FENCE in one lane: it is held until what it orders before it has reached its scope's point; its own step is its place in the
scope's sequencer (R202). -/
def actFence (x : Ext) (s : State) (t : ThreadId) (_ _ : Dword) : State × LaneEnd :=
  if s.fenceWaits t x then (s, .hold)
  else (s.fenceRoles t x.scope x.releaseScope.isSome x.acquires x.sequenced, .go)

/-- The commands a lane issued to a queue of a before-mask that are not complete (R148). -/
def Core.issuedBy (c : Core) (mask : Nat) (t : ThreadId) : List Nat :=
  let of := fun (q : List Cmd) => (q.filter fun x => x.srcs.contains t).map Cmd.id
  (if natBit mask 0 then of c.copyQ else []) ++ (if natBit mask 1 then of c.bulkQ else []) ++
  (if natBit mask 2 then of c.mcastQ else []) ++
  (if natBit mask 3 then (c.matQ.filter fun e => e.signers.contains t).map MatEntry.id else [])

/-- QFENCE in one lane: a marker enters every after-queue (R148). -/
def actQfence (x : Ext) (s : State) (t : ThreadId) (_ _ : Dword) : State × LaneEnd :=
  let core := s.coreOf t.warp
  let wait := (s.core core).issuedBy (x.immBits 3 0) t
  let after := (natsFrom 0 4).filter fun k => natBit (x.immBits 7 4) k
  (if wait = [] then s
   else s.modCore core fun c =>
     { c with fences := after.foldl (fun acc k => tbSet acc k (((tbGet acc k).getD []) ++ wait)) c.fences }, .go)

/-- FENCE (R147). -/
def execFence (x : Ext) (s : State) : Host.Outcome State Fault Refusal := boundaryOn (.fence x) (actFence x) s

/-- QFENCE (R148). -/
def execQfence (x : Ext) (s : State) : Host.Outcome State Fault Refusal := boundaryOn (.qfence x) (actQfence x) s

end Sys2Proof.Machine
end

