-- ==== Sys2Proof/Machine/Barrier.lean ====
section
/-! DEFINITION. Sector barriers of the lanes, WSYNC and GSYNC (spec/07 R149 to R156). -/

namespace Sys2Proof.Machine

/-- The key lies in scratch: a slice, outside every lattice region (R149). -/
def scratchKey (key : Nat) (region : Option Nat) : Bool := isSram key && region.isNone

/-- A BAR instruction's address, checked: what it is done with, or how the lane ends (R149). -/
def State.onBarrier (s : State) (t : ThreadId) (x : Ext) (need : Need) (fresh : Bool) (act : State → Nat → State × LaneEnd) :
    State × LaneEnd :=
  match (s.thread t).address x need 0 with
  | .error f => (s, .fault f)
  | .ok va =>
    match s.translate (s.who t) need va 16 with
    | (s1, .ok key _ _ region) =>
      if !scratchKey key region then (s1, .fault ⟨0x05, va, 0x55⟩)
      else if !fresh && !s1.tagged key then (s1, .fault ⟨0x0A, va, 0x57⟩)
      else if s1.stepWaits t key 16 then s1.holdPlace t .hold
      else act s1 key
    | (s1, .bad f) => (s1, .fault f)
    | (s1, .resolve why) => s1.waitPage t why va
    | (s1, .hold) => (s1, .hold)
    | (s1, .broken) => (s1, .broken)

/-- A barrier object is written and its line tagged; its waiters re-test (R151). -/
def State.barInit (s : State) (key reload : Nat) : State :=
  let s1 := s.writeNat key 16 (barMake 0 false 0 reload reload)
  ({ s1 with tags := nsInsert s1.tags key, barSync := tbErase s1.barSync key }).barWake key

/-- BARINIT in one lane (R151). -/
def actBarinit (x : Ext) (s : State) (t : ThreadId) (_ _ : Dword) : State × LaneEnd :=
  s.onBarrier t x .barWrite true fun s1 key => (s1.barInit key x.imm.toNat, .go)

/-- BARARR in one lane: its earlier stores are released at gang scope first (R152). -/
def actBararr (x : Ext) (s : State) (t : ThreadId) (_ _ : Dword) : State × LaneEnd :=
  s.onBarrier t x .barWrite false fun s1 key =>
    if s1.releasing t 2 then s1.holdPlace t .hold
    else (s1.barApply key true (x.modABit 0) (ceilDiv x.imm.toNat 32 : Nat) (s1.knowsOf t s1.nextId), .go)

/-- The phase a BARWAIT or BARTEST names, none where its register is poisoned (R153). -/
def Thread.barNamed (t : Thread) (x : Ext) : Option Nat :=
  if x.modABit 0 then (if (t.reg x.b).p then none else some ((t.reg x.b).v.toNat % 16)) else some (x.immBits 3 0)

/-- BARWAIT in one lane (R153): its return is an acquire at gang scope. DESIGN CHOICE: a poisoned Reg(b) is judged after the checks of the
address and the tag, and after what stands before the lane on its way (log entry 72). -/
def actBarwait (x : Ext) (s : State) (t : ThreadId) (_ next : Dword) : State × LaneEnd :=
  s.onBarrier t x .barRead false fun s1 key =>
    let o := s1.readNat key 16
    match (s1.thread t).barNamed x with
    | none => (s1, .fault (consumed 3))
    | some n =>
      if barPhase o = n then (s1, .park (.barrier key n (predNum x.c) next))
      else (s1.setThread t (((s1.thread t).writePred (predNum x.c) (!barError o)).learn (s1.barSyncOf key).done), .go)

/-- BARTEST in one lane (R153); a poisoned Reg(b) is judged as BARWAIT's (log entry 72). -/
def actBartest (x : Ext) (s : State) (t : ThreadId) (_ _ : Dword) : State × LaneEnd :=
  s.onBarrier t x .barRead false fun s1 key =>
    match (s1.thread t).barNamed x with
    | none => (s1, .fault (consumed 3))
    | some n => (s1.setThread t ((s1.thread t).writePred (predNum x.c) (barPhase (s1.readNat key 16) != n)), .go)

/-- BARDROP in one lane: the tag goes, the waiters become ready (R154). -/
def actBardrop (x : Ext) (s : State) (t : ThreadId) (_ _ : Dword) : State × LaneEnd :=
  s.onBarrier t x .barWrite false fun s1 key => (({ s1 with tags := nsErase s1.tags key, barSync := tbErase s1.barSync key }).barWake key, .go)

/-! ### WSYNC and GSYNC (R156) -/

/-- A lane has arrived at its workgroup's WSYNC. -/
def Wait.atWsync : Wait → Bool
  | .wsync _ => true
  | .exited => true
  | _ => false

/-- A lane has arrived at its gang's GSYNC. -/
def Wait.atGsync : Wait → Bool
  | .gsync _ => true
  | .exited => true
  | _ => false

/-- A lane released from WSYNC, with what all its lanes knew. -/
def Thread.leaveWsync (t : Thread) (ks : List Known) : Thread :=
  match t.wait with
  | .wsync next => { t.learn ks with wait := .ready, pc := next }
  | _ => t

/-- A lane released from GSYNC, with what all its lanes knew. -/
def Thread.leaveGsync (t : Thread) (ks : List Known) : Thread :=
  match t.wait with
  | .gsync next => { t.learn ks with wait := .ready, pc := next }
  | _ => t

/-- The last arrival at a WSYNC releases every lane parked there (R156). -/
def State.wsyncTest (s : State) (w : WgId) : State :=
  if (tbKeys s.warps).all fun v => !(v.wg == w) || (s.warp v).launched.all fun l => ((s.warp v).thread l).wait.atWsync then
    let ks := s.meet (fun t => t.warp.wg == w) (.group w)
    s.mapThreads fun t th => if t.warp.wg = w then th.leaveWsync ks else th
  else s

/-- The last arrival at a GSYNC releases every lane parked there (R156). -/
def State.gsyncTest (s : State) (g : GangId) : State :=
  if (tbKeys s.warps).all fun v => !(v.gang == g) || (s.warp v).launched.all fun l => ((s.warp v).thread l).wait.atGsync then
    let ks := s.meet (fun t => t.gang == g) (.gang g)
    s.mapThreads fun t th => if t.gang = g then th.leaveGsync ks else th
  else s

/-- A lane has ended or arrived: the barriers it takes part in are tested (R156). -/
def State.syncTest (s : State) (w : WgId) : State := (s.wsyncTest w).gsyncTest w.gang

/-- WSYNC in one lane: it waits as a fence at group scope, then arrives; its release and acquire are those of the last arrival (R156).
DESIGN CHOICE: it takes no part in a race of scopes (log entry 11). -/
def actWsync (s : State) (t : ThreadId) (_ next : Dword) : State × LaneEnd :=
  if s.acquiring t then (s, .hold) else (s, .park (.wsync next))

/-- GSYNC in one lane: it waits as a fence at gang scope, then arrives (R156). -/
def actGsync (s : State) (t : ThreadId) (_ next : Dword) : State × LaneEnd :=
  if s.acquiring t || s.releasing t 2 then (s, .hold) else (s, .park (.gsync next))

/-- BARINIT (R151). -/
def execBarinit (x : Ext) (s : State) : Host.Outcome State Fault Refusal := boundaryOn (.barinit x) (actBarinit x) s

/-- BARARR (R152). -/
def execBararr (x : Ext) (s : State) : Host.Outcome State Fault Refusal := boundaryOn (.bararr x) (actBararr x) s

/-- BARWAIT (R153). -/
def execBarwait (x : Ext) (s : State) : Host.Outcome State Fault Refusal := boundaryOn (.barwait x) (actBarwait x) s

/-- BARTEST (R153). -/
def execBartest (x : Ext) (s : State) : Host.Outcome State Fault Refusal := boundaryOn (.bartest x) (actBartest x) s

/-- BARDROP (R154). -/
def execBardrop (x : Ext) (s : State) : Host.Outcome State Fault Refusal := boundaryOn (.bardrop x) (actBardrop x) s

/-- WSYNC (R156). -/
def execWsync (x : Ext) (s : State) : Host.Outcome State Fault Refusal :=
  .next ((s.runLanes (.wsync x) false actWsync).wsyncTest s.here.wg)

/-- GSYNC (R156). -/
def execGsync (x : Ext) (s : State) : Host.Outcome State Fault Refusal :=
  .next ((s.runLanes (.gsync x) false actGsync).gsyncTest s.here.wg.gang)

end Sys2Proof.Machine
end

