-- ==== Sys2Proof/Machine/Tile.lean ====
section
/-! DEFINITION. Tile entries: TILEDEF, TILEFREE and TILEQ (spec/07 R157, R158). -/

namespace Sys2Proof.Machine

/-- The home an address has now, found without any effect: a window byte, or a byte of a mapped page. -/
def State.quietKey (s : State) (who : Who) (va : Nat) : Option Nat :=
  if 2 ^ 55 ≤ va % 2 ^ 56 then
    (match s.translateWindow who .tile va 1 with
     | .ok key _ _ _ => some key
     | _ => none)
  else
    match s.walk who.gang.part va with
    | .leaf l => s.leafKey who.gang.part who.die l.entry l.size va
    | _ => none

/-- A tile's own entry at a number (R158). -/
def Core.ownTile (c : Core) (w : WgId) (n : Nat) : Option Tile :=
  match tbGet c.tiles n with
  | some t => if t.owner = w then some t else none
  | none => none

/-- Change the state of a tile entry. -/
def State.setTile (s : State) (core n : Nat) (f : Tile → Tile) : State :=
  s.modCore core fun c => { c with tiles := tbModify c.tiles n f }

/-- How the state of a tile entry answers a use (Table 7-12). -/
inductive TileAnswer where
  | yes (t : Tile)
  | wait
  | bad
deriving DecidableEq, Repr

/-- BULK.in and MCRECV fill an empty tile (Table 7-12). -/
def Core.tileFill (c : Core) (w : WgId) (n : Nat) : TileAnswer :=
  match c.ownTile w n with
  | none => .bad
  | some t =>
    match t.state with
    | .empty => .yes t
    | .draining => .wait
    | _ => .bad

/-- BULK.out, MCAST, SLDT and the other readers need a ready tile (Table 7-12). -/
def Core.tileRead (c : Core) (w : WgId) (n : Nat) : TileAnswer :=
  match c.ownTile w n with
  | none => .bad
  | some t =>
    match t.state with
    | .ready => .yes t
    | .empty => .bad
    | _ => .wait

/-- SSTT and TILEFREE take an empty or a ready tile (Table 7-12). -/
def Core.tileIdle (c : Core) (w : WgId) (n : Nat) : TileAnswer :=
  match c.ownTile w n with
  | none => .bad
  | some t =>
    match t.state with
    | .ready => .yes t
    | .empty => .yes t
    | _ => .wait

/-- The tile entry an instruction names. -/
def Ext.tileNo (x : Ext) : Nat := x.modA.toNat

/-! ### Lines (R225, R256, R258, R263) -/

/-- The home of a 64-byte line. -/
structure LineHome where
  key : Nat
  snap : Bool
deriving DecidableEq, Repr

/-- Lines translated so far; none where the translation is gone (Table 13-3). -/
abbrev LineTable := List (Nat × Option LineHome)

/-- The distinct lines of addresses. -/
def linesOf (vas : List Nat) : List Nat := distinct (vas.map fun va => va / 64)

/-- The lines of n bytes from an address. -/
def linesIn (va n : Nat) : List Nat := natsFrom (va / 64) ((va % 64 + n + 63) / 64)

/-- The home of a line for an engine's access, or what keeps it waiting; none where the translation is gone. -/
def State.lineHome (s : State) (who : Who) (need : Need) (l : Nat) : State × Except Chk (Option LineHome) :=
  match s.translate who need (64 * l) 1 with
  | (s1, .ok key snap _ _) => (s1, .ok (some ⟨key, snap⟩))
  | (s1, .bad _) => (s1, .ok none)
  | (s1, c) => (s1, .error c)

/-- The homes of lines; the first that has to wait, or that meets an uncorrectable entry, stops it. -/
def State.lineHomes (s : State) (who : Who) (need : Need) : List Nat → State × Except (Nat × Chk) LineTable
  | [] => (s, .ok [])
  | l :: ls =>
    match s.lineHome who need l with
    | (s1, .error c) => (s1, .error (64 * l, c))
    | (s1, .ok h) =>
      match s1.lineHomes who need ls with
      | (s2, .ok tab) => (s2, .ok ((l, h) :: tab))
      | (s2, .error e) => (s2, .error e)

/-- The home of the line of an address in a table. -/
def lineAt (tab : LineTable) (va : Nat) : Option LineHome := (tbGet tab (va / 64)).join

/-- An access of a device unit for a gang to bytes of a line. -/
def State.lineAccess (s : State) (g : GangId) (core va size : Nat) (h : LineHome) : Access :=
  { id := 0, place := 0, src := .device, gang := g, core := core, va := va, key := h.key + va % 64, size := size, op := .load [], acquire := none,
    release := none, sc := false, told := [], scAfter := none, lane := 0, route := s.routeTo h.key, snap := h.snap, recorded := false, region := none,
    waitPerformed := [], heldSince := 0 }

/-- Bytes a unit reads within a line; a translation that is gone delivers the poison code (Table 13-3), the crossbar that of a home that
is not the partition's (R341). -/
def State.lineRead (s : State) (g : GangId) (core : Nat) (h : Option LineHome) (va size : Nat) : List PByte :=
  match h with
  | some h => s.homeBytes (s.lineAccess g core va size h)
  | none => (natsFrom 0 size).map fun _ => ⟨0, true⟩

/-- A unit has read bytes of a line: they are counted (R304, R341, R352). -/
def State.countLine (s : State) (p : Nat) (h : Option LineHome) (bs : List PByte) : State :=
  match h with
  | some h => if h.snap then s.countPoison p bs else s.countRead p h.key bs
  | none => s.countPoison p bs

/-- Bytes a unit writes within a line: dropped and counted where the translation is gone; none for poison bound off the device, which is
not sent (Table 13-3). -/
def State.lineWrite (s : State) (g : GangId) (core : Nat) (h : Option LineHome) (va : Nat) (bs : List PByte) : Option State :=
  match h with
  | some h =>
    if boundOff h.key ∧ !h.snap ∧ anyPoison bs then none
    else some { s.homeWrite (s.lineAccess g core va bs.length h) bs true with nextId := s.nextId + 1 }
  | none => some (s.count g.part 0x0A 1)

/-- Bytes within their 64-byte lines, from an aligned address. -/
def lineRuns (va : Nat) (bs : List PByte) : List (Nat × List PByte) :=
  (natsFrom 0 (ceilDiv bs.length 64)).map fun i => (va + 64 * i, (bs.drop (64 * i)).take 64)

/-! ### The memory of a tile (R157, R314, R323 to R325) -/

/-- A unit moves a tile's bytes for a thread's instruction; the tags were no check of TILEDEF's (R155, R157). -/
def State.unitWho (s : State) (t : ThreadId) : Who := { s.who t with issued := true }

/-- The bytes of lines of a table, in order. -/
def State.readLines (s : State) (g : GangId) (core : Nat) (tab : LineTable) : State × List PByte :=
  tab.foldl
    (fun acc e =>
      let bs := acc.1.lineRead g core e.2 (64 * e.1) 64
      (acc.1.countLine g.part e.2 bs, acc.2 ++ bs)) (s, [])

/-- A line is written: it is counted where it lies in HBM (R352). -/
def State.countMoved (s : State) (p : Nat) (h : Option LineHome) : State :=
  match h with
  | some h => if h.snap then s else s.countLines p h.key 64
  | none => s

/-- A thread reads the lines of a table at its step (R201, R203). -/
def State.readByThread (s : State) (t : ThreadId) (tab : LineTable) : State :=
  tab.foldl (fun acc e => match e.2 with
    | some h => if h.snap then acc else acc.readNow t h.key 64
    | none => acc) s

/-- A thread writes whole lines of a table at its step, in order; none for poison bound off the device (Table 13-3). -/
def State.writeByThread (s : State) (t : ThreadId) (tab : LineTable) : List (Nat × List PByte) → Option State
  | [] => some s
  | (va, bs) :: rest =>
    match lineAt tab va with
    | none => (s.count t.gang.part 0x0A 1).writeByThread t tab rest
    | some h =>
      if boundOff h.key ∧ !h.snap ∧ anyPoison bs then none
      else
        let a := s.accessOf t { va := va, key := h.key, size := bs.length, op := .store bs, snap := h.snap }
        ((({ s with nextId := s.nextId + 1 }).homeWrite a bs true).countMoved t.gang.part (some h)).writeByThread t tab rest

/-- A page of a range has an uncorrectable entry (R232). -/
def State.walkBroken (s : State) (p va size : Nat) : Bool :=
  ((natsFrom 0 (size / 65536 + 2)).filter fun i => decide (va - va % 65536 + 65536 * i < va + size)).any fun i =>
    s.walk p (va - va % 65536 + 65536 * i) == .broken

/-- Whether a tile of a size at an address lies in the executing core's slice (R157): in one scratch allocation there, or in consecutive
64 KiB pages of addresses, each mapped with kind 4 to that slice; none while the address's allocation moves. -/
def State.tileInside (s : State) (t : ThreadId) (va size : Nat) : Option Bool :=
  let who := s.who t
  let inCore := fun (a : Nat) => (s.quietKey who a).any fun key => isSram key && coreOfKey key == who.core
  if 0xFE000000000000 ≤ va % 2 ^ 56 then
    (match s.translateWindow who .tile va 1 with
     | .hold => none
     | .ok _ _ _ _ => some (inCore va && inCore (va + size - 1) && decide (va % 2 ^ 24 + size ≤ 2 ^ 24))
     | _ => some false)
  else
    some (((natsFrom 0 (size / 65536 + 2)).map fun i => max va (va - va % 65536 + 65536 * i)).all fun a =>
      decide (va + size ≤ a) ||
        ((match s.walk who.gang.part a with
          | .leaf m => pteKind m.entry == 4
          | _ => false) && inCore a))

/-- TILEDEF in one lane (R157, R158). DESIGN CHOICE: its address is judged before the state of the entry, and where its bytes lie before
their alignment (log entry 72). -/
def actTiledef (x : Ext) (s : State) (t : ThreadId) (here _ : Dword) : State × LaneEnd :=
  let size := x.imm.toNat
  let core := s.coreOf t.warp
  let n := Ext.tileNo x
  match (s.thread t).address x .tile 0 with
  | .error f => (s, .fault f)
  | .ok va =>
    if !canonical va then (s, .fault ⟨0x04, va, 0x52⟩)
    else if va < 2 ^ 55 ∧ s.walkBroken t.gang.part va size then (s.count t.gang.part 0x08 1, .broken)
    else
      match s.tileInside t va size with
      | none => (s, .hold)
      | some false => (s, .fault ⟨0x07, va, 0x52⟩)
      | some true =>
        if va % 64 ≠ 0 then (s, .fault ⟨0x06, va, 0x53⟩)
        else
          let free := (tbGet (s.core core).tiles n).isNone
          let emptyOwn := match (s.core core).ownTile t.warp.wg n with
            | some e => e.state == .empty
            | none => false
          if free || emptyOwn then
            (s.modCore core fun c => { c with tiles := tbSet c.tiles n ⟨t.warp.wg, va, size, .empty, 0⟩ }, .go)
          else (s, .fault (hereFault 0x0B 0 here))

/-- TILEFREE in one lane (R157, R158). -/
def actTilefree (x : Ext) (s : State) (t : ThreadId) (here _ : Dword) : State × LaneEnd :=
  let core := s.coreOf t.warp
  match (s.core core).tileIdle t.warp.wg (Ext.tileNo x) with
  | .yes _ => (s.modCore core fun c => { c with tiles := tbErase c.tiles (Ext.tileNo x) }, .go)
  | .wait => (s, .stall)
  | .bad => (s, .fault (hereFault 0x0B 0 here))

/-- The code of a tile state (R157). -/
def TileState.code : TileState → Nat
  | .empty => 0
  | .filling => 1
  | .ready => 2
  | .draining => 3

/-- TILEQ in one lane (R157). -/
def actTileq (x : Ext) (s : State) (t : ThreadId) (_ _ : Dword) : State × LaneEnd :=
  let v := match (s.core (s.coreOf t.warp)).ownTile t.warp.wg (Ext.tileNo x) with
    | some e => e.state.code + 4
    | none => 0
  (s.setThread t ((s.thread t).writeRegs (wideWrite x.d 1 ⟨v, false⟩)), .go)

/-- TILEDEF (R157). -/
def execTiledef (x : Ext) (s : State) : Host.Outcome State Fault Refusal := boundaryOn (.tiledef x) (actTiledef x) s

/-- TILEFREE (R157). -/
def execTilefree (x : Ext) (s : State) : Host.Outcome State Fault Refusal := boundaryOn (.tilefree x) (actTilefree x) s

/-- TILEQ (R157). -/
def execTileq (x : Ext) (s : State) : Host.Outcome State Fault Refusal := boundaryOn (.tileq x) (actTileq x) s

end Sys2Proof.Machine
end

