-- ==== Sys2Proof/Machine/Engine.lean ====
section
/-! DEFINITION. COPY, BULK, MCAST and MCRECV at issue: their checks, tensor records, and the queues they enter (spec/07 R159 to
R164; spec/13 R252 to R262). -/

namespace Sys2Proof.Machine

/-! ### Queues -/

/-- The queue of a number of R148: 0 COPY, 1 BULK, 2 MCAST. -/
def Core.queue (c : Core) (k : Nat) : List Cmd :=
  match k with
  | 0 => c.copyQ
  | 1 => c.bulkQ
  | _ => c.mcastQ

/-- Put a queue. -/
def Core.setQueue (c : Core) (k : Nat) (q : List Cmd) : Core :=
  match k with
  | 0 => { c with copyQ := q }
  | 1 => { c with bulkQ := q }
  | _ => { c with mcastQ := q }

/-- Entries of a queue (Table 13-1). -/
def queueSize (k : Nat) : Nat := if k = 0 then 32 else 16

/-- A command or a posted round of a number is not complete. -/
def Core.hasWork (c : Core) (id : Nat) : Bool :=
  (c.copyQ ++ c.bulkQ ++ c.mcastQ).any (fun x => x.id == id) || c.matQ.any fun e => e.id == id

/-- The commands that the markers before a queue's end name (R148). -/
def Core.behindNow (c : Core) (k : Nat) : List Nat := ((tbGet c.fences k).getD []).filter c.hasWork

/-- The stores ahead in a core's ordered request queue (R254). -/
def State.storesOf (s : State) (core : Nat) : List Nat :=
  (s.inFlight.filter fun a => a.core == core && !a.isLoad).map Access.id

/-- A command takes an entry of its queue (R253). -/
def State.enqueue (s : State) (core k : Nat) (srcs : List ThreadId) (wg : WgId) (bar : Nat × Nat) (op : CmdOp) : State :=
  let c : Cmd :=
    { id := s.nextId, srcs := srcs, wg := wg, bar := bar.1, barKey := bar.2, op := op,
      headAt := if ((s.core core).queue k).isEmpty then s.nextId else 0, walked := 0, done := false,
      after := s.storesOf core, behind := (s.core core).behindNow k, claim := none, bytes := [], got := [], todo := [],
      moving := false }
  { s with nextId := s.nextId + 1 }.modCore core fun x => x.setQueue k (x.queue k ++ [c])

/-- A queue has no entry free. -/
def Core.full (c : Core) (k : Nat) : Bool := decide (queueSize k ≤ (c.queue k).length)

/-! ### Addresses (R159) -/

/-- A flat address operand from its words, its poison consumed (R126, R159). -/
def flatOf (ws : List PWord) : Except FaultInfo Nat :=
  let b := ofWords ws
  if b.p then .error ⟨0x11, b.v, 17⟩ else .ok b.v

/-- The words of a flat pair. -/
def Thread.flatWords (t : Thread) (i : RegIdx) : List PWord := (natsFrom 0 2).map fun j => t.regAt i j

/-- An address that passed Table 7-2. -/
structure Checked where
  va : Nat
  key : Nat
  snap : Bool
  region : Option Nat
deriving DecidableEq, Repr

/-- The checks of Table 7-2 on a flat address operand at issue, which send no line request; `wait` is how the lane ends for a page that
Badger has to settle. -/
def State.flatAt (s : State) (t : ThreadId) (need : Need) (ws : List PWord) (size : Nat) (ahead : Bool) (wait : Nat → LaneEnd) :
    State × Except LaneEnd Checked :=
  match flatOf ws with
  | .error f => (s, .error (.fault f))
  | .ok va =>
    match s.translate { s.who t with counts := false, ahead := ahead } need va size with
    | (s1, .ok key snap _ region) => (s1, .ok ⟨va, key, snap, region⟩)
    | (s1, .bad f) => (s1, .error (.fault f))
    | (s1, .resolve why) => (s1.askAt t why va (s.thread t).pc, .error (wait va))
    | (s1, .hold) => (s1, .error .stall)
    | (s1, .broken) => (s1, .error .broken)

/-- The checks of a flat address operand of an instruction that waits at issue for its page. -/
def State.flatCheck (s : State) (t : ThreadId) (need : Need) (i : RegIdx) (size : Nat) (ahead : Bool := false) :
    State × Except LaneEnd Checked :=
  s.flatAt t need ((s.thread t).flatWords i) size ahead fun _ => .stall

/-- The address of a completion barrier; the zero pair names none (R11, R159). -/
def State.barAt (s : State) (t : ThreadId) (i : RegIdx) (ws : List PWord) (wait : Nat → LaneEnd) : State × Except LaneEnd (Option Checked) :=
  if i = 0 then (s, .ok none)
  else
    match s.flatAt t .engineBar ws 16 false wait with
    | (s1, .ok c) => (s1, .ok (some c))
    | (s1, .error e) => (s1, .error e)

/-- The completion barrier of an instruction that waits at issue for its page. -/
def State.barCheck (s : State) (t : ThreadId) (i : RegIdx) : State × Except LaneEnd (Option Checked) :=
  s.barAt t i ((s.thread t).flatWords i) fun _ => .stall

/-- A completion barrier is tagged scratch (R159). -/
def State.barTagged (s : State) (b : Option Checked) : Bool :=
  match b with
  | none => true
  | some c => scratchKey c.key c.region && s.tagged c.key

/-- A barrier's address and home, 0 and keyGone for none. -/
def barPlace (b : Option Checked) : Nat × Nat :=
  match b with
  | none => (0, keyGone)
  | some c => (c.va, c.key)

/-- A fault 0x1A of an engine command (R159, R163, R164). -/
def recordFault (info : Nat) (here : Dword) : LaneEnd := .fault (hereFault 0x1A info here)

/-! ### COPY -/

/-- The bytes of one lane of COPY (Table 7-13). -/
def Ext.copySize (x : Ext) : Nat := 4 * 2 ^ x.modABits 1 0

/-- The captured operands of COPY in a lane: the words of its destination, source and barrier pairs (R128). -/
def Thread.copyWords (t : Thread) (x : Ext) : List PWord := t.flatWords x.a ++ t.flatWords x.b ++ t.flatWords x.c

/-- A lane of a COPY that passed: destination, source, barrier and its home. -/
abbrev CopyLane := Nat × Nat × Nat × Nat

/-- One lane of COPY from its captured operands: destination, source and barrier checked (R161); where Badger has to settle a page the
lane is logged (R128). DESIGN CHOICE: a lane's addresses are judged in that order, then the barrier's tag (log entry 72). -/
def State.copyLane (s : State) (t : ThreadId) (x : Ext) (here : Dword) (ws : List PWord) : State × Except LaneEnd CopyLane :=
  let wait := fun va => LaneEnd.log va ws
  match s.flatAt t .engineWrite (ws.take 2) (Ext.copySize x) false wait with
  | (s1, .error e) => (s1, .error e)
  | (s1, .ok d) =>
    match s1.flatAt t .engineRead ((ws.drop 2).take 2) (Ext.copySize x) false wait with
    | (s2, .error e) => (s2, .error e)
    | (s2, .ok a) =>
      match s2.barAt t x.c (ws.drop 4) wait with
      | (s3, .error e) => (s3, .error e)
      | (s3, .ok b) =>
        if !s3.barTagged b then (s3, .error (recordFault 4 here))
        else (s3, .ok (d.va, a.va, (barPlace b).1, (barPlace b).2))

/-- Lanes of COPY with their operands in ascending order, up to the first that is neither checked nor logged. -/
def State.copyPlan (s : State) (id : WarpId) (x : Ext) (here : Dword) :
    List (Nat × List PWord) → State × List (Nat × Except LaneEnd CopyLane)
  | [] => (s, [])
  | (l, ws) :: rest =>
    match s.copyLane ⟨id, l⟩ x here ws with
    | (s1, .ok m) =>
      let (s2, ms) := s1.copyPlan id x here rest
      (s2, (l, .ok m) :: ms)
    | (s1, .error e) =>
      if e.isLog then
        (let (s2, ms) := s1.copyPlan id x here rest
         (s2, (l, .error e) :: ms))
      else (s1, [(l, .error e)])

/-- The lanes of a plan that passed. -/
def copyPassed (plan : List (Nat × Except LaneEnd CopyLane)) : List (Nat × CopyLane) :=
  plan.filterMap fun e => match e.2 with
    | .ok m => some (e.1, m)
    | .error _ => none

/-- Some lane of a plan ended so. -/
def copyEnds (plan : List (Nat × Except LaneEnd CopyLane)) (is : LaneEnd → Bool) : Bool :=
  plan.any fun e => match e.2 with
    | .ok _ => false
    | .error e => is e

/-- A gang whose engine command writes to an address outside its allocations is no longer clean (R265). -/
def State.soilAt (s : State) (t : ThreadId) (va : Nat) : State :=
  match s.quietKey (s.who t) va with
  | some key => s.soil t.gang key
  | none => s.modGang t.gang fun q => { q with clean := false }

/-- One command for the lanes of a COPY that passed (R161, R252). -/
def State.copySend (s : State) (id : WarpId) (x : Ext) (got : List (Nat × CopyLane)) : State :=
  if got.isEmpty then s
  else
    (got.foldl (fun acc m => acc.soilAt ⟨id, m.1⟩ m.2.1) s).enqueue (s.coreOf id) 0 (got.map fun m => ⟨id, m.1⟩) id.wg (0, 0)
      (.copy (Ext.copySize x) (got.map Prod.snd))

/-- How a lane of a plan ends where some lane of it is logged: those that passed are logged with it, for they are one command. -/
def copyLogged (plan : List (Nat × Except LaneEnd CopyLane)) (words : Nat → List PWord) : List (Nat × LaneEnd) :=
  plan.map fun e => match e.2 with
    | .ok m => (e.1, .log m.1 (words e.1))
    | .error e' => (e.1, e')

/-- COPY over the group: one command for every guard-true lane below the first fault; held whole while an allocation moves, the queue is
full, or the operand log it needs is full (R128, R161, R252, R253). -/
def State.copyIssue (s : State) (id : WarpId) (x : Ext) (here : Dword) (lanes : List Nat) : State × List (Nat × LaneEnd) :=
  let words := fun l => (s.thread ⟨id, l⟩).copyWords x
  let (s1, plan) := s.copyPlan id x here (lanes.map fun l => (l, words l))
  let logs := copyEnds plan LaneEnd.isLog
  if copyEnds plan (fun e => !e.performed) || (logs && decide (4 ≤ (s.warp id).logged)) ||
      (!logs && !(copyPassed plan).isEmpty && (s1.core (s1.coreOf id)).full 0) then
    (s1, lanes.map fun l => (l, .stall))
  else if logs then (s1, copyLogged plan words)
  else
    (s1.copySend id x (copyPassed plan), plan.map fun e => match e.2 with
      | .ok _ => (e.1, .go)
      | .error e' => (e.1, e'))

/-- COPY (R161). -/
def State.runCopy (s : State) (x : Ext) : State :=
  match s.focus with
  | none => s
  | some id =>
    match (s.warp id).cur with
    | none => s
    | some g =>
      let lanes := g.lanes.filter fun l => (s.thread ⟨id, l⟩).guard x.guard
      let (s1, ends) := s.copyIssue id x g.pc lanes
      s.orOverrun (s1.runLanes (.copy x) (ends.any fun e => e.2.isLog) fun a t _ _ => (a, (tbGet ends t.lane).getD .stall))

/-! ### Tensor records (R162, R163) -/

/-- A number of n bytes in a record. -/
def recordField (bs : List Byte) (off n : Nat) : Nat := natOfBytes ((bs.drop off).take n)

/-- A tensor record from its 64 bytes (Table 7-14). -/
def tensorOf (bs : List Byte) : Tensor :=
  { base := recordField bs 0 8, format := recordField bs 8 1, rank := recordField bs 9 1, policy := recordField bs 10 1,
    fill := recordField bs 12 4, size := (natsFrom 0 5).map fun i => recordField bs (16 + 4 * i) 4,
    box := (natsFrom 0 5).map fun i => recordField bs (36 + 2 * i) 2,
    stride := (natsFrom 0 4).map fun i => signed32 (recordField bs (48 + 4 * i) 4) }

/-- The format is BQ8 or BQ4. -/
def blockFormat (f : Nat) : Bool := f == 2 || f == 3

/-- The unit of strides and alignment of a format (Table 7-14). -/
def elemAlign (f : Nat) : Nat :=
  match f with
  | 2 => 2
  | 3 => 2
  | 4 => 2
  | 5 => 2
  | 6 => 4
  | 7 => 8
  | 9 => 2
  | 10 => 4
  | _ => 1

/-- Size i of a record. -/
def Tensor.sizeAt (r : Tensor) (i : Nat) : Nat := (r.size[i]?).getD 1
/-- Box i of a record. -/
def Tensor.boxAt (r : Tensor) (i : Nat) : Nat := (r.box[i]?).getD 1
/-- Stride i of a record, 1 to 4. -/
def Tensor.strideAt (r : Tensor) (i : Nat) : Int := (r.stride[i - 1]?).getD 0

/-- The record's fields are right, with its reserved bytes zero and coordinate 0 on a block (R163, R257). -/
def Tensor.fieldsOk (r : Tensor) (reserved : Nat) (x0 : Int) : Bool :=
  decide (r.format ≤ 10) && decide (1 ≤ r.rank) && decide (r.rank ≤ 5) && decide (r.policy ≤ 1) && reserved == 0 &&
  ((natsFrom 0 5).all fun i => decide (1 ≤ r.boxAt i)) &&
  ((natsFrom r.rank (5 - r.rank)).all fun i => r.sizeAt i == 1 && r.boxAt i == 1 && r.strideAt i == 0) &&
  (!blockFormat r.format || (r.sizeAt 0 % 32 == 0 && r.boxAt 0 % 32 == 0 && x0 % 32 == 0)) &&
  ((natsFrom 1 (r.rank - 1)).all fun i => r.strideAt i % elemAlign r.format == 0) && r.base % elemAlign r.format == 0

/-- The box at the coordinates leaves the tensor (R163). -/
def Tensor.leaves (r : Tensor) (coord : List Int) : Bool :=
  (natsFrom 0 5).any fun i =>
    let c := (coord[i]?).getD 0
    decide (c < 0) || decide ((r.sizeAt i : Int) < c + r.boxAt i)

/-- Elements of the box. -/
def Tensor.count (r : Tensor) : Nat := r.box.foldl (fun a b => a * b) 1

/-- The bytes of the elements in a tile image (R162). -/
def Tensor.elemBytes (r : Tensor) : Nat :=
  match r.format with
  | 1 => ceilDiv r.count 2
  | 2 => r.count
  | 3 => r.count / 2
  | f => r.count * elemAlign f

/-- The bytes of a tile image (R162). -/
def Tensor.imageBytes (r : Tensor) : Nat := r.elemBytes + (if blockFormat r.format then r.count / 32 * 2 else 0)

/-- The coordinates of element n of the box, dimension 0 fastest (R162, R257). -/
def Tensor.coordOf (r : Tensor) (coord : List Int) (n : Nat) : List Int :=
  (natsFrom 0 5).map fun i =>
    let below := (r.box.take i).foldl (fun a b => a * b) 1
    (coord[i]?).getD 0 + (n / below % r.boxAt i : Nat)

/-- An element within the bounds (R257). -/
def Tensor.inBounds (r : Tensor) (xs : List Int) : Bool :=
  (natsFrom 0 5).all fun i =>
    let x := (xs[i]?).getD 0
    decide (0 ≤ x) && decide (x < r.sizeAt i)

/-- The stride terms of an element's address (R257). -/
def Tensor.strideTerms (r : Tensor) (xs : List Int) : Int :=
  ((natsFrom 1 4).map fun i => (xs[i]?).getD 0 * r.strideAt i).foldl (fun a b => a + b) 0

/-- An address within 64 bits. -/
def wrap64 (a : Int) : Nat := (a % 2 ^ 64).toNat

/-- The address of an element, or of its block unit (R257). -/
def Tensor.elemVa (r : Tensor) (xs : List Int) : Nat :=
  let x0 := (xs[0]?).getD 0
  let along : Int :=
    match r.format with
    | 1 => x0 / 2
    | 2 => 34 * (x0 / 32)
    | 3 => 18 * (x0 / 32)
    | f => x0 * elemAlign f
  wrap64 (r.base + along + r.strideTerms xs)

/-- Where half a byte of an image comes from: a value, or a nibble of memory. -/
inductive Half where
  | fill (v : Nat)
  | mem (va : Nat) (high : Bool)
deriving DecidableEq, Repr

/-- Where a byte of an image comes from: a value, a byte of memory, two nibbles. -/
inductive ImgByte where
  | fill (v : Nat)
  | mem (va : Nat)
  | halves (lo hi : Half)
deriving DecidableEq, Repr

/-- The nibble of element n; past the last element the value `pad` stands. -/
def Tensor.nibble (r : Tensor) (coord : List Int) (pad n : Nat) : Half :=
  if r.count ≤ n then .fill (pad % 16)
  else
    let xs := r.coordOf coord n
    let x0 := ((xs[0]?).getD 0 % 32).toNat
    if !r.inBounds xs then .fill (r.fill % 16)
    else if r.format = 3 then .mem ((r.elemVa xs + 2 + x0 / 2) % 2 ^ 64) (x0 % 2 == 1)
    else .mem (r.elemVa xs) (x0 % 2 == 1)

/-- Byte j of the tile image (R162, R257). -/
def Tensor.imgByte (r : Tensor) (coord : List Int) (pad j : Nat) : ImgByte :=
  if r.elemBytes ≤ j then
    let h := j - r.elemBytes
    let xs := r.coordOf coord (h / 2 * 32)
    if r.inBounds xs then .mem ((r.elemVa xs + h % 2) % 2 ^ 64) else .fill (r.fill / 2 ^ (16 + 8 * (h % 2)) % 256)
  else if r.format = 1 ∨ r.format = 3 then .halves (r.nibble coord pad (2 * j)) (r.nibble coord pad (2 * j + 1))
  else
    let e := if r.format = 2 then 1 else elemAlign r.format
    let xs := r.coordOf coord (j / e)
    if !r.inBounds xs then .fill (r.fill / 2 ^ (8 * (j % e)) % 256)
    else if r.format = 2 then .mem ((r.elemVa xs + 2 + (((xs[0]?).getD 0) % 32).toNat) % 2 ^ 64)
    else .mem ((r.elemVa xs + j % e) % 2 ^ 64)

/-- The addresses of memory an image byte touches. -/
def ImgByte.vas (b : ImgByte) : List Nat :=
  match b with
  | .fill _ => []
  | .mem va => [va]
  | .halves (.mem a _) (.mem b _) => [a, b]
  | .halves (.mem a _) _ => [a]
  | .halves _ (.mem b _) => [b]
  | .halves _ _ => []

/-- Every address of memory the image touches. -/
def Tensor.vas (r : Tensor) (coord : List Int) : List Nat :=
  (natsFrom 0 r.imageBytes).flatMap fun j => (r.imgByte coord 0 j).vas

/-- Of addresses in order, the first of each run within one 16-byte line: pages, regions, windows and tags are the same for the rest. -/
def lineStarts : Option Nat → List Nat → List Nat
  | _, [] => []
  | last, va :: rest => if last = some (va / 16) then lineStarts last rest else va :: lineStarts (some (va / 16)) rest

/-- The first address of a box, in image order, that fails Table 7-2 at issue (R155, R159, R235; Table 12-3). -/
def State.boxFault (s : State) (who : Who) (need : Need) : List Nat → Option FaultInfo
  | [] => none
  | va :: rest =>
    match (s.translate who need va 1).2 with
    | .bad f => some f
    | _ => s.boxFault who need rest

/-! ### BULK -/

/-- The signed coordinates of BULK; the zero quad reads no register (R163). -/
def Thread.coords (t : Thread) (x : Ext) : List Int :=
  (natsFrom 0 4).map (fun j => signed32 (t.regAt x.c j).v.toNat) ++ [x.simm]

/-- The bytes of a checked range as a gang sees them (R324). -/
def State.seenBytes (s : State) (g : GangId) (c : Checked) (n : Nat) : List PByte :=
  if c.snap then s.viewBytes g c.va c.key n
  else s.farBytes c.key n

/-- The slices of n bytes a lane reads at issue (R350). -/
def State.readSlices (s : State) (t : ThreadId) (c : Checked) (n : Nat) : List Slice :=
  if c.snap then [] else s.homeSlices (.read t c.va) c.key n (s.header t.gang).prio

/-- A lane reads n bytes at issue: after what it waits for at its step, and once they have come (R130, R214, R304, R350, R352). -/
def State.readAtIssue (s : State) (t : ThreadId) (c : Checked) (n : Nat) : State × Option (List PByte) :=
  if s.stepWaits t c.key n then ((s.holdPlace t .stall).1, none)
  else
    match s.takeSlices t.gang.part (s.readSlices t c n) with
    | (s1, true) =>
      let bs := s1.seenBytes t.gang c n
      (if c.snap then s1.countPoison t.gang.part bs else (s1.countRead t.gang.part c.key bs).readNow t c.key n, some bs)
    | (s1, false) => (s1, none)

/-- The record of a BULK, judged once its addresses, its barrier and its tile have passed (R163). DESIGN CHOICE: the bytes of the box are
judged last (log entry 72). -/
def State.bulkRecord (s : State) (t : ThreadId) (x : Ext) (out : Bool) (bs : List PByte) (size : Nat) (here : Dword) :
    Except LaneEnd Tensor :=
  let raw := bs.map PByte.v
  let r := tensorOf raw
  let coord := (s.thread t).coords x
  if anyPoison bs then .error (.fault ⟨0x11, 0, 17⟩)
  else if !r.fieldsOk (recordField raw 11 1 + recordField raw 46 2) ((coord[0]?).getD 0) then .error (recordFault 1 here)
  else if r.policy = 1 ∧ r.leaves coord then .error (recordFault 2 here)
  else if size < r.imageBytes then .error (recordFault 3 here)
  else
    match s.boxFault { s.who t with counts := false, ahead := true } (if out then .engineWrite else .engineRead)
        (lineStarts none (r.vas coord)) with
    | some f => .error (.fault f)
    | none => .ok r

/-- Tile readers or fillers of a command (R158). -/
def Core.tileFor (c : Core) (w : WgId) (n : Nat) (out : Bool) : TileAnswer := if out then c.tileRead w n else c.tileFill w n

/-- What a BULK writes may make its gang not clean (R265): the box, or the tile. -/
def State.bulkSoil (s : State) (t : ThreadId) (out : Bool) (r : Tensor) (coord : List Int) (tile : Tile) : State :=
  if out then (lineStarts none (r.vas coord)).foldl (fun acc va => acc.soilAt t va) s else s.soilAt t tile.va

/-- BULK in one lane (R163); what is held by a full queue has read nothing. DESIGN CHOICE: poisoned coordinates are judged before
the barrier's tag (log entry 72). -/
def actBulk (out : Bool) (x : Ext) (s : State) (t : ThreadId) (here _ : Dword) : State × LaneEnd :=
  let core := s.coreOf t.warp
  let n := Ext.tileNo x
  match s.flatCheck t .engineRead x.a 64 true with
  | (s1, .error e) => (s1, e)
  | (s1, .ok rec) =>
    match s1.barCheck t x.b with
    | (s2, .error e) => (s2, e)
    | (s2, .ok bar) =>
      if ((s2.thread t).quad x.c).p then (s2, .fault ⟨0x11, 0, 17⟩)
      else if !s2.barTagged bar then (s2, recordFault 4 here)
      else
        match (s2.core core).tileFor t.warp.wg n out with
        | .bad => (s2, .fault (hereFault 0x0B 0 here))
        | .wait => (s2, .stall)
        | .yes tile =>
          match s2.readAtIssue t rec 64 with
          | (s3, none) => (s3, .stall)
          | (s3, some bs) =>
            match s3.bulkRecord t x out bs tile.size here with
            | .error e => (s3, e)
            | .ok r =>
              if (s3.core core).full 1 then (s2, .stall)
              else
                let coord := (s3.thread t).coords x
                let s4 := (s3.bulkSoil t out r coord tile).enqueue core 1 [t] t.warp.wg (barPlace bar)
                  (if out then .bulkOut n r coord else .bulkIn n r coord)
                (s4.setTile core n fun e => { e with state := if out then .draining else .filling, progress := 0 }, .go)

/-! ### MCAST and MCRECV -/

/-- MCAST in one lane (R164). DESIGN CHOICE: its checks are made in the order barrier, tag, tile, mask, size (log entry 72); one that finds no
room has issued and waits in its queue entry, as R260 says, where R164 says that it waits to issue (log entry 24). -/
def actMcast (x : Ext) (s : State) (t : ThreadId) (here _ : Dword) : State × LaneEnd :=
  let core := s.coreOf t.warp
  let n := Ext.tileNo x
  let mask := x.immBits 15 0
  match s.barCheck t x.a with
  | (s1, .error e) => (s1, e)
  | (s1, .ok bar) =>
    if !s1.barTagged bar then (s1, recordFault 4 here)
    else
      match (s1.core core).tileRead t.warp.wg n with
      | .bad => (s1, .fault (hereFault 0x0B 0 here))
      | .wait => (s1, .stall)
      | .yes tile =>
        if mask = 0 ∨ 2 ^ (s1.header t.gang).e1 ≤ mask then (s1, recordFault 1 here)
        else if 1048576 < tile.size then (s1, recordFault 3 here)
        else if (s1.core core).full 2 then (s1, .stall)
        else
          let s2 := s1.enqueue core 2 [t] t.warp.wg (barPlace bar) (.mcast n mask (x.immBits 19 16))
          (s2.setTile core n fun e => { e with state := .draining }, .go)

/-- The parked tile that a member claims from a sender on a channel after `ahead` older ones (R164, R261). -/
def Die.oldest (d : Die) (g : GangId) (member sender channel ahead : Nat) : Option Parked :=
  (d.holding.filter fun p => p.gang == g && p.sender == sender && p.channel == channel && natBit p.mask member &&
    !p.claimed.contains member && !p.drained.contains member)[ahead]?

/-- Change a parked tile. -/
def Die.modParked (d : Die) (id : Nat) (f : Parked → Parked) : Die :=
  { d with holding := d.holding.map fun p => if p.id = id then f p else p }

/-- A member of a gang claims a parked tile (R164). -/
def Die.claims (d : Die) (id member : Nat) : Die := d.modParked id fun p => { p with claimed := nsInsert p.claimed member }

/-- Every receiver of a parked tile has drained it. -/
def Parked.drainedAll (p : Parked) : Bool := (natsFrom 0 16).all fun m => !natBit p.mask m || p.drained.contains m

/-- A receiver has drained a parked tile; its slot frees after the last (R164). -/
def Die.drain (d : Die) (id member : Nat) : Die :=
  let d1 := d.modParked id fun p => { p with drained := nsInsert p.drained member }
  { d1 with holding := d1.holding.filter fun p => p.id != id || !p.drainedAll }

/-- MCRECVs of a workgroup on a channel that wait in the queue for a tile. -/
def Core.waiting (c : Core) (w : WgId) (sender channel : Nat) : Nat :=
  (c.mcastQ.filter fun x => x.wg == w && x.claim.isNone &&
    (match x.op with
     | .mcrecv _ m ch => m == sender && ch == channel
     | _ => false)).length

/-- A command of the MCAST queue has claimed a parked tile, whose image it copies. -/
def Core.claimFor (c : Core) (id : Nat) (p : Parked) : Core :=
  { c with mcastQ := c.mcastQ.map fun x => if x.id = id then { x with claim := some p.id, bytes := p.bytes } else x }

/-- MCRECV in one lane: it claims the oldest tile that no MCRECV before it waits for, or parks until one exists (R164, R261). -/
def actMcrecv (x : Ext) (s : State) (t : ThreadId) (here next : Dword) : State × LaneEnd :=
  let core := s.coreOf t.warp
  let die := s.dieOf t.warp
  let n := Ext.tileNo x
  let sender := x.immBits 3 0
  let channel := x.immBits 7 4
  let member := t.warp.wg.member
  match s.barCheck t x.a with
  | (s1, .error e) => (s1, e)
  | (s1, .ok bar) =>
    if !s1.barTagged bar then (s1, recordFault 4 here)
    else
      match (s1.core core).tileFill t.warp.wg n with
      | .bad => (s1, .fault (hereFault 0x0B 0 here))
      | .wait => (s1, .stall)
      | .yes tile =>
        if (s1.core core).full 2 then (s1, .stall)
        else
          let s2 := s1.soilAt t tile.va
          let enter := fun (a : State) =>
            (a.enqueue core 2 [t] t.warp.wg (barPlace bar) (.mcrecv n sender channel)).setTile core n
              fun e => { e with state := .filling, progress := 0 }
          match (s2.die die).oldest t.gang member sender channel ((s2.core core).waiting t.warp.wg sender channel) with
          | some p =>
            if tile.size < p.bytes.length then (s1, recordFault 3 here)
            else (((enter s2).modCore core fun c => c.claimFor s2.nextId p).modDie die fun d => d.claims p.id member, .go)
          | none => (enter s2, .park (.mcrecv s2.nextId next))

/-- COPY (R161). -/
def execCopy (x : Ext) (s : State) : Host.Outcome State Fault Refusal := .next (s.runCopy x)

/-- BULK.in (R163). -/
def execBulkIn (x : Ext) (s : State) : Host.Outcome State Fault Refusal := boundaryOn (.bulkIn x) (actBulk false x) s

/-- BULK.out (R163). -/
def execBulkOut (x : Ext) (s : State) : Host.Outcome State Fault Refusal := boundaryOn (.bulkOut x) (actBulk true x) s

/-- MCAST (R164). -/
def execMcast (x : Ext) (s : State) : Host.Outcome State Fault Refusal := boundaryOn (.mcast x) (actMcast x) s

/-- MCRECV (R164). -/
def execMcrecv (x : Ext) (s : State) : Host.Outcome State Fault Refusal := boundaryOn (.mcrecv x) (actMcrecv x) s

end Sys2Proof.Machine
end

