-- ==== Sys2Proof/Machine/EngineEvents.lean ====
section
/-! DEFINITION. The engines at work: line transfers of COPY, Marten's walk tiles, the holding buffer, and completions (spec/13 R252
to R265). -/

namespace Sys2Proof.Machine

/-! ### Who works (R264) -/

/-- The gang's commands go on: it runs, drains or retires (R264). -/
def GangState.works : GangState → Bool
  | .running => true
  | .draining => true
  | .retiring => true
  | _ => false

/-- Every queued command of a core. -/
def Core.cmds (c : Core) : List Cmd := c.copyQ ++ c.bulkQ ++ c.mcastQ

/-- A command is in the middle of a COPY, or of a walk tile. -/
def Cmd.started (c : Cmd) : Bool := c.moving || c.got != []

/-- The commands that stand before one: in its queue, and behind whose completion a marker keeps it (R148, R254). -/
def Core.aheadOf (c : Core) (x : Cmd) : List Nat :=
  x.behind ++ [c.copyQ, c.bulkQ, c.mcastQ].flatMap fun q =>
    if q.any fun y => y.id == x.id then (q.takeWhile fun y => y.id != x.id).map Cmd.id else []

/-- Commands, and all that stand before them; the number bounds the search. -/
def Core.withAhead (c : Core) : Nat → List Nat → List Nat
  | 0, ids => ids
  | n + 1, ids =>
    let more := ((c.cmds.filter fun x => ids.contains x.id).flatMap c.aheadOf).filter fun id => !ids.contains id
    if more = [] then ids else c.withAhead n (distinct (ids ++ more))

/-- The commands of a core that a save of a gang lets go on: those it finds in the middle of a transfer, those that its tracker entries
count, those that its posted rounds stand behind, and what stands before them (R148, R186, R264, R280). -/
def Core.owed (c : Core) (g : GangId) : List Nat :=
  let counted := c.cmds.filter fun x => x.wg.gang == g &&
    (x.started || c.tracker.any fun e => e.2.gang == g && x.srcs.any e.2.threads.contains)
  c.withAhead c.cmds.length (counted.map Cmd.id ++ (c.matQ.filter fun e => e.wg.of g).flatMap fun e => e.behind.filter c.hasWork)

/-- The engines of a core work on a command: its gang goes on, or is being saved and owes it (R264). -/
def State.engineWorks (s : State) (core : Nat) (c : Cmd) : Bool :=
  (s.gang c.wg.gang).state.works || ((s.gang c.wg.gang).state == .saving && ((s.core core).owed c.wg.gang).contains c.id)

/-- A command may go on: the stores ahead of it are performed, the markers before it are passed (R148, R254). -/
def State.cmdReady (s : State) (core : Nat) (c : Cmd) : Bool :=
  s.engineWorks core c && !anyOf s.inFlight c.after && !c.behind.any (s.core core).hasWork

/-- Change a command of a queue. -/
def State.modCmd (s : State) (core k id : Nat) (f : Cmd → Cmd) : State :=
  s.modCore core fun x => x.setQueue k ((x.queue k).map fun y => if y.id = id then f y else y)

/-- A command leaves its queue; its workgroup may have waited for it (R253, R255). -/
def State.dequeue (s : State) (core k : Nat) (c : Cmd) : State :=
  let s1 := ({ s with nextId := s.nextId + 1 } : State).modCore core fun (x : Core) =>
    let rest := (x.queue k).filter fun (y : Cmd) => y.id != c.id
    x.setQueue k (if k = 2 then stampHead s.nextId rest else rest)
  s1.wgEnd c.wg

/-- The access context of an engine command: Marten's walk-ahead TLB serves the walks (R225). -/
def cmdWho (core : Nat) (c : Cmd) : Who :=
  { gang := c.wg.gang, core := core, die := core / 64, counts := true, asker := .core core, issued := true
    ahead := match c.op with
      | .copy _ _ => false
      | _ => true }

/-- A gang-level fault of an engine command (Table 13-3). -/
def State.cmdFault (s : State) (core : Nat) (c : Cmd) (va : Nat) : State :=
  s.gangFault c.wg.gang 0x1B { addr := va, core := core }

/-! ### Line transfers (R256, R258) -/

/-- A transfer that has to wait sends nothing: what its lines counted is taken back (R227, R352). -/
def State.uncount (s s0 : State) (p : Nat) : State :=
  s.modPart p fun q => { q with touches := (s0.part p).touches, counters := (s0.part p).counters }

/-- A command whose line has to wait asks for its page; an uncorrectable entry faults the gang (Table 13-3). -/
def State.lineStop (s : State) (core : Nat) (c : Cmd) (va : Nat) (chk : Chk) : State :=
  match chk with
  | .resolve why => s.askSettle c.wg.gang.part (core / 64) c.wg.gang why ⟨.core core, va, 0, 0, c.srcs.head?⟩
  | .broken => (s.count c.wg.gang.part 0x08 1).cmdFault core c va
  | _ => s

/-- The slices that remote lines of a command need, engine by engine (R350). -/
def State.cmdSlices (s : State) (c : Cmd) (tab : LineTable) : List Slice :=
  let far := (tab.filterMap Prod.snd).filter fun h => boundOff h.key && !h.snap && !s.lostPeer h.key
  (natsFrom 0 3).filterMap fun e =>
    let n := (far.filter fun h => s.engineOf (s.routeTo h.key) h.key == e).length
    if n = 0 then none else some ⟨.cmd c.id e, e, 64 * n, (s.header c.wg.gang).prio⟩

/-- A request for a home stands behind what came to the core's and the die's paths before the command did (R214). -/
def State.lineBusy (s : State) (core : Nat) (c : Cmd) (h : Option LineHome) : Bool :=
  h.any fun x => !x.snap && s.pathBusy c.wg.gang.part core (fun a => decide (a.place < c.id)) [x.key]

/-- Lines of a command, once all of them can move: their pages are settled, what stands before them on their paths is performed, their
slices have come (R214, R228, R350). -/
def State.onLines (s : State) (core : Nat) (c : Cmd) (need : Need) (lines : List Nat) (act : State → LineTable → State) : State :=
  match s.lineHomes (cmdWho core c) need lines with
  | (s1, .error e) => (s1.uncount s c.wg.gang.part).lineStop core c e.1 e.2
  | (s1, .ok tab) =>
    if tab.any fun e => s.lineBusy core c e.2 then s
    else
      let want := s1.cmdSlices c tab
      match s1.takeSlices c.wg.gang.part want with
      | (s2, true) => act s2 tab
      | (_, false) => (s.takeSlices c.wg.gang.part want).1

/-- A command reads its next line. -/
def State.lineFetch (s : State) (core k : Nat) (c : Cmd) (l : Nat) : State :=
  s.onLines core c .engineRead [l] fun s1 tab =>
    let (s2, bs) := s1.readLines c.wg.gang core tab
    s2.modCmd core k c.id fun x => { x with got := x.got ++ [(l, bs)] }

/-- A byte that a command has read. -/
def Cmd.gotByte (c : Cmd) (va : Nat) : PByte := ((tbGet c.got (va / 64)).bind fun bs => bs[va % 64]?).getD ⟨0, true⟩

/-- Bytes that a command has read. -/
def Cmd.gotBytes (c : Cmd) (va n : Nat) : List PByte := (natsFrom va n).map c.gotByte

/-- A nibble of a byte. -/
def nibbleOf (b : Byte) (high : Bool) : Nat := if high then b.toNat / 16 else b.toNat % 16

/-- A write of a command: bytes, or half a byte, which keeps the other half. -/
abbrev LineItem := Nat × List PByte × Option Bool

/-- The bytes a write of a command puts, where a line holds `now`. -/
def itemBytes (now : List PByte) (bs : List PByte) (half : Option Bool) : List PByte :=
  match half with
  | none => bs
  | some high =>
    let old := (now.headD ⟨0, true⟩).v
    let new := (bs.headD ⟨0, true⟩)
    [⟨BitVec.ofNat 8 (if high then nibbleOf old false + 16 * new.v.toNat else nibbleOf old true * 16 + new.v.toNat), new.p⟩]

/-- Writes of a command within one line, in order; none for poison bound off the device. -/
def State.itemWrites (s : State) (g : GangId) (core : Nat) (h : Option LineHome) : List LineItem → Option State
  | [] => some s
  | (va, bs, half) :: rest =>
    match s.lineWrite g core h va (itemBytes (s.lineRead g core h va 1) bs half) with
    | some s1 => s1.itemWrites g core h rest
    | none => none

/-- A command writes the next line of its list: every write that stands there in a row for it. -/
def State.linePut (s : State) (core k : Nat) (c : Cmd) (va : Nat) : State :=
  let mine := fun (m : LineItem) => m.1 / 64 == va / 64
  s.onLines core c .engineWrite [va / 64] fun s1 tab =>
    match s1.itemWrites c.wg.gang core (lineAt tab va) (c.todo.takeWhile mine) with
    | none => s1.cmdFault core c va
    | some s2 => (s2.countMoved c.wg.gang.part (lineAt tab va)).modCmd core k c.id fun x => { x with todo := x.todo.dropWhile mine }

/-! ### What a command moves -/

/-- The tensor, coordinates and tile of a BULK, with its direction. -/
def CmdOp.walk (o : CmdOp) : Option (Nat × Tensor × List Int × Bool) :=
  match o with
  | .bulkIn n r c => some (n, r, c, false)
  | .bulkOut n r c => some (n, r, c, true)
  | _ => none

/-- The address of a tile. -/
def State.tileVa (s : State) (core n : Nat) : Nat := ((tbGet (s.core core).tiles n).map Tile.va).getD 0

/-- The bytes of a walk tile of an image: its first, and how many (R258). -/
def walkPart (image k : Nat) : Nat × Nat := (4096 * k, min 4096 (image - 4096 * k))

/-- The image bytes of a walk tile. -/
def Tensor.walkBytes (r : Tensor) (coord : List Int) (pad k : Nat) : List ImgByte :=
  let (lo, len) := walkPart r.imageBytes k
  (natsFrom lo len).map (r.imgByte coord pad)

/-- The lines a command reads: a COPY's sources, the box or the tile of a walk tile (R256, R258). -/
def State.readsOf (s : State) (core : Nat) (c : Cmd) : List Nat :=
  match c.op with
  | .copy _ lanes => linesOf (lanes.map fun m => m.2.1)
  | .bulkIn _ r coord => linesOf ((r.walkBytes coord 0 c.walked).flatMap ImgByte.vas)
  | .bulkOut n r _ =>
    let (lo, len) := walkPart r.imageBytes c.walked
    linesIn (s.tileVa core n + lo) len
  | _ => []

/-- The bytes of a COPY's lanes by home, with their addresses; where lanes overlap the higher lane's stand (R161, R256). A byte whose
translation is gone stands for itself. -/
def copyBytes (tab : LineTable) (data : List (Nat × List PByte)) : List (Nat × (Nat × PByte)) :=
  data.foldl
    (fun acc m =>
      let key := match lineAt tab m.1 with
        | some h => h.key + m.1 % 64
        | none => 2 ^ 128 + m.1
      ((natsFrom 0 m.2.length).zip m.2).foldl (fun a b => smInsert (smErase a (key + b.1)) (key + b.1) (m.1 + b.1, b.2)) acc) []

/-- Bytes that follow one another within a line are written at once (R256). -/
def byteRuns : List (Nat × (Nat × PByte)) → List (Nat × List PByte)
  | [] => []
  | (_, va, b) :: rest =>
    match byteRuns rest with
    | (w, bs) :: more => if w = va + 1 ∧ w % 64 ≠ 0 then (va, b :: bs) :: more else (va, [b]) :: (w, bs) :: more
    | [] => [(va, [b])]

/-- The value of half an image byte. -/
def Cmd.halfIn (c : Cmd) (h : Half) : Nat × Bool :=
  match h with
  | .fill v => (v, false)
  | .mem va high => (nibbleOf (c.gotByte va).v high, (c.gotByte va).p)

/-- The value of an image byte (R257, R258). -/
def Cmd.byteIn (c : Cmd) (b : ImgByte) : PByte :=
  match b with
  | .fill v => ⟨BitVec.ofNat 8 v, false⟩
  | .mem va => c.gotByte va
  | .halves lo hi => ⟨BitVec.ofNat 8 ((c.halfIn lo).1 + 16 * (c.halfIn hi).1), (c.halfIn lo).2 || (c.halfIn hi).2⟩

/-- The writes of BULK.out for an image byte (R258). -/
def outItems (b : ImgByte) (v : PByte) : List LineItem :=
  let half := fun (h : Half) (high : Bool) =>
    match h with
    | .fill _ => []
    | .mem va up => [((va, [⟨BitVec.ofNat 8 (nibbleOf v.v high), v.p⟩], some up) : LineItem)]
  match b with
  | .fill _ => []
  | .mem va => [(va, [v], none)]
  | .halves (.mem a false) (.mem b true) => if a = b then [(a, [v], none)] else half (.mem a false) false ++ half (.mem b true) true
  | .halves lo hi => half lo false ++ half hi true

/-- Consecutive bytes of a line are one write; a nibble stands alone. -/
def groupItems : List LineItem → List LineItem
  | [] => []
  | (va, bs, some high) :: rest => (va, bs, some high) :: groupItems rest
  | (va, bs, none) :: rest =>
    match groupItems rest with
    | (w, ws, none) :: more => if w = va + bs.length ∧ w % 64 ≠ 0 then (va, bs ++ ws, none) :: more else (va, bs, none) :: (w, ws, none) :: more
    | other => (va, bs, none) :: other

/-- Whole bytes to be written. -/
def asItems (l : List (Nat × List PByte)) : List LineItem := l.map fun m => (m.1, m.2, none)

/-- What a command writes once it has read: a COPY's destinations, the tile or the box of a walk tile, a part of an MCRECV's image (R161,
R164, R258); `tab` holds the homes of a COPY's destinations. -/
def State.writesOf (s : State) (core : Nat) (c : Cmd) (pad : Nat) (tab : LineTable) : List LineItem :=
  match c.op with
  | .copy size lanes => asItems (byteRuns (copyBytes tab (lanes.map fun m => (m.1, c.gotBytes m.2.1 size))))
  | .bulkIn n r coord => asItems (lineRuns (s.tileVa core n + 4096 * c.walked) ((r.walkBytes coord pad c.walked).map c.byteIn))
  | .bulkOut n r coord =>
    let (lo, len) := walkPart r.imageBytes c.walked
    groupItems (((r.walkBytes coord pad c.walked).zip (c.gotBytes (s.tileVa core n + lo) len)).flatMap fun b => outItems b.1 b.2)
  | .mcrecv n _ _ => asItems (lineRuns (s.tileVa core n + 4096 * c.walked) ((c.bytes.drop (4096 * c.walked)).take 4096))
  | .mcast _ _ _ => []

/-- The lines a COPY writes, whose homes say which of its lanes' bytes stand. -/
def CmdOp.copyLines (o : CmdOp) : List Nat :=
  match o with
  | .copy _ lanes => linesOf (lanes.map Prod.fst)
  | _ => []

/-- The last walk tile of a command has been read: a drained tile is empty from then on (R163). -/
def State.tileDrained (s : State) (core : Nat) (c : Cmd) : State :=
  match c.op with
  | .bulkOut n r _ => if r.imageBytes ≤ 4096 * (c.walked + 1) then s.setTile core n fun e => { e with state := .empty } else s
  | _ => s

/-- The reads are over: the writes are listed. -/
def State.listWrites (s : State) (core k : Nat) (c : Cmd) : State :=
  match s.lineHomes { cmdWho core c with counts := false } .engineWrite c.op.copyLines with
  | (s1, .error e) => s1.lineStop core c e.1 e.2
  | (s1, .ok tab) =>
    let (pad, s2) := s1.draw
    let todo := s.writesOf core c pad tab
    (s2.tileDrained core c).modCmd core k c.id fun x => { x with moving := true, got := [], todo := todo }

/-- A command of a queue goes on by one line: it reads, then lists its writes, then writes; `finish` follows the last. -/
def State.advance (s : State) (core k : Nat) (c : Cmd) (finish : State → State) : State :=
  if c.moving then
    match c.todo with
    | [] => finish s
    | m :: _ => s.linePut core k c m.1
  else
    match firstWhere (fun l => (tbGet c.got l).isNone) (s.readsOf core c) with
    | some l => s.lineFetch core k c l
    | none => s.listWrites core k c

/-! ### COPY (R161, R256) -/

/-- The sectors of each barrier a COPY names, by its home (R161). -/
def copySectors (size : Nat) (lanes : List (Nat × Nat × Nat × Nat)) : List (Nat × Nat) :=
  let bars := distinct (lanes.map fun m => m.2.2.2)
  bars.map fun b => (b, ceilDiv (size * (lanes.filter fun m => m.2.2.2 == b).length) 32)

/-- The command at the head of a COPY queue goes on: all its reads, then its destination lines, then its sectors (COPY_COMPLETE). -/
def State.copyComplete (s : State) (core : Nat) : State :=
  match (s.core core).copyQ with
  | [] => s
  | c :: _ =>
    match c.op with
    | .copy size lanes =>
      if s.cmdReady core c then
        s.advance core 0 c fun a => ((copySectors size lanes).foldl (fun acc b => acc.barComplete b.1 b.2) a).dequeue core 0 c
      else s
    | _ => s

/-! ### Walks (R257, R258) -/

/-- The walk of a command has tiles left. -/
def Cmd.walking (x : Cmd) : Bool :=
  !x.done && (match x.op.walk with
    | some _ => true
    | none => false)

/-- A walk tile of a command is done: so many are, and with the last one the walk is over; a tile it fills shows its progress (R258). -/
def State.walkNext (s : State) (core k : Nat) (c : Cmd) (n image : Nat) (fills : Bool) : State :=
  let s1 := if fills then s.setTile core n fun e => { e with progress := c.walked + 1 } else s
  s1.modCmd core k c.id fun y =>
    { y with walked := y.walked + 1, moving := false, todo := [], done := decide (image ≤ 4096 * (y.walked + 1)) }

/-- The walk at work in a core goes on (WALK_TILE_COMPLETE). -/
def State.walkTileComplete (s : State) (core : Nat) : State :=
  match firstWhere Cmd.walking (s.core core).bulkQ with
  | none => s
  | some c =>
    match c.op.walk with
    | some (n, r, _, out) =>
      if s.cmdReady core c then s.advance core 1 c fun a => a.walkNext core 1 c n r.imageBytes (!out || decide (4096 * (c.walked + 1) < r.imageBytes))
      else s
    | none => s

/-- The BULK at the head whose walk is over completes: its tile is ready, its barrier takes its sectors (BULK_COMPLETE, R163). -/
def State.bulkComplete (s : State) (core : Nat) : State :=
  match (s.core core).bulkQ with
  | [] => s
  | c :: _ =>
    match c.op.walk with
    | some (n, r, _, out) =>
      if c.done ∧ s.engineWorks core c then
        let s1 := if out then s else s.setTile core n fun e => { e with state := .ready }
        (s1.barComplete c.barKey (ceilDiv r.imageBytes 32)).dequeue core 1 c
      else s
    | none => s

/-! ### Multicast (R260, R261) -/

/-- The room of a parked tile: its size rounded up to 16 KiB. -/
def parkedRoom (p : Parked) : Nat := ceilDiv p.bytes.length 16384 * 16384

/-- Slots of the holding buffer a gang holds. -/
def Die.slotsOf (d : Die) (g : GangId) : Nat := (d.holding.filter fun p => p.gang == g).length

/-- The holding buffer takes a tile of a gang. -/
def Die.takes (d : Die) (g : GangId) (size : Nat) : Bool :=
  decide (d.slotsOf g < 16) && decide (d.holding.length < 64) &&
    decide (sumNat (d.holding.map parkedRoom) + ceilDiv size 16384 * 16384 ≤ 1048576)

/-- An MCAST that came to its queue's head earlier on the die still waits for room; one that its gang's 16 slots keep waiting keeps no
other gang's (R260). -/
def State.mcastAhead (s : State) (core : Nat) (c : Cmd) : Bool :=
  s.cores.any fun x => decide (x.1 / 64 = core / 64) && x.1 != core &&
    (match x.2.mcastQ with
     | [] => false
     | y :: _ =>
       (match y.op with
        | .mcast _ _ _ => decide (y.headAt < c.headAt) && (y.wg.gang == c.wg.gang || decide ((s.die (core / 64)).slotsOf y.wg.gang < 16))
        | _ => false))

/-- The tiles a save took out of the holding buffer are parked again as room comes; the number bounds them (R264). -/
def State.repark (s : State) (g : GangId) : Nat → State
  | 0 => s
  | n + 1 =>
    let q := s.gang g
    match q.parked with
    | [] => s
    | p :: rest =>
      if (s.die q.die).takes g p.bytes.length then
        ((s.modDie q.die fun d => { d with holding := d.holding ++ [p] }).modGang g fun x => { x with parked := rest }).repark g n
      else s

/-- The gangs of a core with a tile that can be parked again now. -/
def State.reparkers (s : State) (core : Nat) : List GangId :=
  ((s.wgsOn core).map fun w => w.1.gang).filter fun g =>
    (s.gang g).state.works && (s.gang g).parked.head?.any fun p => (s.die (s.gang g).die).takes g p.bytes.length

/-- The MCAST at the head of a core's queue parks its tile (MCAST_PARKED, R164). -/
def State.mcastHead (s : State) (core : Nat) : State :=
  match (s.core core).mcastQ with
  | [] => s
  | c :: _ =>
    match c.op with
    | .mcast n mask channel =>
      match tbGet (s.core core).tiles n with
      | none => s
      | some tile =>
        if s.cmdReady core c ∧ (s.gang c.wg.gang).parked = [] ∧ (s.die (core / 64)).takes c.wg.gang tile.size ∧
            !s.mcastAhead core c then
          s.onLines core c .engineRead (linesIn tile.va tile.size) fun s1 tab =>
            let (s2, bs) := s1.readLines c.wg.gang core tab
            let s3 := s2.modDie (core / 64) fun d =>
              { d with holding := d.holding ++ [⟨c.id, c.wg.gang, c.wg.member, channel, mask, [], [], bs⟩] }
            ((s3.setTile core n fun e => { e with state := .empty }).barComplete c.barKey (ceilDiv tile.size 32)).dequeue core 2 c
        else s
    | _ => s

/-- MCAST_PARKED: tiles of a resumed gang go before its queued commands (R264). -/
def State.mcastParked (s : State) (core : Nat) : State :=
  match s.reparkers core with
  | [] => s.mcastHead core
  | gs => gs.foldl (fun acc g => acc.repark g (s.gang g).parked.length) s

/-- The lane parked at an MCRECV goes on. -/
def Thread.mcrecvGo (t : Thread) (id : Nat) : Thread :=
  match t.wait with
  | .mcrecv k next => if k = id then { t with wait := .ready, pc := next } else t
  | _ => t

/-- An MCRECV goes on with its copy; its walk tiles done, the tile is ready, the sectors are counted, the parked tile is drained (R164). -/
def State.mcrecvCopy (s : State) (core : Nat) (c : Cmd) (n id : Nat) : State :=
  if c.done then
    (((s.setTile core n fun e => { e with state := .ready }).barComplete c.barKey (ceilDiv c.bytes.length 32)).dequeue core 2 c).modDie
      (core / 64) fun d => d.drain id c.wg.member
  else s.advance core 2 c fun a => a.walkNext core 2 c n c.bytes.length true

/-- An MCRECV that waited claims the oldest tile there is: its lane goes on, or takes the fault of a tile too small (R164). -/
def State.mcrecvClaim (s : State) (core : Nat) (c : Cmd) (n : Nat) (tile : Tile) (p : Parked) (t : ThreadId) : State :=
  let here := (s.thread t).pc
  if tile.size < p.bytes.length then
    ((s.setTile core n fun e => { e with state := .empty }).dequeue core 2 c).takeFault t (hereFault 0x1A 3 here) here here here
  else
    ((s.modCore core fun x => x.claimFor c.id p).modDie (core / 64) fun d => d.claims p.id c.wg.member).modThread t fun th => th.mcrecvGo c.id

/-- The MCRECV at the head of a core's queue goes on (MCRECV_COMPLETE, R164, R261). -/
def State.mcrecvComplete (s : State) (core : Nat) : State :=
  match (s.core core).mcastQ with
  | [] => s
  | c :: _ =>
    match c.op with
    | .mcrecv n sender channel =>
      match tbGet (s.core core).tiles n with
      | none => s
      | some tile =>
        if !s.cmdReady core c || (s.gang c.wg.gang).parked != [] then s
        else
          match c.claim with
          | some id => s.mcrecvCopy core c n id
          | none =>
            match (s.die (core / 64)).oldest c.wg.gang c.wg.member sender channel 0, c.srcs.head? with
            | some p, some t => s.mcrecvClaim core c n tile p t
            | _, _ => s
    | _ => s

/-- COPY_COMPLETE (R252). -/
def execCopyComplete (core : Nat) (s : State) : Host.Outcome State Fault Refusal := .next (s.copyComplete core)

/-- WALK_TILE_COMPLETE (R258). -/
def execWalkTileComplete (core : Nat) (s : State) : Host.Outcome State Fault Refusal := .next (s.walkTileComplete core)

/-- BULK_COMPLETE (R163). -/
def execBulkComplete (core : Nat) (s : State) : Host.Outcome State Fault Refusal := .next (s.bulkComplete core)

/-- MCAST_PARKED (R164). -/
def execMcastParked (core : Nat) (s : State) : Host.Outcome State Fault Refusal := .next (s.mcastParked core)

/-- MCRECV_COMPLETE (R164). -/
def execMcrecvComplete (core : Nat) (s : State) : Host.Outcome State Fault Refusal := .next (s.mcrecvComplete core)

end Sys2Proof.Machine
end

