-- ==== Sys2Proof/Machine/Slot.lean ====
section
/-! DEFINITION. Operand and accumulator slots: SCLAIM, SREL, SLDT, SSTT, PACK, UNPACK, AZERO (spec/08 R165 to R176, R183). -/

namespace Sys2Proof.Machine

/-! ### Formats (Table 8-1) -/

/-- Bits of an element of a format. -/
def fmtBits (f : Nat) : Nat :=
  match f with
  | 0 => 8
  | 1 => 4
  | 2 => 8
  | 3 => 4
  | 4 => 16
  | 5 => 16
  | 6 => 32
  | _ => 64

/-- Elements of a slot in a format. -/
def fmtCount (f : Nat) : Nat := 32768 / fmtBits f

/-- R and K of an operand (Table 8-1). -/
def fmtShape (f : Nat) : Nat × Nat :=
  match f with
  | 0 => (64, 64)
  | 1 => (64, 128)
  | 2 => (64, 64)
  | 3 => (64, 128)
  | 4 => (64, 32)
  | 5 => (64, 32)
  | 6 => (32, 32)
  | _ => (16, 32)

/-- Elements of a register unit. -/
def fmtUnit (f : Nat) : Nat := if f = 4 ∨ f = 5 then 2 else 1

/-- Headers of a slot in a format. -/
def fmtHeaders (f : Nat) : Nat := if blockFormat f then fmtCount f / 32 else 0

/-- Bytes of a slot's image in a tile (R175). -/
def slotImage (f : Nat) : Nat := 4096 + 2 * fmtHeaders f

/-! ### Elements -/

/-- Byte i of a slot's element array. -/
def OpSlot.byte (s : OpSlot) (i : Nat) : Nat := (smGet (0 : Byte) s.elem i).toNat

/-- Element u of a slot, of a width. -/
def OpSlot.get (s : OpSlot) (bits u : Nat) : Nat :=
  if bits = 4 then s.byte (u / 2) / 16 ^ (u % 2) % 16
  else sumNat ((natsFrom 0 (bits / 8)).map fun k => s.byte (u * (bits / 8) + k) * 256 ^ k)

/-- Write element u of a slot, with its poison bit. -/
def OpSlot.put (s : OpSlot) (bits u v : Nat) (p : Bool) : OpSlot :=
  let set := fun (e : List (Nat × Byte)) (i b : Nat) => smSet (0 : Byte) e i (BitVec.ofNat 8 b)
  let elem :=
    if bits = 4 then
      let old := s.byte (u / 2)
      set s.elem (u / 2) (if u % 2 = 0 then old / 16 * 16 + v % 16 else old % 16 + v % 16 * 16)
    else (natsFrom 0 (bits / 8)).foldl (fun e k => set e (u * (bits / 8) + k) (v / 256 ^ k % 256)) s.elem
  { s with elem := elem, poison := nsPut s.poison u p }

/-- Header h of a slot. -/
def OpSlot.header (s : OpSlot) (h : Nat) : Nat := (smGet (0 : BitVec 16) s.hdr h).toNat

/-- Write header h of a slot. -/
def OpSlot.putHeader (s : OpSlot) (h v : Nat) : OpSlot := { s with hdr := smSet (0 : BitVec 16) s.hdr h (BitVec.ofNat 16 v) }

/-- The header of element (i, c) of a view of so many columns (R167). -/
def headerOf2 (colBlocked : Bool) (cols i c : Nat) : Nat := if colBlocked then i / 32 * cols + c else (i * cols + c) / 32

/-- A slot as SCLAIM leaves it (R165). -/
def OpSlot.fresh (w : WgId) : OpSlot := ⟨w, [], [], [], none, false⟩

/-- An accumulator slot cleared (R168). -/
def AccSlot.fresh (w : WgId) : AccSlot := ⟨w, [], [], 0⟩

/-! ### Checks of a slot operand (R171, R185) -/

/-- A fault 0x19 of the matrix instructions. -/
def slotFault (info : Nat) (here : Dword) : FaultInfo := hereFault 0x19 info here

/-- A slot number: a poisoned register is consumed, then its range and the workgroup's hold on it. -/
def State.slotOf (s : State) (t : ThreadId) (a : PWord) (acc : Bool) (here : Dword) : Except FaultInfo Nat :=
  let n := a.v.toNat
  let c := s.core (s.coreOf t.warp)
  let held := if acc then (tbGet c.accs n).map AccSlot.owner else (tbGet c.slots n).map OpSlot.owner
  if a.p then .error (consumed 0)
  else if (if acc then 8 else 32) ≤ n then .error (slotFault 1 here)
  else if held = some t.warp.wg then .ok n else .error (slotFault 2 here)

/-- A posted round still has to read an operand slot, or to write an accumulator (R183). -/
def Core.slotBusy (c : Core) (acc : Bool) (n : Nat) : Bool :=
  c.matQ.any fun e =>
    if acc then natBits e.op.sword.toNat 18 16 == n
    else !e.started && (natBits e.op.sword.toNat 4 0 == n || natBits e.op.sword.toNat 12 8 == n)

/-- Change an operand slot. -/
def State.modSlot (s : State) (core n : Nat) (f : OpSlot → OpSlot) : State :=
  s.modCore core fun c => { c with slots := tbModify c.slots n f }

/-- Change an accumulator slot. -/
def State.modAcc (s : State) (core n : Nat) (f : AccSlot → AccSlot) : State :=
  s.modCore core fun c => { c with accs := tbModify c.accs n f }

/-- An instruction that a posted round makes wait (R183): held whole while a guard-true lane names such a slot. -/
def State.runSlots (s : State) (i : Instr) (acc : Bool) (act : State → ThreadId → Dword → Dword → State × LaneEnd) : State :=
  let id := s.here
  let lanes := (((s.warp id).cur.map Issue.lanes).getD []).filter fun l => (s.thread ⟨id, l⟩).guard i.ext.guard
  let busy := lanes.any fun l => (s.core (s.coreOf id)).slotBusy acc ((s.thread ⟨id, l⟩).reg i.ext.a).v.toNat
  s.runLanes i false fun a t here next => if busy then (a, .stall) else act a t here next

/-! ### SCLAIM, SREL, AZERO -/

/-- The lowest free slot of a core. -/
def Core.freeSlot (c : Core) (acc : Bool) : Option Nat :=
  if acc then firstWhere (fun n => (tbGet c.accs n).isNone) (natsFrom 0 8)
  else firstWhere (fun n => (tbGet c.slots n).isNone) (natsFrom 0 32)

/-- The slot a group claims, if a lane is guard-true and one is free (R170). -/
def State.claim (s : State) (x : Ext) : State × Option Nat :=
  let id := s.here
  let core := s.coreOf id
  let acc := x.modABit 0
  let any := (((s.warp id).cur.map Issue.lanes).getD []).any fun l => (s.thread ⟨id, l⟩).guard x.guard
  match (s.core core).freeSlot acc with
  | some n =>
    if any then
      (s.modCore core fun c =>
        if acc then { c with accs := tbSet c.accs n (AccSlot.fresh id.wg) } else { c with slots := tbSet c.slots n (OpSlot.fresh id.wg) },
       some n)
    else (s, none)
  | none => (s, none)

/-- SCLAIM: once for the group (R170). -/
def State.runSclaim (s : State) (x : Ext) : State :=
  let (s1, got) := s.claim x
  s.orOverrun (s1.runLanes (.sclaim x) false fun a t _ _ =>
    let th := a.thread t
    (a.setThread t
      (match got with
       | some n => (th.writeRegs (wideWrite x.d 1 ⟨n, false⟩)).writePred (predNum x.c) true
       | none => th.writePred (predNum x.c) false), .go))

/-- SREL in one lane; `s0` is the state before the instruction (R171). -/
def actSrel (x : Ext) (s0 s : State) (t : ThreadId) (here _ : Dword) : State × LaneEnd :=
  let acc := x.modABit 0
  let a := (s.thread t).reg x.a
  match s0.slotOf t a acc here with
  | .error f => (s, .fault f)
  | .ok n =>
    match s.slotOf t a acc here with
    | .error _ => (s, .go)
    | .ok _ =>
      (s.modCore (s.coreOf t.warp) fun c =>
        if acc then { c with accs := tbErase c.accs n } else { c with slots := tbErase c.slots n }, .go)

/-- AZERO in one lane (R172). -/
def actAzero (x : Ext) (s : State) (t : ThreadId) (here _ : Dword) : State × LaneEnd :=
  match s.slotOf t ((s.thread t).reg x.a) true here with
  | .error f => (s, .fault f)
  | .ok n => (s.modAcc (s.coreOf t.warp) n fun _ => AccSlot.fresh t.warp.wg, .go)

/-! ### SLDT and SSTT -/

/-- What a tile image makes of a slot (R175): its elements are new, its headers those of a block format alone, its poison bits the image's. -/
def OpSlot.load (s : OpSlot) (f : Nat) (bs : List PByte) : OpSlot :=
  let bits := fmtBits f
  let cells := (natsFrom 0 4096).zip bs
  let elem := cells.filterMap fun c => if c.2.v = 0 then none else some (c.1, c.2.v)
  let poison := (cells.filter fun c => c.2.p).flatMap fun c => natsFrom (c.1 * 8 / bits) (max 1 (8 / bits))
  let s1 := (natsFrom 0 (fmtHeaders f)).foldl
    (fun acc h => acc.putHeader h (natOfBytes (((bs.drop (4096 + 2 * h)).take 2).map PByte.v))) s
  { s1 with elem := elem, poison := poison.foldl nsInsert [], fmt := some f, axis := false }

/-- An instruction of a lane on n bytes of scratch from a line: it acts once the homes of the lines can be reached and what stands before
the lane on its way is performed (R130, R214, R228); an uncorrectable entry is met as everywhere (R232). -/
def State.onLinesOf (s : State) (t : ThreadId) (need : Need) (va n : Nat) (act : State → LineTable → State × LaneEnd) :
    State × LaneEnd :=
  match s.lineHomes (s.unitWho t) need (linesIn va n) with
  | (s1, .error (va, .resolve why)) => s1.waitPage t why va
  | (s1, .error (_, .broken)) => (s1, .broken)
  | (_, .error _) => (s, .stall)
  | (s1, .ok tab) => if tab.any fun e => e.2.any fun h => s.stepWaits t h.key 64 then s.holdPlace t .stall else act s1 tab

/-- SLDT in one lane (R175). -/
def actSldt (x : Ext) (s : State) (t : ThreadId) (here _ : Dword) : State × LaneEnd :=
  let core := s.coreOf t.warp
  let f := x.immBits 3 0
  match s.slotOf t ((s.thread t).reg x.a) false here with
  | .error e => (s, .fault e)
  | .ok n =>
    match (s.core core).tileRead t.warp.wg (Ext.tileNo x) with
    | .bad => (s, .fault (hereFault 0x0B 0 here))
    | .wait => (s, .stall)
    | .yes tile =>
      if tile.size < slotImage f then (s, .fault (slotFault 3 here))
      else
        s.onLinesOf t .engineRead tile.va (slotImage f) fun s1 tab =>
          let (s2, bs) := s1.readLines t.gang core tab
          ((s2.readByThread t tab).modSlot core n fun slot => slot.load f bs, .go)

/-- The image of a slot in its recorded format (R176). -/
def OpSlot.image (s : OpSlot) (f : Nat) : List PByte :=
  let bits := fmtBits f
  let bad := fun (i : Nat) => (natsFrom (i * 8 / bits) (max 1 (8 / bits))).any fun u => s.poison.contains u
  ((natsFrom 0 4096).map fun i => ⟨BitVec.ofNat 8 (s.byte i), bad i⟩) ++
  (natsFrom 0 (fmtHeaders f)).flatMap fun h => cleanBytes 2 (s.header h)

/-- SSTT in one lane (R176). -/
def actSstt (x : Ext) (s : State) (t : ThreadId) (here _ : Dword) : State × LaneEnd :=
  let core := s.coreOf t.warp
  match s.slotOf t ((s.thread t).reg x.a) false here with
  | .error e => (s, .fault e)
  | .ok n =>
    let slot := (tbGet (s.core core).slots n).getD (OpSlot.fresh t.warp.wg)
    match slot.fmt with
    | none => (s, .fault (slotFault 4 here))
    | some f =>
      match (s.core core).tileIdle t.warp.wg (Ext.tileNo x) with
      | .bad => (s, .fault (hereFault 0x0B 0 here))
      | .wait => (s, .stall)
      | .yes tile =>
        if tile.size < slotImage f then (s, .fault (slotFault 3 here))
        else
          s.onLinesOf t .engineWrite tile.va (slotImage f) fun s1 tab =>
            match s1.writeByThread t tab (lineRuns tile.va (slot.image f)) with
            | none => (s1, .broken)
            | some s2 => ((s2.soilAt t tile.va).setTile core (Ext.tileNo x) fun e => { e with state := .ready }, .go)

/-! ### PACK and UNPACK (R173, R174) -/

/-- u0 of a run (R169). -/
def Ext.runStart (x : Ext) : Nat := x.immBits 12 0

/-- The register checks of a run of pairs (R169). -/
def pairRun (i : Instr) (start : RegIdx) (count n : Nat) (here : Dword) : Option FaultInfo :=
  let last := start.toNat + 2 * count - 1
  if start.toNat % 2 = 1 ∨ 496 ≤ last then some (wordFault 0x01 i here)
  else if n ≤ last then some (wordFault 0x02 i here) else none

/-- Register unit j of a run, as a value of one word or a pair. -/
def Thread.unit (t : Thread) (start : RegIdx) (wide : Bool) (j : Nat) : PVal :=
  let at_ := fun (k : Nat) => smGet PWord.zero t.regs (start.toNat + k)
  if wide then
    ⟨(at_ (2 * j)).v.toNat + 2 ^ 32 * (at_ (2 * j + 1)).v.toNat, (at_ (2 * j)).p || (at_ (2 * j + 1)).p⟩
  else ⟨(at_ j).v.toNat, (at_ j).p⟩

/-- A run of PACK lies in the slot (R173). -/
def packFits (f : Nat) (cb : Bool) (u0 count : Nat) : Bool :=
  let (r, k) := fmtShape f
  if cb then decide (u0 / r + 32 ≤ k) && decide (u0 % r + count ≤ r) && u0 / r % 32 == 0
  else decide (u0 + 32 * fmtUnit f * count ≤ fmtCount f) && (!blockFormat f || u0 % 32 == 0)

/-- The element of unit j, part e, of a lane (R173). -/
def packIndex (f : Nat) (cb : Bool) (u0 lane j e : Nat) : Nat :=
  let r := (fmtShape f).1
  let n := fmtUnit f
  if cb then (u0 / r + lane) * r + u0 % r + j else u0 + 32 * n * j + n * lane + e

/-- The header a unit's block has (R173). -/
def packHeader (f : Nat) (cb : Bool) (u0 lane j : Nat) : Nat :=
  let r := (fmtShape f).1
  if cb then u0 / r / 32 * r + u0 % r + j else packIndex f cb u0 lane j 0 / 32

/-- One unit goes into a slot; `lead` says that this lane brings the block's header. DESIGN CHOICE: where the format changes, each poison bit
stays with the number of its element (log entry 72). -/
def OpSlot.packUnit (s : OpSlot) (f : Nat) (cb lead : Bool) (u0 lane j : Nat) (v : PVal) : OpSlot :=
  let bits := fmtBits f
  let s1 := (natsFrom 0 (fmtUnit f)).foldl
    (fun acc e => acc.put bits (packIndex f cb u0 lane j e) (v.v / 2 ^ (bits * e) % 2 ^ bits) v.p) s
  if blockFormat f && lead then s1.putHeader (packHeader f cb u0 lane j) (natBits v.v 31 16) else s1

/-- A lower guard-true lane of the group packs blocks into the same slot (R173). -/
def State.packLower (s : State) (t : ThreadId) (x : Ext) (n : Nat) : Bool :=
  (((s.warp t.warp).cur.map Issue.lanes).getD []).any fun l =>
    let th := s.thread ⟨t.warp, l⟩
    decide (l < t.lane) && th.guard x.guard && (th.reg x.a).v.toNat == n && blockFormat ((th.reg x.c).v.toNat % 16)

/-- PACK in one lane (R173). DESIGN CHOICE: the slot's number and owner are judged first, then the format word's poison, then its format
(log entry 72). -/
def actPack (x : Ext) (s : State) (t : ThreadId) (here _ : Dword) : State × LaneEnd :=
  let th := s.thread t
  let core := s.coreOf t.warp
  let cb := x.modABit 0
  let c := th.reg x.c
  let f := c.v.toNat % 16
  let u0 := Ext.runStart x
  let count := x.runCount
  match s.slotOf t (th.reg x.a) false here with
  | .error e => (s, .fault e)
  | .ok n =>
    if c.p then (s, .fault (consumed 0))
    else if 8 ≤ f ∨ (cb ∧ !blockFormat f) then (s, .fault (hereFault 0x0D 4 here))
    else
      match (if f = 7 then pairRun (.pack x) x.b count (s.header t.gang).regs here else none) with
      | some e => (s, .fault e)
      | none =>
        if !packFits f cb u0 count then (s, .fault (slotFault 6 here))
        else
          let lead := !s.packLower t x n
          (s.modSlot core n fun slot =>
            { ((natsFrom 0 count).foldl (fun acc j => acc.packUnit f cb lead u0 t.lane j (th.unit x.b (f == 7) j)) slot) with
                fmt := some f, axis := cb }, .go)

/-- Sign-extend an element to 32 bits (R61). -/
def extend32 (bits v : Nat) : Nat := if 2 ^ (bits - 1) ≤ v then v + 2 ^ 32 - 2 ^ bits else v

/-- The register unit of a slot that starts at element u, in its format (R174). -/
def OpSlot.unit (s : OpSlot) (f u : Nat) : PVal :=
  let bits := fmtBits f
  let (r, k) := fmtShape f
  let v := s.get bits u
  let p := s.poison.contains u
  match f with
  | 0 => ⟨extend32 8 v, p⟩
  | 1 => ⟨extend32 4 v, p⟩
  | 4 => ⟨v + 2 ^ 16 * s.get bits (u + 1), p || s.poison.contains (u + 1)⟩
  | 5 => ⟨v + 2 ^ 16 * s.get bits (u + 1), p || s.poison.contains (u + 1)⟩
  | 6 => ⟨v, p⟩
  | 7 => ⟨v, p⟩
  | _ =>
    let cols := if s.axis then r else k
    ⟨s.header (headerOf2 s.axis cols (u / cols) (u % cols)) * 2 ^ 16 + v, p⟩

/-- Word k of an accumulator slot. -/
def AccSlot.word (a : AccSlot) (k : Nat) : PVal := ⟨(smGet (0 : Word) a.words k).toNat, a.poison.contains k⟩

/-- The register unit u of an accumulator in a format (R174). -/
def AccSlot.unit (a : AccSlot) (f u : Nat) : PVal :=
  if f = 2 then
    ⟨(a.word (2 * u)).v + 2 ^ 32 * (a.word (2 * u + 1)).v, (a.word (2 * u)).p || (a.word (2 * u + 1)).p⟩
  else a.word u

/-- The registers a run of units fills. -/
def unitWrites (d : RegIdx) (words : Nat) (vs : List PVal) : List (Nat × PWord) :=
  regWrites d (vs.flatMap fun v => (wordsOf words v.v).map fun w => ⟨w, v.p⟩)

/-- UNPACK from an operand slot in one lane (R174). -/
def actUnpackOp (x : Ext) (s : State) (t : ThreadId) (here _ : Dword) : State × LaneEnd :=
  let th := s.thread t
  let b := th.reg x.b
  let f := b.v.toNat % 16
  let u0 := Ext.runStart x
  let count := x.runCount
  match s.slotOf t (th.reg x.a) false here with
  | .error e => (s, .fault e)
  | .ok n =>
    let slot := (tbGet (s.core (s.coreOf t.warp)).slots n).getD (OpSlot.fresh t.warp.wg)
    if b.p then (s, .fault (consumed 0))
    else if slot.fmt ≠ some f then (s, .fault (hereFault 0x0D 4 here))
    else
      match (if f = 7 then pairRun (.unpack x) x.d count (s.header t.gang).regs here else none) with
      | some e => (s, .fault e)
      | none =>
        if fmtCount f < u0 + 32 * fmtUnit f * count then (s, .fault (slotFault 6 here))
        else
          let vs := (natsFrom 0 count).map fun j => slot.unit f (packIndex f false u0 t.lane j 0)
          (s.setThread t (th.writeRegs (unitWrites x.d (if f = 7 then 2 else 1) vs)), .go)

/-- UNPACK.acc in one lane (R174). -/
def actUnpackAcc (x : Ext) (s : State) (t : ThreadId) (here _ : Dword) : State × LaneEnd :=
  let th := s.thread t
  let b := th.reg x.b
  let f := natBits b.v.toNat 11 8
  let u0 := Ext.runStart x
  let count := x.runCount
  match s.slotOf t (th.reg x.a) true here with
  | .error e => (s, .fault e)
  | .ok n =>
    let acc := (tbGet (s.core (s.coreOf t.warp)).accs n).getD (AccSlot.fresh t.warp.wg)
    if b.p then (s, .fault (consumed 0))
    else if 2 < f then (s, .fault (hereFault 0x0D 4 here))
    else
      match (if f = 2 then pairRun (.unpack x) x.d count (s.header t.gang).regs here else none) with
      | some e => (s, .fault e)
      | none =>
        if (if f = 2 then 256 else 4096) < u0 + 32 * count then (s, .fault (slotFault 6 here))
        else
          let vs := (natsFrom 0 count).map fun j => acc.unit f (u0 + 32 * j + t.lane)
          (s.setThread t (th.writeRegs (unitWrites x.d (if f = 2 then 2 else 1) vs)), .go)

/-- SCLAIM (R170). -/
def execSclaim (x : Ext) (s : State) : Host.Outcome State Fault Refusal := .next (s.runSclaim x)

/-- SREL (R171). -/
def execSrel (x : Ext) (s : State) : Host.Outcome State Fault Refusal := .next (s.runSlots (.srel x) (x.modABit 0) (actSrel x s))

/-- SLDT (R175). -/
def execSldt (x : Ext) (s : State) : Host.Outcome State Fault Refusal := .next (s.runSlots (.sldt x) false (actSldt x))

/-- SSTT (R176). -/
def execSstt (x : Ext) (s : State) : Host.Outcome State Fault Refusal := boundaryOn (.sstt x) (actSstt x) s

/-- PACK (R173). -/
def execPack (x : Ext) (s : State) : Host.Outcome State Fault Refusal := .next (s.runSlots (.pack x) false (actPack x))

/-- UNPACK (R174). -/
def execUnpack (x : Ext) (s : State) : Host.Outcome State Fault Refusal :=
  if x.modABit 0 then .next (s.runSlots (.unpack x) true (actUnpackAcc x)) else boundaryOn (.unpack x) (actUnpackOp x) s

/-- AZERO (R172). -/
def execAzero (x : Ext) (s : State) : Host.Outcome State Fault Refusal := .next (s.runSlots (.azero x) true (actAzero x))

end Sys2Proof.Machine
end

