-- ==== Sys2Proof/Machine/Matrix.lean ====
section
/-! DEFINITION. Signing a round, the matrix FIFO and the array's sums: MMA, KREAD and the two events of an entry (spec/04 R74 to R77;
spec/08 R167, R177 to R184). -/

namespace Sys2Proof.Machine

/-! ### The format word and the slot word (Tables 8-3, 8-4) -/

/-- The element format of a format word. -/
def fwFmt (w : Word) : Nat := natBits w.toNat 3 0
/-- The accumulator format of a format word. -/
def fwAcc (w : Word) : Nat := natBits w.toNat 11 8
/-- A is read through the column port. -/
def fwTa (w : Word) : Bool := natBit w.toNat 12
/-- B is read through the column port. -/
def fwTb (w : Word) : Bool := natBit w.toNat 13
/-- NaN elements are read as +0. -/
def fwNz (w : Word) : Bool := natBit w.toNat 14
/-- Slot A of a slot word. -/
def swA (w : Word) : Nat := natBits w.toNat 4 0
/-- Slot B of a slot word. -/
def swB (w : Word) : Nat := natBits w.toNat 12 8
/-- The accumulator slot of a slot word. -/
def swAcc (w : Word) : Nat := natBits w.toNat 18 16

/-- The accumulator a format pairs with (Table 4-8). -/
def pairedAcc (f : Nat) : Nat :=
  match f with
  | 0 => 0
  | 1 => 0
  | 7 => 2
  | _ => 1

/-- The format word is valid (R177). -/
def fwValid (w : Word) : Bool :=
  let f := fwFmt w
  w.toNat / 2 ^ 15 == 0 && decide (f ≤ 7) && natBits w.toNat 7 4 == f && fwAcc w == pairedAcc f && !(fwNz w && decide (f ≤ 1))

/-- The reserved bits of a slot word are zero (R178). -/
def swValid (w : Word) : Bool := w.toNat / 2 ^ 19 == 0 && natBits w.toNat 15 13 == 0 && natBits w.toNat 7 5 == 0

/-- S of R181: the sectors of an entry. -/
def mmaSectors (fword : Word) : Nat := if fwAcc fword = 2 then 64 else 512

/-! ### Checks and signing (R179 to R181) -/

/-- The workgroup holds the slots of a slot word (Table 8-5 step 3). -/
def Core.holds (c : Core) (w : WgId) (sw : Word) : Bool :=
  (tbGet c.slots (swA sw)).map OpSlot.owner == some w && (tbGet c.slots (swB sw)).map OpSlot.owner == some w &&
    (tbGet c.accs (swAcc sw)).map AccSlot.owner == some w

/-- The operation a lane signs, by the checks of Table 8-5. -/
def State.mmaOp (s : State) (t : ThreadId) (x : Ext) (here : Dword) : State × Except LaneEnd MmaOp :=
  let th := s.thread t
  let a := th.reg x.a
  let b := th.reg x.b
  let c := th.pair x.c
  if a.p || b.p || c.p then (s, .error (.fault (consumed 0)))
  else if !fwValid a.v then (s, .error (.fault (hereFault 0x0D 1 here)))
  else if !swValid b.v || !(s.core (s.coreOf t.warp)).holds t.warp.wg b.v then (s, .error (.fault (slotFault 5 here)))
  else if c.v = 0 then (s, .ok ⟨a.v, b.v, 0, keyGone⟩)
  else
    match s.translate { s.who t with counts := false } .engineBar c.v 16 with
    | (s1, .ok key _ _ region) =>
      if scratchKey key region && s1.tagged key then (s1, .ok ⟨a.v, b.v, c.v, key⟩) else (s1, .error (recordFault 4 here))
    | (s1, .bad _) => (s1, .error (recordFault 4 here))
    | (s1, .resolve why) => (s1.askFor t why c.v, .error .stall)
    | (s1, .hold) => (s1, .error .stall)
    | (s1, .broken) => (s1, .error .broken)

/-- Which item of two operations differs, the lowest (R180). -/
def opDiffers (a b : MmaOp) : Option Nat :=
  if a.fword ≠ b.fword then some 1 else if a.sword ≠ b.sword then some 2 else if a.bar ≠ b.bar then some 3 else none

/-- An error arrival, counting no sectors, on a round's barrier (Table 8-6). -/
def State.barFail (s : State) (op : MmaOp) : State := if op.bar = 0 then s else s.barApply op.barKey true true 0 []

/-- A slot holds the format and the block axis a round needs (R181). -/
def slotReady (c : Core) (n f : Nat) (t : Bool) : Bool :=
  match tbGet c.slots n with
  | some s => s.fmt == some f && (!blockFormat f || s.axis == t)
  | none => false

/-- The last signer posts (R181): its slots are checked, and the operation enters the FIFO once it has room. -/
def State.post (s : State) (t : ThreadId) (k : Nat) (r : KReg) (op : MmaOp) (here : Dword) : State × LaneEnd :=
  let core := s.coreOf t.warp
  let c := s.core core
  let r1 := { r with fword := op.fword, count := r.count + 1, op := some op, signers := r.signers ++ [t] }
  let fail := fun (n : Nat) =>
    ((s.setKreg t.warp.wg k { r1 with state := .poisoned }).barFail op, LaneEnd.fault (hereFault 0x0D n here))
  if !slotReady c (swA op.sword) (fwFmt op.fword) (fwTa op.fword) then fail 2
  else if !slotReady c (swB op.sword) (fwFmt op.fword) (fwTb op.fword) then fail 3
  else if 8 ≤ c.matQ.length then (s, .stall)
  else
    let e : MatEntry :=
      { id := s.nextId, wg := t.warp.wg, signers := r1.signers, op := op, started := false, a := none, b := none,
        behind := c.behindNow 3, dropped := false }
    let s1 := ({ s with nextId := s.nextId + 1 }.modCore core fun c => { c with matQ := c.matQ ++ [e] }).setKreg t.warp.wg k
      { r1 with state := .posted }
    (if op.bar = 0 then s1 else s1.barApply op.barKey true false (mmaSectors op.fword : Nat) [], .go)

/-- A lane signs a round (Table 8-6). -/
def actMma (x : Ext) (s : State) (t : ThreadId) (here next : Dword) : State × LaneEnd :=
  let k := x.modABits 2 0
  match s.mmaOp t x here with
  | (s1, .error e) => (s1, e)
  | (s1, .ok op) =>
    let r := (s1.wg t.warp.wg).kreg k
    let sign := fun (r : KReg) => { r with count := r.count + 1, signers := r.signers ++ [t] }
    match r.state, r.op with
    | .opened, none =>
      if r.expected = 1 then s1.post t k r op here
      else (s1.setKreg t.warp.wg k { sign r with fword := op.fword, op := some op }, .go)
    | .opened, some o =>
      match opDiffers o op with
      | none => if r.count + 1 = r.expected then s1.post t k r o here else (s1.setKreg t.warp.wg k (sign r), .go)
      | some n =>
        ((s1.setKreg t.warp.wg k { sign r with state := .poisoned }).barFail o, .trap (hereFault 0x0C n here) next)
    | .poisoned, _ =>
      if r.count < r.expected then (s1.setKreg t.warp.wg k (sign r), .go) else (s1, .fault (hereFault 0x1C 0 here))
    | _, _ => (s1, .fault (hereFault 0x1C 0 here))

/-- The code of a state of a convergence register (Table 1-3). -/
def KState.code : KState → Nat
  | .idle => 0
  | .opened => 1
  | .posted => 2
  | .poisoned => 3

/-- The image of a convergence register (Table 1-3). -/
def KReg.image (r : KReg) : Nat := r.fword.toNat * 2 ^ 32 + r.state.code * 2 ^ 30 + r.count % 2048 * 2 ^ 11 + r.expected % 2048

/-- KREAD in one lane (R184). -/
def actKread (x : Ext) (s : State) (t : ThreadId) (_ _ : Dword) : State × LaneEnd :=
  let v := ((s.wg t.warp.wg).kreg (x.modABits 2 0)).image
  (s.setThread t ((s.thread t).writeRegs (wideWrite x.d 2 ⟨v, false⟩)), .go)

/-! ### The array's arithmetic (R74 to R77, R167) -/

/-- The place of X[r][k] in a slot's element array (R167). -/
def operandIndex (f : Nat) (t : Bool) (r k : Nat) : Nat :=
  let (rows, len) := fmtShape f
  if t then k * rows + r else r * len + k

/-- The bits of X[r][k]. -/
def OpSlot.operand (s : OpSlot) (f : Nat) (t : Bool) (r k : Nat) : Nat := s.get (fmtBits f) (operandIndex f t r k)

/-- The header of X[r][k] of a block format read with its blocks along K (R167). -/
def OpSlot.operandHeader (s : OpSlot) (f : Nat) (t : Bool) (r k : Nat) : Nat :=
  let (rows, len) := fmtShape f
  s.header (if t then headerOf2 true rows k r else headerOf2 false len r k)

/-- X[r][k] as a value of its float or block format; under .nz a NaN is +0 (R76). -/
def OpSlot.value (s : OpSlot) (f : Nat) (t nz : Bool) (r k : Nat) : FVal :=
  let bits := s.operand f t r k
  let h := s.operandHeader f t r k
  let v :=
    match f with
    | 2 => blockValue false (h / 256) (h % 256) bits
    | 3 => blockValue true (h / 256) (h % 256) bits
    | 4 => f16.read false bits
    | 5 => bf16.read false bits
    | 6 => f32.read false bits
    | _ => f64.read false bits
  if nz && v.isNaN then .fin false 0 0 else v

/-- X[r][k] as an integer. -/
def OpSlot.int (s : OpSlot) (f : Nat) (t : Bool) (r k : Nat) : Int := signedN (fmtBits f) (s.operand f t r k)

/-- NaN elements of an operand (R76). -/
def OpSlot.nans (s : OpSlot) (f : Nat) (t : Bool) : Nat :=
  let (rows, len) := fmtShape f
  sumNat ((natsFrom 0 rows).map fun r => ((natsFrom 0 len).filter fun k => (s.value f t false r k).isNaN).length)

/-- The exact sum of finite products, a zero sum negative only when every product is (R75). -/
def sumFin (ps : List FVal) : FVal :=
  let parts := ps.filterMap fun v => match v with
    | .fin n m e => some (n, m, e)
    | _ => none
  let e := (parts.map fun p => p.2.2).foldl min 0
  let x := parts.foldl (fun (a : Int) p => a + signedMag p.1 (p.2.1 * 2 ^ (p.2.2 - e).toNat)) 0
  if x = 0 then .fin (!parts.isEmpty && parts.all fun p => p.1) 0 e else .fin (decide (x < 0)) x.natAbs e

/-- The value of a group in binary32 (R75). -/
def groupValue (pairs : List (FVal × FVal)) : Nat :=
  let ps := pairs.map fun p => (mulV p.1 p.2).1
  let hasInf := fun (neg : Bool) => ps.any fun v => v == .inf neg
  if ps.any FVal.isNaN then f32.canonNaN
  else if hasInf true && hasInf false then f32.canonNaN
  else if hasInf true then f32.infinity true
  else if hasInf false then f32.infinity false
  else (f32.deliver .rne false noFlags (sumFin ps)).bits

/-- The K-group size of a format (Table 4-8). -/
def groupSize (f : Nat) : Nat := if f = 7 then 1 else if f = 6 then 8 else 32

/-- One element of the result: the accumulator's bits after every group, in ascending K (R74). -/
def mmaElement (fw : Word) (a b : OpSlot) (m n acc : Nat) : Nat :=
  let f := fwFmt fw
  let len := (fmtShape f).2
  let g := groupSize f
  let ks := fun (i : Nat) => natsFrom (i * g) g
  if f ≤ 1 then
    (natsFrom 0 (len / g)).foldl
      (fun acc i =>
        let sum := (ks i).foldl (fun (s : Int) k => s + a.int f (fwTa fw) m k * b.int f (fwTb fw) n k) 0
        ((acc + sum) % 2 ^ 32).toNat) acc
  else
    let pair := fun (k : Nat) => (a.value f (fwTa fw) (fwNz fw) m k, b.value f (fwTb fw) (fwNz fw) n k)
    (natsFrom 0 (len / g)).foldl
      (fun acc i =>
        if f = 7 then
          let p := pair i
          (f64.fmaF .rne false p.1 p.2 (f64.read false acc)).bits
        else (addRNE f32 acc (groupValue ((ks i).map pair))).bits) acc

/-- Row r of an operand carries poison. -/
def OpSlot.rowPoison (s : OpSlot) (f : Nat) (t : Bool) (r : Nat) : Bool :=
  (natsFrom 0 (fmtShape f).2).any fun k => s.poison.contains (operandIndex f t r k)

/-- The first word of element (m, n) of an accumulator, and the words it has (R168). -/
def accPlace (fw : Word) (m n : Nat) : Nat × Nat := if fwAcc fw = 2 then (2 * (m * 16 + n), 2) else (m * 64 + n, 1)

/-- Write one element of an accumulator. -/
def AccSlot.putElement (acc : AccSlot) (word words v : Nat) (p : Bool) : AccSlot :=
  { acc with words := ((natsFrom word words).zip (wordsOf words v)).foldl (fun w e => smSet (0 : Word) w e.1 e.2) acc.words
             poison := (natsFrom word words).foldl (fun q k => nsPut q k p) acc.poison }

/-- The accumulator after an entry (R182). -/
def mmaApply (fw : Word) (a b : OpSlot) (acc : AccSlot) : AccSlot :=
  let f := fwFmt fw
  let rows := (fmtShape f).1
  let cells := (natsFrom 0 rows).flatMap fun m => (natsFrom 0 rows).map fun n => (m, n)
  let out := cells.foldl
    (fun o c =>
      let (word, words) := accPlace fw c.1 c.2
      let old := acc.unit (fwAcc fw) (if words = 2 then word / 2 else word)
      o.putElement word words (mmaElement fw a b c.1 c.2 old.v)
        (old.p || a.rowPoison f (fwTa fw) c.1 || b.rowPoison f (fwTb fw) c.2)) acc
  if fwNz fw then { out with nanc := min 0xFFFFFFFF (out.nanc + a.nans f (fwTa fw) + b.nans f (fwTb fw)) } else out

/-! ### The FIFO (R181 to R183) -/

/-- An entry starts: it reads its operand slots (MATRIX_ENTRY_START). -/
def State.matrixStart (s : State) (core : Nat) : State :=
  let c := s.core core
  match c.matQ with
  | [] => s
  | e :: rest =>
    if e.started || e.behind.any c.hasWork then s
    else
      let e1 := { e with started := true, a := tbGet c.slots (swA e.op.sword), b := tbGet c.slots (swB e.op.sword) }
      s.modCore core fun c => { c with matQ := e1 :: rest }

/-- An entry has written its accumulator: its sectors are subtracted and its place is free (MATRIX_ENTRY_COMPLETE); the results of
a gang that has ended are dropped (R265). -/
def State.matrixComplete (s : State) (core : Nat) : State :=
  match (s.core core).matQ with
  | [] => s
  | e :: rest =>
    if !e.started then s
    else
      let s1 :=
        match e.dropped, e.a, e.b with
        | false, some a, some b =>
          let s2 := s.modAcc core (swAcc e.op.sword) fun acc => mmaApply e.op.fword a b acc
          s2.barComplete e.op.barKey (mmaSectors e.op.fword)
        | _, _, _ => s
      (s1.modCore core fun c => Core.releaseGone { c with matQ := rest } e.wg).wgEnd e.wg

/-- MMA (R179). -/
def execMma (x : Ext) (s : State) : Host.Outcome State Fault Refusal := boundaryOn (.mma x) (actMma x) s

/-- KREAD (R184). -/
def execKread (x : Ext) (s : State) : Host.Outcome State Fault Refusal := boundaryOn (.kread x) (actKread x) s

/-- MATRIX_ENTRY_START (R182). -/
def execMatrixEntryStart (core : Nat) (s : State) : Host.Outcome State Fault Refusal := .next (s.matrixStart core)

/-- MATRIX_ENTRY_COMPLETE (R182). -/
def execMatrixEntryComplete (core : Nat) (s : State) : Host.Outcome State Fault Refusal := .next (s.matrixComplete core)

end Sys2Proof.Machine
end

