-- ==== Sys2Proof/Machine/Transducer.lean ====
section
/-! DEFINITION. Digit-transducer contexts and passes: DTCTX, DT2, DT1, DTCMP, DTEVAL, DTSTAT (spec/04 R78; spec/09 R187 to R196). -/

namespace Sys2Proof.Machine

/-! ### Contexts (R187, R188) -/

/-- Bytes of a context image. -/
def ctxBytes : Nat := 16448

/-- n bytes of a context from an offset, as a number. -/
def Ctx.num (c : Ctx) (off n : Nat) : Nat := sumNat ((natsFrom 0 n).map fun i => (smGet (0 : Byte) c.bytes (off + i)).toNat * 256 ^ i)

/-- The digit width. -/
def Ctx.width (c : Ctx) : Nat := c.num 0 1
/-- MSD-first. -/
def Ctx.msd (c : Ctx) : Bool := c.num 1 1 == 1
/-- The state count. -/
def Ctx.nstates (c : Ctx) : Nat := c.num 2 1
/-- The start state. -/
def Ctx.start (c : Ctx) : Nat := c.num 3 1
/-- Digit codes in use. -/
def Ctx.alphabet (c : Ctx) : Nat := c.num 4 1
/-- Recurrence coefficient a. -/
def Ctx.coefA (c : Ctx) : Int := signedN 8 (c.num 5 1)
/-- Recurrence coefficient b. -/
def Ctx.coefB (c : Ctx) : Int := signedN 8 (c.num 6 1)
/-- The weight of position 1. -/
def Ctx.weight1 (c : Ctx) : Int := signedN 32 (c.num 8 4)
/-- map[q]. -/
def Ctx.mapOf (c : Ctx) (q : Nat) : Int := signedN 16 (c.num (0x10 + 2 * q) 2)
/-- The class of a state. -/
def Ctx.classOf (c : Ctx) (i : Nat) : Nat := c.num 0x30 8 / 4 ^ i % 4
/-- The entry of a state and two digits. -/
def Ctx.entry (c : Ctx) (st x y : Nat) : Nat := c.num (0x40 + 2 * (st * 256 + x * 16 + y)) 2

/-- The header of an image is right (R190). -/
def Ctx.headerOk (c : Ctx) : Bool :=
  (c.width == 1 || c.width == 2 || c.width == 4) && decide (c.num 1 1 ≤ 1) && decide (1 ≤ c.nstates) && decide (c.nstates ≤ 32) &&
  decide (c.start < c.nstates) && decide (2 ≤ c.alphabet) && decide (c.alphabet ≤ 2 ^ c.width) && c.num 7 1 == 0 &&
  c.num 0x0C 4 == 0 && c.num 0x38 8 == 0 &&
  (natsFrom 0 32).all fun i => if i < c.nstates then c.classOf i != 3 else c.classOf i == 0

/-- An entry is right (R190). -/
def Ctx.entryOk (c : Ctx) (st x y : Nat) : Bool :=
  let e := c.entry st x y
  if c.nstates ≤ st ∨ 2 ^ c.width ≤ x ∨ 2 ^ c.width ≤ y then e == 0
  else !natBit e 15 || (decide (natBits e 14 10 < c.nstates) && decide (natBits e 9 6 < c.alphabet) && natBits e 5 0 == 0)

/-- The image is right (R190). -/
def Ctx.ok (c : Ctx) : Bool :=
  c.headerOk && (natsFrom 0 32).all fun st => (natsFrom 0 16).all fun x => (natsFrom 0 16).all fun y => c.entryOk st x y

/-- The context of a number that a workgroup has loaded (R19). -/
def State.ctxOf (s : State) (w : WgId) (k : Nat) : Option Ctx :=
  match tbGet (s.core (s.wg w).core).ctxs k with
  | some c => if c.owner = w then some c else none
  | none => none

/-! ### DTCTX (R190) -/

/-- The context number of an instruction. -/
def Ext.ctxNo (x : Ext) : Nat := x.modABits 1 0

/-- The lane has done its part of the instruction at a PC and waits there for a lane of its group that is held. -/
def Thread.doneWith (t : Thread) (here : Dword) (lane : Nat) : Bool :=
  match t.wait with
  | .together mates h _ => h == here && mates.contains lane
  | _ => false

/-- A lower lane of the same DTCTX names the same image: one of the group at work, or one of it that has done its part. -/
def State.ctxLower (s : State) (t : ThreadId) (x : Ext) (here : Dword) : Bool :=
  let w := s.warp t.warp
  let group := (w.cur.map Issue.lanes).getD []
  (natsFrom 0 t.lane).any fun l =>
    let th := w.thread l
    (group.contains l || th.doneWith here t.lane) && th.guard x.guard && (th.pair x.a).v == ((s.thread t).pair x.a).v

/-- An image from an address lies within its allocation: one window's, or pages of kind 4. -/
def State.imageInside (s : State) (who : Who) (va : Nat) : Bool :=
  let last := va + ctxBytes - 1
  let kind4 := fun (a : Nat) =>
    match s.walk who.gang.part a with
    | .leaf l => pteKind l.entry == 4
    | _ => false
  (if 2 ^ 55 ≤ va % 2 ^ 56 then decide (va / 2 ^ 24 = last / 2 ^ 24) else kind4 va && kind4 last) &&
    (linesIn va ctxBytes).all fun l => (s.quietKey who (64 * l)).isSome

/-- A context from the bytes of its image. -/
def ctxOfImage (w : WgId) (bs : List PByte) : Ctx :=
  ⟨w, ((natsFrom 0 ctxBytes).zip bs).filterMap fun b => if b.2.v = 0 then none else some (b.1, b.2.v)⟩

/-- A workgroup takes a context number, unless another holds it, with the image that lines of a table hold (R190, steps 2 to 5). -/
def State.loadCtx (s : State) (t : ThreadId) (k : Nat) (tab : LineTable) (here : Dword) : State × LaneEnd :=
  let core := s.coreOf t.warp
  match firstWhere (fun e => e.2.isNone) tab with
  | some e => (s, .fault ⟨0x05, 64 * e.1, 5⟩)
  | none =>
    if ((tbGet (s.core core).ctxs k).map Ctx.owner).any fun w => w != t.warp.wg then (s, .fault (slotFault 7 here))
    else
      let (s1, bs) := s.readLines t.gang core tab
      let s2 := s1.readByThread t tab
      let c := ctxOfImage t.warp.wg bs
      if anyPoison bs then (s2, .fault (consumed 0))
      else if !c.ok then (s2, recordFault 5 here)
      else (s2.modCore core fun x => { x with ctxs := tbSet x.ctxs k c }, .go)

/-- DTCTX in one lane (R190). -/
def actDtctx (x : Ext) (s : State) (t : ThreadId) (here _ : Dword) : State × LaneEnd :=
  if s.ctxLower t x here then (s, .go)
  else
    match flatOf ((s.thread t).flatWords x.a) with
    | .error f => (s, .fault f)
    | .ok va =>
      match s.translate (s.who t) .image va 64 with
      | (s1, .ok key _ _ region) =>
        if !scratchKey key region then (s1, .fault ⟨0x05, va, 5⟩)
        else if !s1.imageInside (s1.who t) va then (s1, .fault ⟨0x07, va, 2⟩)
        else s1.onLinesOf t .image va ctxBytes fun s2 tab => s2.loadCtx t (Ext.ctxNo x) tab here
      | (s1, .bad f) => (s1, .fault f)
      | (s1, .resolve why) => (s1.askFor t why va, .stall)
      | (s1, .hold) => (s1, .stall)
      | (s1, .broken) => (s1, .broken)

/-! ### Passes (R193, R196) -/

/-- The fault record of a transducer instruction (Table 9-5). -/
def dtFault (flag ctx y x state pos : Nat) : FaultInfo :=
  ⟨0x0E, 0, flag + ctx * 2 ^ 24 + y * 2 ^ 20 + x * 2 ^ 16 + state * 2 ^ 8 + pos⟩

/-- Digit i of a string (R78). -/
def digitOf (w s i : Nat) : Nat := s / 2 ^ (w * i) % 2 ^ w

/-- The walk of a pass over positions: the digits written so far and the state (R193). -/
def Ctx.run (c : Ctx) (k : Nat) (a b : Nat) (two : Bool) : List Nat → Nat → Nat → Except FaultInfo (Nat × Nat)
  | [], o, st => .ok (o, st)
  | i :: is, o, st =>
    let x := digitOf c.width a i
    let y := if two then digitOf c.width b i else 0
    let e := c.entry st x y
    if !natBit e 15 then .error (dtFault 0 k y x st i)
    else c.run k a b two is (o + natBits e 9 6 % 2 ^ c.width * 2 ^ (c.width * i)) (natBits e 14 10)

/-- The positions of a pass in visiting order. -/
def Ctx.positions (c : Ctx) : List Nat :=
  let ps := natsFrom 0 (64 / c.width)
  if c.msd then ps.reverse else ps

/-- The status word of a pass (Table 9-4). -/
def Ctx.status (c : Ctx) (k st : Nat) : Nat := 2 ^ 31 + k * 2 ^ 10 + c.classOf st * 2 ^ 8 + st

/-- The state a pass starts in; a status word that is not a pass's faults (R193). -/
def Ctx.startOf (c : Ctx) (k : Nat) (cont : Option PWord) : Except FaultInfo Nat :=
  match cont with
  | none => .ok c.start
  | some q =>
    let v := q.v.toNat
    if q.p then .error (consumed 4)
    else if !natBit v 31 || natBits v 30 12 != 0 || natBits v 7 5 != 0 || decide (c.nstates ≤ natBits v 4 0) then
      .error (dtFault (2 ^ 27) k 0 0 0 0)
    else .ok (natBits v 4 0)

/-- One pass in one lane: the digits and the final state of its context (R193). -/
def State.pass1 (s : State) (t : Thread) (x : Ext) (field : RegIdx) (two : Bool) : Except FaultInfo (Ctx × Nat × Nat) :=
  let k := Ext.ctxNo x
  match s.ctxOf s.here.wg k with
  | none => .error (dtFault (2 ^ 26) k 0 0 0 0)
  | some c =>
    match c.startOf k (if x.cont then some (t.reg field) else none) with
    | .error f => .error f
    | .ok st =>
      let a := t.pair x.a
      let b := if two then t.pair x.b else ⟨0, false⟩
      if a.p || b.p then .error (consumed 4)
      else
        match c.run k a.v b.v two c.positions 0 st with
        | .error f => .error f
        | .ok r => .ok (c, r)

/-- DT2 and DT1 in one lane. -/
def laneDt (two : Bool) (s : State) (x : Ext) (w : Warp) (_ : Issue) (l : Nat) : LaneOut :=
  match s.pass1 (w.thread l) x x.c two with
  | .error f => { fault := some f }
  | .ok (c, o, st) =>
    { regs := wideWrite x.d 2 ⟨o, false⟩ ++ wideWrite x.c 1 ⟨c.status (Ext.ctxNo x) st, false⟩ }

/-- DTCMP in one lane. -/
def laneDtcmp (s : State) (x : Ext) (w : Warp) (_ : Issue) (l : Nat) : LaneOut :=
  match s.pass1 (w.thread l) x x.d true with
  | .error f => { fault := some f }
  | .ok (c, _, st) =>
    { regs := wideWrite x.d 1 ⟨c.status (Ext.ctxNo x) st, false⟩, preds := [(predNum x.c, c.classOf st == x.modABits 4 3)] }

/-- The value of a string: its digits from position i on, with the weights of the two positions before (R194). -/
def Ctx.value (c : Ctx) (k a : Nat) : List Nat → Int → Int → Int → Except FaultInfo Int
  | [], _, _, v => .ok v
  | i :: is, w1, w2, v =>
    let q := digitOf c.width a i
    if c.alphabet ≤ q then .error (dtFault (2 ^ 28) k 0 q 0 i)
    else
      let w := if i = 0 then 1 else if i = 1 then c.weight1 else c.coefA * w1 + c.coefB * w2
      c.value k a is w w1 (v + c.mapOf q * w)

/-- DTEVAL in one lane (R194). -/
def laneDteval (s : State) (x : Ext) (w : Warp) (_ : Issue) (l : Nat) : LaneOut :=
  let k := Ext.ctxNo x
  let a := (w.thread l).pair x.a
  match s.ctxOf s.here.wg k with
  | none => { fault := some (dtFault (2 ^ 26) k 0 0 0 0) }
  | some c =>
    if a.p ∧ predNum x.c ≠ 7 then { fault := some (consumed 2) }
    else
      match c.value k a.v (natsFrom 0 (64 / c.width)) 0 0 0 with
      | .error f => if a.p then { regs := wideWrite x.d 2 ⟨0, true⟩ } else { fault := some f }
      | .ok v =>
        let lo : Int := -(2 ^ 63)
        let hi : Int := 2 ^ 63 - 1
        let sat := if v < lo then lo else if hi < v then hi else v
        { regs := wideWrite x.d 2 ⟨(sat % 2 ^ 64).toNat, a.p⟩, preds := [(predNum x.c, decide (v < lo) || decide (hi < v))] }

/-- DTSTAT in one lane (R195). -/
def laneDtstat (x : Ext) (t : Thread) : LaneOut :=
  let a := t.reg x.a
  if a.p then { fault := some (consumed 4) }
  else { preds := [(predNum x.d, a.v.getLsbD 31 && natBits a.v.toNat 9 8 == x.modABits 1 0)] }

/-- DTCTX (R190). -/
def execDtctx (x : Ext) (s : State) : Host.Outcome State Fault Refusal := boundaryOn (.dtctx x) (actDtctx x) s

/-- DT2 (R193). -/
def execDt2 (x : Ext) (s : State) : Host.Outcome State Fault Refusal := .next (s.runSpan (.dt2 x) (laneDt true s x))

/-- DT1 (R193). -/
def execDt1 (x : Ext) (s : State) : Host.Outcome State Fault Refusal := .next (s.runSpan (.dt1 x) (laneDt false s x))

/-- DTCMP (R193). -/
def execDtcmp (x : Ext) (s : State) : Host.Outcome State Fault Refusal := .next (s.runSpan (.dtcmp x) (laneDtcmp s x))

/-- DTEVAL (R194). -/
def execDteval (x : Ext) (s : State) : Host.Outcome State Fault Refusal := .next (s.runSpan (.dteval x) (laneDteval s x))

/-- DTSTAT (R195). -/
def execDtstat (x : Ext) (s : State) : Host.Outcome State Fault Refusal := spanOn (.dtstat x) (laneDtstat x) s

end Sys2Proof.Machine
end

