-- ==== Sys2Proof/Machine/Control.lean ====
section
/-! DEFINITION. Control: transfers, rejoin masks, SEAL, YIELD, the ends of a thread, NAP, traps and the return from a handler
(spec/02 R40, R41; spec/03 R58; spec/05 R85 to R95). -/

namespace Sys2Proof.Machine

/-! ### Transfers (R87) -/

/-- An offset target. -/
def offsetTarget (here : Dword) (off : Int) : Nat := wrap64 (here.toNat + 4 * off)

/-- A lane goes to a target by the transfer rules, its link written. -/
def State.transfer (s : State) (t : ThreadId) (tgt : PVal) (link : List (Nat × PWord)) : State × LaneEnd :=
  match transferFault tgt.v tgt.p with
  | some f => (s, .fault f)
  | none => (s.setThread t ((s.thread t).writeRegs link), .jump (BitVec.ofNat 64 tgt.v))

/-- The guard-true lanes of the group at work. -/
def State.groupTrue (s : State) (guard : BitVec 4) : List Nat :=
  (((s.warp s.here).cur.map Issue.lanes).getD []).filter fun l => (s.thread ⟨s.here, l⟩).guard guard

/-- The direction of BRV for the whole group. -/
def State.brvTaken (s : State) (x : Ext) : Bool :=
  let vs := (s.groupTrue x.guard).map fun l => (s.thread ⟨s.here, l⟩).pred (x.modABits 2 0) != x.modABit 3
  match x.modABits 5 4 with
  | 0 => vs.any id
  | 1 => vs.all id
  | _ => vs.all not

/-- BRA and BRV where it is taken: to the offset target. -/
def actBra (off : Int) (s : State) (t : ThreadId) (here _ : Dword) : State × LaneEnd :=
  s.transfer t ⟨offsetTarget here off, false⟩ []

/-- BRX and RET in one lane. -/
def actBrx (x : Ext) (s : State) (t : ThreadId) (_ _ : Dword) : State × LaneEnd := s.transfer t ((s.thread t).pair x.a) []

/-- CALL in one lane. -/
def actCall (x : Ext) (s : State) (t : ThreadId) (here next : Dword) : State × LaneEnd :=
  s.transfer t ⟨offsetTarget here x.simm, false⟩ (wideWrite x.d 2 ⟨next.toNat, false⟩)

/-- CALLX in one lane. -/
def actCallx (x : Ext) (s : State) (t : ThreadId) (_ next : Dword) : State × LaneEnd :=
  s.transfer t ((s.thread t).pair x.a) (wideWrite x.d 2 ⟨next.toNat, false⟩)

/-! ### Rejoin masks (R88, R89) -/

/-- A rejoin mask of a warp. -/
def Warp.mask (w : Warp) (j : Nat) : Word := (tbGet w.masks j).getD 0

/-- Mask j releases: each of its lanes is parked at an RJWAIT on j or has exited. -/
def Warp.releases (w : Warp) (j : Nat) : Bool :=
  (natsFrom 0 32).all fun l => !(w.mask j).getLsbD l ||
    (match (w.thread l).wait with
     | .rejoin k _ => k == j
     | .exited => true
     | _ => false)

/-- Parked lanes of released masks, and lanes parked on a mask whose bit is clear, become ready (R89). -/
def Warp.rejoinTest (w : Warp) : Warp :=
  w.mapThreads fun l t =>
    match t.wait with
    | .rejoin j next => if w.releases j || !(w.mask j).getLsbD l then { t with wait := .ready, pc := next } else t
    | _ => t

/-- The lanes of the group at work as a mask. -/
def State.groupMask (s : State) : Word :=
  (((s.warp s.here).cur.map Issue.lanes).getD []).foldl (fun m l => m ||| 1#32 <<< l) 0

/-- Change a rejoin mask of the warp at work. -/
def State.setMask (s : State) (j : Nat) (f : Word → Word) : State :=
  s.modWarp s.here fun w => { w with masks := tbSet w.masks j (f (w.mask j)) }

/-- RJMARK over the group. -/
def State.runRjmark (s : State) (i : Instr) (j : Nat) (join : Bool) : State :=
  let m := s.groupMask
  s.orOverrun
    (((s.setMask j fun old => if join then old ||| m else m).runLanes i false fun a _ _ _ => (a, .go)).modWarp s.here Warp.rejoinTest)

/-- RJDROP over the group. -/
def State.runRjdrop (s : State) (i : Instr) (j : Nat) : State :=
  let m := s.groupMask
  s.orOverrun (((s.setMask j fun old => old &&& ~~~m).runLanes i false fun a _ _ _ => (a, .go)).modWarp s.here Warp.rejoinTest)

/-- RJWAIT in one lane. -/
def actRjwait (j : Nat) (s : State) (t : ThreadId) (_ next : Dword) : State × LaneEnd :=
  (s, if ((s.warp t.warp).mask j).getLsbD t.lane then .park (.rejoin j next) else .go)

/-- RJWAIT over the group. -/
def State.runRjwait (s : State) (i : Instr) (j : Nat) : State :=
  (s.runLanes i false (actRjwait j)).modWarp s.here Warp.rejoinTest

/-- RJREAD in one lane. -/
def actRjread (x : Ext) (s : State) (t : ThreadId) (_ _ : Dword) : State × LaneEnd :=
  (s.setThread t ((s.thread t).writeRegs (wideWrite x.d 1 ⟨((s.warp t.warp).mask (x.modABits 2 0)).toNat, false⟩)), .go)

/-! ### SEAL (R82, R85) -/

/-- The results a SEAL names need not land before it. -/
def Thread.nameResults (t : Thread) (names : List Nat) : Thread :=
  { t with pends := t.pends.map fun p => if p.regs.any fun r => names.contains r then { p with sealing := false } else p }

/-- SEAL: what it does not name has to land first. -/
def State.runSeal (s : State) (i : Instr) (names : List RegIdx) : State :=
  let ns := (names.map BitVec.toNat).filter fun n => n != 0
  let s1 := s.modWarp s.here fun w =>
    { w with lanes := w.lanes.map fun l =>
        if ((w.cur.map Issue.lanes).getD []).contains l.1 then (l.1, l.2.nameResults ns) else l }
  let w := s1.warp s.here
  if w.landed ((w.cur.map Issue.lanes).getD []) then s1.runLanes i false fun a _ _ _ => (a, .go) else s1

/-! ### YIELD (R58, R90) -/

/-- A guard-true YIELD: the count is 0, the deadline anew, the registers above the live count zero, and a result still outstanding
for one of them lands nowhere. -/
def Thread.yield (t : Thread) (live dexp : Nat) : Thread :=
  { t with
      wd := 0, deadline := 2 ^ (8 + dexp), live := some live, regs := smFilter (fun r => decide (r ≤ 16 * live)) t.regs
      pends := t.pends.map fun p => { p with regs := p.regs.map fun r => if r ≤ 16 * live then r else 0 } }

/-- YIELD over the group; in a draining gang its lanes stop (R90, R286). -/
def State.runYield (s : State) (i : Instr) (live dexp : Nat) : State :=
  let lanes := s.groupTrue i.ext.guard
  let drains := (s.gang s.here.gang).state == .draining
  let s1 := s.runLanes i false fun a _ _ next => (a, if drains then .park (.drained next) else .go)
  s.orOverrun (lanes.foldl (fun acc l => acc.modThread ⟨s.here, l⟩ fun t => t.yield live dexp) s1)

/-! ### Ends (R91, R92, R280) -/

/-- Operations a lane issued that are not complete, those a save holds among them (R91, R92, R264, R337). -/
def State.outstanding (s : State) (t : ThreadId) : Bool :=
  let q := s.gang t.gang
  ((s.core (s.coreOf t.warp)) :: q.cores.map Prod.snd).any (fun c =>
      (c.copyQ ++ c.bulkQ ++ c.mcastQ).any (fun x => x.srcs.contains t) ||
        c.matQ.any fun e => e.signers.contains t && !e.dropped) ||
    (s.accessesOf t ++ q.gated.filter fun a => a.src == .thread t).any fun a => !a.isLoad

/-- A lane of a warp has ended: masks and barriers it stood in the way of are tested, its workgroup and its gang may have ended. -/
def State.laneEnded (s : State) (id : WarpId) : State :=
  (((s.modWarp id Warp.rejoinTest).syncTest id.wg).wgEnd id.wg).gangDone id.gang

/-- TAIL in one lane: its loads are dropped unseen. -/
def actTail (s : State) (t : ThreadId) (_ _ : Dword) : State × LaneEnd :=
  let th := s.thread t
  ((s.dropAccesses (th.pends.map Pend.id)).setThread t th.exit, .park .exited)

/-- TAIL over the group: its lanes end at once; what they leave outstanding takes one entry of the tracker (R91, R280). -/
def State.runTail (s : State) (i : Instr) : State :=
  let id := s.here
  let core := s.coreOf id
  let left := ((s.groupTrue i.ext.guard).map fun l => (⟨id, l⟩ : ThreadId)).filter fun t => s.outstanding t
  if left.isEmpty then s.orOverrun ((s.runLanes i false actTail).laneEnded id)
  else
    match firstWhere (fun n => (tbGet (s.core core).tracker n).isNone) (natsFrom 0 16) with
    | none => s.runLanes i false fun a _ _ _ => (a, .stall)
    | some n =>
      s.orOverrun
        (((s.runLanes i false actTail).modCore core fun c => { c with tracker := tbSet c.tracker n ⟨id.gang, left⟩ }).laneEnded id)

/-- A tracker entry whose operations are complete frees (TRACKER_ENTRY_FREE, R280). -/
def State.trackerFree (s : State) (core n : Nat) : State :=
  match tbGet (s.core core).tracker n with
  | none => s
  | some e => if e.threads.any s.outstanding then s else s.modCore core fun c => { c with tracker := tbErase c.tracker n }

/-- EXIT holds each guard-true lane until its operations are complete (R92). -/
def actExit (s : State) (_ : ThreadId) (_ _ : Dword) : State × LaneEnd := (s, .park .exitWait)

/-- EXIT over the group. -/
def State.runExit (s : State) (i : Instr) : State := (s.runLanes i false actExit).gangDone s.here.gang

/-- A lane held at EXIT ends once its operations are complete (EXIT_COMPLETE, R92). -/
def State.exitComplete (s : State) (t : ThreadId) : State :=
  if (s.thread t).wait = .exitWait ∧ !s.outstanding t then (s.modThread t Thread.exit).laneEnded t.warp else s

/-! ### NAP (R93) -/

/-- NAP in one lane. -/
def actNap (x : Ext) (s : State) (t : ThreadId) (_ next : Dword) : State × LaneEnd :=
  let n := x.imm.toNat * 64
  let w := s.warp t.warp
  let mine := (w.cur.map Issue.lanes).getD []
  if n = 0 then
    let others := w.readyLanes.filter fun l => !mine.contains l
    (s, .park (.napTurn (others.map fun l => (l, (w.thread l).issues)) next))
  else (s, .park (.nap (s.clk + n) (s.clk + n + 1024) next))

/-- A nap ends: its time has come, or the other groups have issued or are not ready (NAP_END, R93). -/
def State.napEnd (s : State) (t : ThreadId) : State :=
  match (s.thread t).wait with
  | .nap earliest _ next =>
    if earliest ≤ s.clk then s.modThread t fun th => { th with wait := .ready, pc := next } else s
  | .napTurn others next =>
    if others.all fun l => !(s.warp t.warp).readyLanes.contains l.1 || ((s.warp t.warp).thread l.1).issues != l.2 then s.modThread t fun th => { th with wait := .ready, pc := next }
    else s
  | _ => s

/-! ### Traps and ERET (R94, R95) -/

/-- TRAP and BRK in one lane. -/
def actTrap (kind code : Nat) (s : State) (_ : ThreadId) (_ next : Dword) : State × LaneEnd := (s, .deliver ⟨kind, 0, code⟩ next)

/-- ERET in one lane. -/
def actEret (i : Instr) (s : State) (t : ThreadId) (here _ : Dword) : State × LaneEnd :=
  let th := s.thread t
  if !th.inHandler then (s, .fault (wordFault 0x01 i here))
  else
    match transferFault th.fr.pc.toNat false with
    | some f => (s, .fault f)
    | none => (s.setThread t th.returnFromFault, .jump th.fr.pc)

/-! ### The watchdog (R90) -/

/-- The lane's count reached its deadline at the instruction its group came to issue: a gang-level fault. -/
def State.watchdog (s : State) (t : ThreadId) : State :=
  match (s.warp t.warp).cur with
  | none => s
  | some g =>
    if s.focus = some t.warp ∧ g.overrun = some t.lane then
      s.gangFault t.gang 0x12 { thread := some t, pc := g.pc.toNat, entry := g.entry.toNat, core := s.coreOf t.warp }
    else s

/-- The lane parked at LDLT has waited its time: it takes the cell as it is (LDLT_TIMEOUT, R144). -/
def State.ldltTimeout (s : State) (t : ThreadId) : State :=
  match (s.thread t).wait with
  | .ldlt _ _ _ _ (some n) since _ =>
    if n < (s.gang t.gang).runClk - since then s.ldltAsIs t else s
  | _ => s

/-! ### The instructions -/

/-- BRA_BASE (R40). -/
def execBraBase (cond : BitVec 4) (off : BitVec 20) (s : State) : Host.Outcome State Fault Refusal :=
  boundaryOn (.braBase cond off)
    (fun a t here next => if (a.thread t).guard cond then actBra off.toInt a t here next else (a, .go)) s

/-- RJMARK_BASE (R41). -/
def execRjmarkBase (j : BitVec 3) (s : State) : Host.Outcome State Fault Refusal := .next (s.runRjmark (.rjmarkBase j) j.toNat false)

/-- RJWAIT_BASE (R41). -/
def execRjwaitBase (j : BitVec 3) (s : State) : Host.Outcome State Fault Refusal := .next (s.runRjwait (.rjwaitBase j) j.toNat)

/-- SEAL_BASE (R85). -/
def execSealBase (s1 s2 : RegIdx) (s : State) : Host.Outcome State Fault Refusal := .next (s.runSeal (.sealBase s1 s2) [s1, s2])

/-- YIELD_BASE (R41). -/
def execYieldBase (live : BitVec 5) (dexp : BitVec 4) (s : State) : Host.Outcome State Fault Refusal :=
  .next (s.runYield (.yieldBase live dexp) live.toNat dexp.toNat)

/-- TAIL_BASE (R41). -/
def execTailBase (s : State) : Host.Outcome State Fault Refusal := .next (s.runTail .tailBase)

/-- EXIT_BASE (R41). -/
def execExitBase (s : State) : Host.Outcome State Fault Refusal := .next (s.runExit .exitBase)

/-- TRAP_BASE (R41, R94). -/
def execTrapBase (code : BitVec 16) (s : State) : Host.Outcome State Fault Refusal :=
  boundaryOn (.trapBase code) (actTrap 0x13 code.toNat) s

/-- BRK_BASE (R41, R94). -/
def execBrkBase (code : BitVec 16) (s : State) : Host.Outcome State Fault Refusal :=
  boundaryOn (.brkBase code) (actTrap 0x14 code.toNat) s

/-- BRA (R87). -/
def execBra (x : Ext) (s : State) : Host.Outcome State Fault Refusal := boundaryOn (.bra x) (actBra x.simm) s

/-- BRX (R87). -/
def execBrx (x : Ext) (s : State) : Host.Outcome State Fault Refusal := boundaryOn (.brx x) (actBrx x) s

/-- BRV (R87). -/
def execBrv (x : Ext) (s : State) : Host.Outcome State Fault Refusal :=
  let taken := s.brvTaken x
  boundaryOn (.brv x) (fun a t here next => if taken then actBra x.simm a t here next else (a, .go)) s

/-- CALL (R87). -/
def execCall (x : Ext) (s : State) : Host.Outcome State Fault Refusal := boundaryOn (.call x) (actCall x) s

/-- CALLX (R87). -/
def execCallx (x : Ext) (s : State) : Host.Outcome State Fault Refusal := boundaryOn (.callx x) (actCallx x) s

/-- RET (R87). -/
def execRet (x : Ext) (s : State) : Host.Outcome State Fault Refusal := boundaryOn (.ret x) (actBrx x) s

/-- RJMARK (R88). -/
def execRjmark (x : Ext) (s : State) : Host.Outcome State Fault Refusal :=
  .next (s.runRjmark (.rjmark x) (x.modABits 2 0) (x.modABit 3))

/-- RJWAIT (R88). -/
def execRjwait (x : Ext) (s : State) : Host.Outcome State Fault Refusal := .next (s.runRjwait (.rjwait x) (x.modABits 2 0))

/-- RJDROP (R88). -/
def execRjdrop (x : Ext) (s : State) : Host.Outcome State Fault Refusal := .next (s.runRjdrop (.rjdrop x) (x.modABits 2 0))

/-- RJREAD (R88). -/
def execRjread (x : Ext) (s : State) : Host.Outcome State Fault Refusal := boundaryOn (.rjread x) (actRjread x) s

/-- SEAL (R85). -/
def execSeal (x : Ext) (s : State) : Host.Outcome State Fault Refusal := .next (s.runSeal (.sealExt x) [x.d, x.a, x.b, x.c])

/-- YIELD (R90). -/
def execYield (x : Ext) (s : State) : Host.Outcome State Fault Refusal := .next (s.runYield (.yield x) x.modB.toNat x.modA.toNat)

/-- TAIL (R91). -/
def execTail (x : Ext) (s : State) : Host.Outcome State Fault Refusal := .next (s.runTail (.tail x))

/-- EXIT (R92). -/
def execExit (x : Ext) (s : State) : Host.Outcome State Fault Refusal := .next (s.runExit (.exit x))

/-- NAP (R93). -/
def execNap (x : Ext) (s : State) : Host.Outcome State Fault Refusal := boundaryOn (.nap x) (actNap x) s

/-- TRAP (R94). -/
def execTrap (x : Ext) (s : State) : Host.Outcome State Fault Refusal := boundaryOn (.trap x) (actTrap 0x13 (x.immBits 15 0)) s

/-- BRK (R94). -/
def execBrk (x : Ext) (s : State) : Host.Outcome State Fault Refusal := boundaryOn (.brk x) (actTrap 0x14 (x.immBits 15 0)) s

/-- ERET (R95). -/
def execEret (x : Ext) (s : State) : Host.Outcome State Fault Refusal := boundaryOn (.eret x) (actEret (.eret x)) s

/-- EXIT_COMPLETE (R92). -/
def execExitComplete (t : ThreadId) (s : State) : Host.Outcome State Fault Refusal := .next (s.exitComplete t)

/-- TRACKER_ENTRY_FREE (R280). -/
def execTrackerEntryFree (core entry : Nat) (s : State) : Host.Outcome State Fault Refusal := .next (s.trackerFree core entry)

/-- NAP_END (R93). -/
def execNapEnd (t : ThreadId) (s : State) : Host.Outcome State Fault Refusal := .next (s.napEnd t)

/-- WATCHDOG_FAULT (R90). -/
def execWatchdogFault (t : ThreadId) (s : State) : Host.Outcome State Fault Refusal := .next (s.watchdog t)

/-- LDLT_TIMEOUT (R144). -/
def execLdltTimeout (t : ThreadId) (s : State) : Host.Outcome State Fault Refusal := .next (s.ldltTimeout t)

end Sys2Proof.Machine
end

