-- ==== Sys2Proof/Machine/Launch.lean ====
section
/-! DEFINITION. LAUNCH: the checks on its header, the code, the status record (spec/05 R96 to R99; spec/15 R307; spec/16 R335). -/

namespace Sys2Proof.Machine

/-- The bytes of a launch status record (Table 5-5). -/
def statusBytes (status die kind launch gang : Nat) : List Byte :=
  natBytes 4 status ++ natBytes 1 die ++ natBytes 1 kind ++ natBytes 2 launch ++ natBytes 8 gang

/-- The donebar of a header is none, or lies in a writable kind 4 page of the paged space: its home then (R96 step 3); nothing where
the walk meets an uncorrectable entry. -/
def State.donebarOk (s : State) (p va : Nat) : Option (Option Nat) :=
  if va = 0 then some (some 0)
  else if 2 ^ 55 ≤ va then some none
  else
    match s.walk p va with
    | .leaf l => some (if pteKind l.entry == 4 && natBit l.entry 7 then s.leafKey p 0 l.entry l.size va else none)
    | .invalid => some none
    | .broken => none

/-- Runs of n free units below a limit: how many allocations fit (R216). -/
def runsOf (used : List Nat) (n limit : Nat) : Nat → Nat → Nat → Nat
  | 0, _, _ => 0
  | fuel + 1, u, run =>
    if limit ≤ u then 0
    else if used.contains u then runsOf used n limit fuel (u + 1) 0
    else if run + 1 = n then 1 + runsOf used n limit fuel (u + 1) 0
    else runsOf used n limit fuel (u + 1) (run + 1)

/-- Members of a gang that a core could hold with only the root gang resident (R96 step 4). -/
def State.coreRoom (s : State) (p core : Nat) (h : Header) : Nat :=
  if !(s.part p).hasCore core || (s.die (core / 64)).fenced then 0
  else
    let r := s.header (rootGang p)
    let root := s.wg ⟨rootGang p, 0⟩
    let rootHere := root.core == core
    let slots := Config.warpSlots - (if rootHere then r.copies * r.warps else 0)
    let regs := Config.coreRegs - (if rootHere then r.copies * r.regs * 32 * r.warps else 0)
    let units := ceilDiv h.scratch 65536
    let used := (s.core core).mapped ++ (if rootHere then natsFrom (root.base / 65536) (ceilDiv r.scratch 65536) else [])
    let slices := if units = 0 then 32 else runsOf used units (s.sliceLimit / 65536) 257 0 0
    min (min (slots / (h.copies * h.warps)) (regs / (h.copies * h.regs * 32 * h.warps))) slices

/-- Gangs a partition could hold at once with only the root gang resident (R96 step 4, R271). -/
def State.gangRoom (s : State) (p : Nat) (h : Header) : Nat :=
  sumNat ((natsFrom 0 4).flatMap fun d =>
    (alignedTops h.gshape d).map fun top =>
      match (rectCores h.gshape top).map fun c => s.coreRoom p c h with
      | [] => 0
      | n :: ns => ns.foldl min n)

/-- The code of a LAUNCH and donebar's home (R96 steps 3 to 6), nothing where donebar's walk meets an uncorrectable entry. -/
def State.launchCode (s : State) (p : Nat) (h : Header) : Option (Nat × Nat) :=
  let mode := (s.part p).mode
  if !h.valid s.sliceLimit || ((mode == 2 || mode == 3) && decide (65536 < h.gangs)) then some (2, 0)
  else
    match s.donebarOk p h.donebar with
    | none => none
    | some none => some (2, 0)
    | some (some key) =>
      if h.cooperative ∧ s.gangRoom p h < h.gangs then some (3, 0)
      else if 1024 < (s.part p).launches.length then some (6, 0)
      else some (0, key)

/-- The next launch number not in use (R96 step 6). -/
def Part.freeLaunch (q : Part) : Nat → Nat → Nat
  | 0, n => n
  | fuel + 1, n => if (tbGet q.launches (n % 65536)).isSome then q.freeLaunch fuel (n + 1) else n % 65536

/-- An accepted launch of a thread takes its number and its place in the queues (R96, R267); the store of its record is the thread's next
access, and what the thread has done and seen comes before all the launch's threads do (R99). -/
def State.accept (s : State) (t : ThreadId) (h : Header) (record : Option Nat) (doneKey : Nat) : State × Nat :=
  let p := t.gang.part
  let q := s.part p
  let n := q.freeLaunch 65536 q.nextLaunch
  let l := { Launch.start h (record.getD 0) q.nextOrder with
    doneKey := doneKey, recordId := record.map fun _ => s.nextId, knows := s.knowsOf t s.nextId }
  (s.setPart p { q with launches := tbSet q.launches n l, nextLaunch := (n + 1) % 65536, nextOrder := q.nextOrder + 1 }, n)

/-- The record's address, none for the zero pair, as a store (R96 step 1). -/
def State.recordCheck (s : State) (t : ThreadId) (i : RegIdx) : State × Except LaneEnd (Option Checked) :=
  if (s.thread t).pair i = ⟨0, false⟩ then (s, .ok none)
  else
    match s.flatCheck t .store i 16 with
    | (s1, .ok c) => (s1, .ok (some c))
    | (s1, .error e) => (s1, .error e)

/-- The status record is a store of the lane (R197). -/
def State.sendRecord (s : State) (t : ThreadId) (record : Option Checked) (code launch : Nat) : State :=
  match record with
  | none => s
  | some c =>
    let bs := (statusBytes code 0 0 launch 0).map fun b => (⟨b, false⟩ : PByte)
    s.send t { va := c.va, key := c.key, size := 16, op := if c.region.isSome then .storeJoin bs else .store bs, snap := c.snap,
               region := c.region }

/-- The addresses of LAUNCH have passed: the header is judged, the record and d are written (R96 steps 2 to 8). -/
def State.launchWith (s : State) (t : ThreadId) (x : Ext) (hdr : Checked) (record : Option Checked) : State × LaneEnd :=
  let p := t.gang.part
  match s.readAtIssue t hdr 64 with
  | (s, none) => (s, .stall)
  | (s, some bs) =>
  let h := headerOf (bs.map PByte.v)
  match s.launchCode p h with
  | none => (s.count p 0x08 1, .broken)
  | some (code, doneKey) =>
    let (s1, n) := if code = 0 then s.accept t h (record.map Checked.va) doneKey else (s, 0)
    let s2 := (s1.sendRecord t record code n).modGang t.gang fun g => { g with clean := false }
    (s2.setThread t ((s2.thread t).writeRegs (wideWrite x.d 1 ⟨code, false⟩)), .go)

/-- LAUNCH in one lane (R96): held until the release at dev scope is complete (R99). DESIGN CHOICE: all checks of a stand before those of b
(log entry 74). -/
def actLaunch (x : Ext) (s : State) (t : ThreadId) (_ _ : Dword) : State × LaneEnd :=
  match s.flatCheck t .load x.a 64 with
  | (s1, .error e) => (s1, e)
  | (s1, .ok hdr) =>
    match s1.recordCheck t x.b with
    | (s2, .error e) => (s2, e)
    | (s2, .ok record) => if s2.releasing t 4 then (s2, .stall) else s2.launchWith t x hdr record

/-- LAUNCH (R96). -/
def execLaunch (x : Ext) (s : State) : Host.Outcome State Fault Refusal := boundaryOn (.launch x) (actLaunch x) s

end Sys2Proof.Machine
end

