-- ==== Sys2Proof/Machine/Spill.lean ====
section
/-! DEFINITION. SPILL and FILL: spill slots and their formats (spec/05 R100, R101). -/

namespace Sys2Proof.Machine

/-- A slot at workgroup start (R100). -/
def SpillSlot.zero : SpillSlot := ⟨1, []⟩

/-- Word L of a slot. -/
def SpillSlot.word (sl : SpillSlot) (lane : Nat) : PWord := smGet .zero sl.words lane

/-- A difference modulo 2^32, read as signed. -/
def wordDelta (a b : PWord) : Int := (a.v - b.v).toInt

/-- The format of a slot over the launched lanes (Table 5-8). -/
def SpillSlot.format (sl : SpillSlot) (lanes : List Nat) : Nat :=
  let w := sl.word
  let within := fun (lo hi : Int) => lanes.all fun l => decide (lo ≤ wordDelta (w l) (w 0)) && decide (wordDelta (w l) (w 0) ≤ hi)
  if lanes.any fun l => (w l).p then 0
  else if lanes.all fun l => (w l).v == (w 0).v then 1
  else if lanes.all fun l => (w l).v == (w 0).v + BitVec.ofNat 32 l * ((w 1).v - (w 0).v) then 4
  else if within (-128) 127 then 2
  else if within (-32768) 32767 then 3
  else 0

/-- A spill slot of a warp. -/
def Warp.slot (w : Warp) (n : Nat) : SpillSlot := (tbGet w.spill n).getD SpillSlot.zero

/-- One word of a slot is written; the slot takes its format anew (R101). -/
def Warp.spillWord (w : Warp) (n lane : Nat) (v : PWord) : Warp :=
  let sl := { w.slot n with words := smSet .zero (w.slot n).words lane v }
  { w with spill := tbSet w.spill n { sl with fmt := sl.format w.launched } }

/-- SPILL in one lane. -/
def actSpill (x : Ext) (s : State) (t : ThreadId) (_ _ : Dword) : State × LaneEnd :=
  (s.setWarp t.warp ((s.warp t.warp).spillWord x.imm.toNat t.lane ((s.thread t).reg x.a)), .go)

/-- FILL in one lane. -/
def actFill (x : Ext) (s : State) (t : ThreadId) (_ _ : Dword) : State × LaneEnd :=
  (s.setThread t ((s.thread t).writeRegs (regWrites x.d [((s.warp t.warp).slot x.imm.toNat).word t.lane])), .go)

/-- SPILL (R101). -/
def execSpill (x : Ext) (s : State) : Host.Outcome State Fault Refusal := boundaryOn (.spill x) (actSpill x) s

/-- FILL (R101). -/
def execFill (x : Ext) (s : State) : Host.Outcome State Fault Refusal := boundaryOn (.fill x) (actFill x) s

end Sys2Proof.Machine
end

