-- ==== Sys2Proof/Machine/Frames.lean ====
section
/-! DEFINITION. HBM frames and page-table entries: what Badger and SMAP take and write (spec/11 R222, R229; log entry 10). -/

namespace Sys2Proof.Machine

/-- 64 KiB units of a die's region of a partition. -/
def Part.regionUnits (q : Part) (die : Nat) : Nat := (portsOn q.ports die).length * Config.portBytes / 65536

/-- The first unit of a die's region. -/
def dieUnit (die : Nat) : Nat := die * 67108864

/-- n units from u are free. -/
def Part.unitsFree (q : Part) (u n : Nat) : Bool := !(q.frames.any fun f => decide (f.1 < u + n) && decide (u < f.1 + f.2))

/-- The highest free run of n aligned units below the k-th run of a region (log entry 10). -/
def Part.freeUnits (q : Part) (die n : Nat) : Nat → Option Nat
  | 0 => none
  | k + 1 => if q.unitsFree (dieUnit die + n * k) n then some (dieUnit die + n * k) else q.freeUnits die n k

/-- Take a frame of n units of a die's region from the free list, where spill stores have left the room (R269). -/
def State.takeFrame (s : State) (p die n : Nat) : Option (State × Nat) :=
  if !s.hbmFits p (65536 * n) then none
  else ((s.part p).freeUnits die n ((s.part p).regionUnits die / n)).map fun u =>
    (s.modPart p fun q => { q with frames := q.frames ++ [(u, n)] }, u)

/-- The dies on which a partition has ports, the given one first. -/
def Part.homeDies (q : Part) (die : Nat) : List Nat := (die :: (natsFrom 0 4).filter fun d => d != die).filter fun d => portsOn q.ports d != []

/-- A frame for a die: of its own region, or of the first other that has one where it has no ports. -/
def State.frameFor (s : State) (p die n : Nat) : Option (State × Nat × Nat) :=
  match ((s.part p).homeDies die).head? with
  | none => none
  | some d => (s.takeFrame p d n).map fun r => (r.1, r.2, d)

/-- The bytes of units are zero. -/
def State.zeroUnits (s : State) (p u n : Nat) : State := s.zeroFill (inHbm (s.part p).ports (65536 * u) (65536 * n))

/-- A frame of n units for a save image: of a die's own region, else of the first other that has one. -/
def State.imageFrame (s : State) (p n : Nat) : List Nat → Option (State × Nat)
  | [] => none
  | d :: ds =>
    match s.takeFrame p d n with
    | some r => some r
    | none => s.imageFrame p n ds

/-- Where the entry of a 64 KiB page stands. -/
inductive PteSlot where
  | at_ (s : State) (place : Nat)
  | full
  | broken
  | leaf

/-- The place of the bottom-level entry for an address, with tables made where there are none (log entry 10). -/
def State.slotFrom (s : State) (p die va : Nat) : Nat → List (Nat × Nat × Option Nat) → PteSlot
  | _, [] => .leaf
  | q, (shift, entries, _) :: rest =>
    match hbmKey (s.part p).ports (q + 8 * (va / 2 ^ shift % entries)) with
    | none => .leaf
    | some place =>
      if s.poisonAt place then .broken
      else
        match rest with
        | [] => .at_ s place
        | _ :: _ =>
          let e := s.readNat place 8
          if pteKind e = 1 ∧ pteReservedOk e then s.slotFrom p die va (natBits e 43 16 * 65536) rest
          else
            match s.frameFor p die 1 with
            | none => .full
            | some (s1, u, _) =>
              ((s1.zeroUnits p u 1).setPte p place (2 ^ 60 + u * 65536)).slotFrom p die va (u * 65536) rest

/-- The place of the entry of a 64 KiB page. -/
def State.pteSlot (s : State) (p die va : Nat) : PteSlot := s.slotFrom p die (va % 2 ^ 56) (s.part p).root walkLevels

/-- The leaves that cover a range from an address, none for an unmapped 64 KiB piece; the number bounds them. -/
def State.leavesFrom (s : State) (p stop : Nat) : Nat → Nat → List (Nat × Option Leaf)
  | 0, _ => []
  | n + 1, va =>
    if stop ≤ va then []
    else
      match s.walk p va with
      | .leaf l => (va - va % l.size, some l) :: s.leavesFrom p stop n (va - va % l.size + l.size)
      | _ => (va, none) :: s.leavesFrom p stop n (va + 65536)

/-- A walk of the range meets an uncorrectable entry. -/
def State.brokenIn (s : State) (p stop : Nat) : Nat → Nat → Bool
  | 0, _ => false
  | n + 1, va =>
    if stop ≤ va then false
    else
      match s.walk p va with
      | .leaf l => s.brokenIn p stop n (va - va % l.size + l.size)
      | .invalid => s.brokenIn p stop n (va + 65536)
      | .broken => true

end Sys2Proof.Machine
end

