-- ==== Sys2Proof/Machine/Sys.lean ====
section
/-! DEFINITION. The privileged SYS group: TLBINV, RGNSET, SMAP, CTXSAVE, CTXLOAD, PMCTL, PGPIN (spec/05 R102, R103; spec/12 R236 to
R239; spec/14 R274; spec/17 R352). -/

namespace Sys2Proof.Machine

/-- A SYS instruction of a lane writes its status to d. -/
def State.sysStatus (s : State) (t : ThreadId) (x : Ext) (code : Nat) : State × LaneEnd :=
  (s.setThread t ((s.thread t).writeRegs (wideWrite x.d 1 ⟨code, false⟩)), .go)

/-- An address operand of a SYS instruction: its poison and its canonical form (R84, R102). -/
def Thread.sysVa (t : Thread) (i : RegIdx) : Except FaultInfo Nat :=
  let b := t.pair i
  if b.p then .error ⟨0x11, b.v, 17⟩ else if canonical b.v then .ok b.v else .error ⟨0x04, b.v, 0x72⟩

/-! ### Waiting for translations to go (R102) -/

/-- An access of a partition goes through a translation of a range of the paged space. -/
def accessIn (p lo n : Nat) (a : Access) : Bool := a.gang.part == p && decide (lo ≤ a.va) && decide (a.va < lo + n)

/-- A thread's span store buffer holds a store to the range. -/
def Thread.storesIn (t : Thread) (lo n : Nat) : Bool := t.stores.any fun st => decide (lo ≤ st.va) && decide (st.va < lo + n)

/-- The threads of a partition with stores to a range in open spans, with the numbers of these. -/
def State.spansIn (s : State) (p lo n : Nat) : List (ThreadId × Nat) :=
  s.warps.flatMap fun w =>
    if w.1.gang.part = p then
      w.2.lanes.filterMap fun l => if l.2.storesIn lo n then some (⟨w.1, l.1⟩, l.2.span) else none
    else []

/-- The home a barrier of a command or a round has now, where its address lies in the range (R226). -/
def State.barNow (s : State) (p lo n core : Nat) (g : GangId) (bar key : Nat) : Nat :=
  if g.part = p ∧ key ≠ keyGone ∧ lo ≤ bar ∧ bar < lo + n then
    (s.quietKey { gang := g, core := core, die := core / 64, counts := false, asker := .device } bar).getD keyGone
  else key

/-- The barriers that commands and rounds named through a range are found again: nothing reaches an old target (R226, R263). -/
def State.barsAgain (s : State) (p lo n : Nat) : State :=
  let cmds := fun (core : Nat) (q : List Cmd) => q.map fun c =>
    { c with barKey := s.barNow p lo n core c.wg.gang c.bar c.barKey
             op := match c.op with
               | .copy size lanes => .copy size (lanes.map fun m =>
                   (m.1, m.2.1, m.2.2.1, s.barNow p lo n core c.wg.gang m.2.2.1 m.2.2.2))
               | o => o }
  let op := fun (core : Nat) (g : GangId) (o : MmaOp) => { o with barKey := s.barNow p lo n core g o.bar o.barKey }
  { s with
    cores := s.cores.map fun c =>
      (c.1, { c.2 with copyQ := cmds c.1 c.2.copyQ, bulkQ := cmds c.1 c.2.bulkQ, mcastQ := cmds c.1 c.2.mcastQ
                       matQ := c.2.matQ.map fun e => { e with op := op c.1 e.wg.gang e.op } })
    wgs := s.wgs.map fun w =>
      (w.1, { w.2 with k := w.2.k.map fun r => (r.1, { r.2 with op := r.2.op.map (op w.2.core w.1.gang) }) }) }

/-- Forget the translations of a range, and note what has gone through them. -/
def State.invalBegin (s : State) (t : ThreadId) (lo n : Nat) : State :=
  let p := t.gang.part
  let v : Inval := ⟨(s.inFlight.filter (accessIn p lo n)).map Access.id, s.spansIn p lo n⟩
  ((s.flushTlb p (tlbIn lo n)).barsAgain p lo n).modThread t fun th => { th with inval := some v }

/-- What is left of a wait: spans that ended have released their stores. -/
def State.invalStep (s : State) (p lo n : Nat) (v : Inval) : Inval :=
  let open_ := v.spans.filter fun e => (s.thread e.1).storesIn lo n && (s.thread e.1).span == e.2
  let gone := (v.spans.filter fun e => !open_.contains e).map Prod.fst
  let released := s.inFlight.filter fun a => accessIn p lo n a && gone.any fun t => a.src == .thread t
  ⟨(v.ids ++ released.map Access.id).filter fun id => s.inFlight.any fun a => a.id == id, open_⟩

/-- A lane invalidates a range: the wait goes on, and the lanes above with it (R102), or is over and the status is 0. -/
def State.invalidate (s : State) (t : ThreadId) (x : Ext) (lo n : Nat) : State × LaneEnd :=
  let s1 := match (s.thread t).inval with
    | none => s.invalBegin t lo n
    | some _ => s
  let v := s1.invalStep t.gang.part lo n (((s1.thread t).inval).getD ⟨[], []⟩)
  if v.ids = [] ∧ v.spans = [] then (s1.modThread t fun th => { th with inval := none }).sysStatus t x 0
  else (s1.modThread t fun th => { th with inval := some v }, .stall)

/-- The page size a SYS instruction names. -/
def Ext.pageBytes (x : Ext) : Nat := pageSize (x.modABits 1 0)

/-- TLBINV in one lane. -/
def actTlbinv (x : Ext) (s : State) (t : ThreadId) (_ _ : Dword) : State × LaneEnd :=
  if x.modABit 2 then s.invalidate t x 0 (2 ^ 55)
  else
    match (s.thread t).sysVa x.a with
    | .error f => (s, .fault f)
    | .ok va =>
      let n := (s.thread t).reg x.b
      if n.p then (s, .fault (consumed 3))
      else if va % Ext.pageBytes x ≠ 0 then s.sysStatus t x 1
      else s.invalidate t x (va % 2 ^ 56) (n.v.toNat * Ext.pageBytes x)

/-! ### RGNSET (R236 to R239) -/

/-- The region of an entry image (Table 12-1). -/
def regionOf (bs : List Byte) (now : Nat) : Region :=
  ⟨recordField bs 0 8, recordField bs 8 8, recordField bs 16 1, recordField bs 17 1, recordField bs 18 1, recordField bs 20 4, now, 0⟩

/-- The reserved bytes of an entry image are zero. -/
def regionReserved (bs : List Byte) : Bool := recordField bs 19 1 == 0 && recordField bs 24 8 == 0

/-- The host flag of a region. -/
def Region.host (r : Region) : Bool := natBit r.flags 0

/-- The fields of an entry lie within Table 12-1, for a pool of z bytes. -/
def Region.fieldsOk (r : Region) (z : Nat) : Bool :=
  decide (1 ≤ r.type) && decide (r.type ≤ 8) && r.base % 65536 == 0 && decide (r.base + r.size ≤ 2 ^ 55) && r.size % 65536 == 0 &&
  decide (65536 ≤ r.size) && decide (r.size ≤ z) && decide (r.sched ≤ 2) && decide (r.flags ≤ 1) && decide (64 ≤ r.period) &&
  decide (r.period ≤ 1048576)

/-- Two regions share addresses. -/
def Region.overlaps (r q : Region) : Bool := decide (r.base < q.base + q.size) && decide (q.base < r.base + r.size)

/-- The 64 KiB pages of a region. -/
def Region.pages (r : Region) : List Nat := (natsFrom 0 (r.size / 65536)).map fun k => r.base + 65536 * k

/-- Every page of a region is mapped with kind 3. -/
def State.poolMapped (s : State) (p : Nat) (r : Region) : Bool := r.pages.all fun va => (s.replicaKey p 0 va).isSome

/-- RGNSET of a type other than 0 fails (R237). -/
def State.regionBad (s : State) (p n : Nat) (r : Region) : Bool :=
  let q := s.part p
  (tbGet q.regions n).isSome || !r.fieldsOk s.poolBytes || (q.regions.any fun e => e.2.overlaps r) || !s.poolMapped p r ||
    (r.host && q.regions.any fun e => e.2.host)

/-- The replicas of a region on the partition's dies, as homes of its pages. -/
def State.replicaPages (s : State) (p : Nat) (r : Region) : List Nat :=
  (s.diesOf p).flatMap fun d => r.pages.filterMap fun va => s.replicaKey p d va

/-- The bottom value in every cell of every replica (R237 step 1). -/
def State.writeBottom (s : State) (p : Nat) (r : Region) : State :=
  let pages := s.replicaPages p r
  let s1 := s.zeroFill fun key => pages.any fun k => decide (k ≤ key) && decide (key < k + 65536)
  let b := bottomCell r.type
  if b = 0 then s1
  else pages.foldl (fun acc k => (natsFrom 0 16384).foldl (fun a i => a.writeNat (k + 4 * i) 4 b) acc) s1

/-- Owl's pending changes of an entry are gone. -/
def State.dropOwl (s : State) (p n : Nat) : State :=
  { s with dies := s.dies.map fun d => (d.1, d.2.clearMarks p n fun _ => true)
           deltas := s.deltas.filter fun d => !(d.part == p && d.entry == n) }

/-- The lane is parked at an LDLT of a region. -/
def Thread.parkedIn (t : Thread) (r : Region) : Bool :=
  match t.wait with
  | .ldlt _ va _ _ _ _ _ => decide (r.base ≤ va) && decide (va < r.base + r.size)
  | _ => false

/-- Every lane parked at an LDLT of a region is released, as on a timeout (R237). -/
def State.releaseLdlt (s : State) (p : Nat) (r : Region) : State :=
  (s.warps.flatMap fun w => w.2.launched.map fun l => (⟨w.1, l⟩ : ThreadId)).foldl
    (fun acc t => if t.gang.part = p ∧ (acc.thread t).parkedIn r then acc.ldltAsIs t else acc) s

/-- An access under the entry is on its way, or in an open span (R238). -/
def State.regionBusy (s : State) (p n : Nat) : Bool :=
  (s.inFlight.any fun a => a.gang.part == p && a.region == some n) ||
    s.warps.any fun w => w.1.gang.part == p && w.2.lanes.any fun l => l.2.stores.any fun st => st.region == some n

/-- RGNSET of a removal in one lane (R237). -/
def State.removeRegion (s : State) (t : ThreadId) (x : Ext) (n : Nat) : State × LaneEnd :=
  let p := t.gang.part
  match tbGet (s.part p).regions n with
  | none => s.sysStatus t x 0
  | some r =>
    if s.regionBusy p n then (s, .stall)
    else
      let s1 := s.modPart p fun q => { q with regions := tbErase q.regions n }
      ((s1.dropOwl p n).releaseLdlt p r).sysStatus t x 0

/-- RGNSET of an installation in one lane (R237). -/
def State.installRegion (s : State) (t : ThreadId) (x : Ext) (n : Nat) (r : Region) : State × LaneEnd :=
  let p := t.gang.part
  if s.regionBad p n r then s.sysStatus t x 1
  else
    (((s.writeBottom p r).dropOwl p n).modPart p fun q => { q with regions := tbSet q.regions n r }).sysStatus t x 0

/-- RGNSET in one lane. -/
def actRgnset (x : Ext) (s : State) (t : ThreadId) (_ _ : Dword) : State × LaneEnd :=
  let n := x.immBits 3 0
  match s.flatCheck t .load x.a 32 with
  | (s1, .error e) => (s1, e)
  | (s1, .ok c) =>
    if s1.stepWaits t c.key 32 then s1.holdPlace t .stall
    else
      match s1.readAtIssue t c 32 with
      | (s1, none) => (s1, .stall)
      | (s1, some bs) =>
      let raw := bs.map PByte.v
      let r := regionOf raw (s1.part t.gang.part).ticks
      if anyPoison bs then (s1, .fault (consumed 0))
      else if !regionReserved raw then s1.sysStatus t x 1
      else if r.type = 0 then s1.removeRegion t x n
      else s1.installRegion t x n r

/-! ### SMAP (R103) -/

/-- A SMAP descriptor (Table 5-10) with its range: VA, pages. -/
structure SmapReq where
  kind : Nat
  reserved : Nat
  wherein : Nat
  offset : Nat
  va : Nat
  pages : Nat
deriving DecidableEq, Repr

/-- The request of a descriptor. -/
def smapReq (va desc pages : Nat) : SmapReq :=
  ⟨natBits desc 63 62, natBits desc 61 56, natBits desc 55 48, natBits desc 47 0, va, pages⟩

/-- Error 1 of SMAP. -/
def SmapReq.badRange (r : SmapReq) (z : Nat) : Bool :=
  r.kind == 3 || r.reserved != 0 || r.va % 65536 != 0 || r.offset % 65536 != 0 || r.pages == 0 ||
  (r.kind != 2 && r.wherein != 0) || (r.kind == 0 && r.offset != 0) || decide (2 ^ 55 < r.va + 65536 * r.pages) ||
  (r.kind == 1 && decide (z < r.offset + 65536 * r.pages)) ||
  (r.kind == 2 && decide (Config.sliceBytes < r.offset + 65536 * r.pages))

/-- The entry of the k-th page of a SMAP: r, w and at. -/
def SmapReq.entry (r : SmapReq) (k : Nat) : Nat :=
  (r.kind + 2) * 2 ^ 60 + r.wherein * 2 ^ 48 + (r.offset + 65536 * k) + 0x1C0

/-- The pages of a SMAP. -/
def SmapReq.vas (r : SmapReq) : List Nat := (natsFrom 0 r.pages).map fun k => r.va + 65536 * k

/-- Error 3 of SMAP: a granule or a core that is not the partition's. -/
def State.smapForeign (s : State) (p : Nat) (r : SmapReq) : Bool :=
  let q := s.part p
  if r.kind = 1 then
    (natsFrom (r.offset / 4194304) ((r.offset + 65536 * r.pages - 1) / 4194304 + 1 - r.offset / 4194304)).any fun g => !natBit q.pool g
  else !q.hasCore r.wherein

/-- Units of scratch that gangs hold on a core. -/
def State.scratchUnits (s : State) (core : Nat) : List Nat :=
  (s.wgsOn core).flatMap fun w => natsFrom (w.2.base / 65536) (ceilDiv (s.header w.1.gang).scratch 65536)

/-- Error 5 of SMAP: the pool share, or a gang's scratch. -/
def State.smapTaken (s : State) (r : SmapReq) : Bool :=
  r.kind == 2 &&
    (decide (s.sliceLimit < r.offset + 65536 * r.pages) ||
      (natsFrom (r.offset / 65536) r.pages).any fun u => (s.scratchUnits r.wherein).contains u)

/-- Write the entries of a SMAP in order; the flag of its end. -/
def State.smapWrite (s : State) (p die : Nat) (r : SmapReq) : List Nat → Except Bool State
  | [] => .ok s
  | k :: ks =>
    match s.pteSlot p die (r.va + 65536 * k) with
    | .at_ s1 place =>
      let s2 := s1.setPte p place (r.entry k)
      let s3 := if r.kind = 2 then s2.modCore r.wherein fun c => { c with mapped := c.mapped ++ [r.offset / 65536 + k] } else s2
      s3.smapWrite p die r ks
    | .broken => .error true
    | _ => .error false

/-- Take the entries of pages away. -/
def State.smapErase (s : State) (p : Nat) : List Nat → State
  | [] => s
  | va :: vas =>
    match s.walk p va with
    | .leaf l =>
      let s1 := s.setPte p l.place 0
      let unit := natBits l.entry 23 16
      let s2 := if pteKind l.entry = 4 then s1.modCore (natBits l.entry 55 48) fun c => { c with mapped := c.mapped.erase unit } else s1
      s2.smapErase p vas
    | _ => s.smapErase p vas

/-- The page is mapped with SRAM. -/
def Walk.sram (w : Walk) : Bool :=
  match w with
  | .leaf l => pteKind l.entry == 3 || pteKind l.entry == 4
  | _ => false

/-- The page is mapped. -/
def Walk.mapped (w : Walk) : Bool :=
  match w with
  | .leaf _ => true
  | _ => false

/-- A SMAP whose operands are right in form. -/
def State.smapDo (s : State) (t : ThreadId) (x : Ext) (r : SmapReq) : State × LaneEnd :=
  let p := t.gang.part
  if (s.thread t).inval.isSome then s.invalidate t x r.va (65536 * r.pages)
  else if r.badRange s.poolBytes then s.sysStatus t x 1
  else if s.brokenIn p (r.va + 65536 * r.pages) r.pages r.va then (s.count p 0x08 1, .broken)
  else if r.kind = 0 then
    (if r.vas.any fun va => !(s.walk p va).sram then s.sysStatus t x 4
     else (s.smapErase p r.vas).invalidate t x r.va (65536 * r.pages))
  else if r.vas.any fun va => (s.walk p va).mapped then s.sysStatus t x 2
  else if s.smapForeign p r then s.sysStatus t x 3
  else if s.smapTaken r then s.sysStatus t x 5
  else
    match s.smapWrite p (s.dieOf t.warp) r (natsFrom 0 r.pages) with
    | .ok s1 => s1.sysStatus t x 0
    | .error true => (s.count p 0x08 1, .broken)
    | .error false => (s, .exhausted r.va)

/-- SMAP in one lane. DESIGN CHOICE: a bad address is found before a poisoned operand that is none, here and in every SYS instruction (log
entry 72). -/
def actSmap (x : Ext) (s : State) (t : ThreadId) (_ _ : Dword) : State × LaneEnd :=
  match (s.thread t).sysVa x.a with
  | .error f => (s, .fault f)
  | .ok va =>
    let desc := (s.thread t).pair x.b
    let n := (s.thread t).reg x.c
    if desc.p || n.p then (s, .fault (consumed 3)) else s.smapDo t x (smapReq va desc.v n.v.toNat)

/-! ### CTXSAVE and CTXLOAD (R274) -/

/-- The gang a CTXSAVE or CTXLOAD names, none where the launch has ended or has no such gang. -/
def State.ctxGang (s : State) (p launch gang : Nat) : Option GangId :=
  if s.hasLaunch p launch ∧ !s.launchOver p launch ∧ gang < (s.launch p launch).hdr.gangs then some ⟨p, launch, gang⟩ else none

/-- A lane begins to wait for a gang to be saved and held. -/
def State.ctxHold (s : State) (t : ThreadId) (g : GangId) (st : GangState) : State × LaneEnd :=
  ((s.modGang g fun q => { q with state := st, held := true }).modThread t fun th => { th with ctx := some (g, none) }, .stall)

/-- CTXSAVE of a gang by a lane. -/
def State.ctxsave (s : State) (t : ThreadId) (x : Ext) (g : GangId) : State × LaneEnd :=
  match (s.gang g).state with
  | .running => if g = t.gang ∨ g.isRoot then s.sysStatus t x 3 else s.ctxHold t g .saving
  | .draining => if g = t.gang ∨ g.isRoot then s.sysStatus t x 3 else s.ctxHold t g .draining
  | .saving => if g = t.gang ∨ g.isRoot then s.sysStatus t x 3 else s.ctxHold t g .saving
  | _ => s.sysStatus t x 2

/-- CTXSAVE and CTXLOAD in one lane: operands, then what is done with the gang. -/
def actCtx (x : Ext) (f : State → GangId → State × LaneEnd) (s : State) (t : ThreadId) : State × LaneEnd :=
  let launch := (s.thread t).reg x.a
  let gang := (s.thread t).pair x.b
  if launch.p || gang.p then (s, .fault (consumed 3))
  else
    match s.ctxGang t.gang.part launch.v.toNat gang.v with
    | none => s.sysStatus t x 1
    | some g => f s g

/-- CTXSAVE in one lane: it holds the lanes above, and returns once the gang is saved. -/
def actCtxsave (x : Ext) (s : State) (t : ThreadId) (_ _ : Dword) : State × LaneEnd :=
  match (s.thread t).ctx with
  | some (_, some code) => (s.modThread t fun th => { th with ctx := none }).sysStatus t x code
  | some (_, none) => (s, .stall)
  | none => actCtx x (fun a g => a.ctxsave t x g) s t

/-- CTXLOAD in one lane. -/
def actCtxload (x : Ext) (s : State) (t : ThreadId) (_ _ : Dword) : State × LaneEnd :=
  actCtx x (fun a g => if (a.gang g).held then (a.modGang g fun q => { q with held := false }).sysStatus t x 0 else a.sysStatus t x 2) s t

/-! ### PMCTL (R102, R352) -/

/-- A counter at creation (R352). -/
def Counter.zero : Counter := ⟨0, 0, false⟩

/-- A counter of a partition's bank. -/
def Part.counter (q : Part) (n : Nat) : Counter := (tbGet q.counters n).getD Counter.zero

/-- Change a counter. -/
def State.setCounter (s : State) (p n : Nat) (f : Counter → Counter) : State :=
  s.modPart p fun q => { q with counters := tbSet q.counters n (f (q.counter n)) }

/-- PMCTL.read in one lane. -/
def actPmRead (x : Ext) (s : State) (t : ThreadId) (_ _ : Dword) : State × LaneEnd :=
  (s.setThread t ((s.thread t).writeRegs (wideWrite x.d 2 ⟨((s.part t.gang.part).counter (x.immBits 5 0)).value, false⟩)), .go)

/-- PMCTL.sel in one lane. -/
def actPmSel (x : Ext) (s : State) (t : ThreadId) (_ _ : Dword) : State × LaneEnd :=
  let e := (s.thread t).reg x.a
  if e.p then (s, .fault (consumed 3))
  else (s.setCounter t.gang.part (x.immBits 5 0) fun c => { c with event := e.v.toNat }, .go)

/-- PMCTL.start, .stop and .clr in one lane. -/
def actPm (f : Counter → Counter) (x : Ext) (s : State) (t : ThreadId) (_ _ : Dword) : State × LaneEnd :=
  (s.setCounter t.gang.part (x.immBits 5 0) f, .go)

/-! ### PGPIN -/

/-- The translations of a page that the TLBs hold take its pin: they stay (R225). -/
def State.pinTlb (s : State) (p va : Nat) (pin : Bool) : State :=
  let put := fun (tlb : List TlbEntry) => tlb.map fun t =>
    if t.part = p ∧ t.va = va then
      { t with entry := if pin = natBit t.entry 11 then t.entry else if pin then t.entry + 2048 else t.entry - 2048 }
    else t
  { s with cores := s.cores.map fun c => (c.1, { c.2 with tlb := put c.2.tlb, walkTlb := put c.2.walkTlb }) }

/-- Pin or release the pages of leaves: the entry's bit and the units counted. -/
def State.pinLeaves (s : State) (p : Nat) (pin : Bool) : List (Nat × Option Leaf) → State
  | [] => s
  | (_, none) :: ls => s.pinLeaves p pin ls
  | (va, some l) :: ls =>
    let was := natBit l.entry 11
    let e := if pin = was then l.entry else if pin then l.entry + 2048 else l.entry - 2048
    let units := l.size / 65536
    let s1 := (s.setPte p l.place e).pinTlb p va pin
    let s2 := if pin = was then s1 else s1.modPart p fun q => { q with pinned := if pin then q.pinned + units else q.pinned - units }
    s2.pinLeaves p pin ls

/-- Units a pin of leaves would add. -/
def pinUnits (ls : List (Nat × Option Leaf)) : Nat :=
  sumNat (ls.map fun e => match e.2 with
    | some l => if natBit l.entry 11 then 0 else l.size / 65536
    | none => 0)

/-- A page Badger still has to settle. -/
def unsettled (ls : List (Nat × Option Leaf)) : Option Nat :=
  (ls.filterMap fun e => match e.2 with
    | some l => if pteKind l.entry = 7 ∨ pteKind l.entry = 8 then some e.1 else none
    | none => none).head?

/-- PGPIN over a range in one lane. -/
def State.pgpin (s : State) (t : ThreadId) (x : Ext) (va n : Nat) : State × LaneEnd :=
  let p := t.gang.part
  let lo := va % 2 ^ 56
  let stop := lo + n * Ext.pageBytes x
  let ls := s.leavesFrom p stop (n * (Ext.pageBytes x / 65536)) lo
  let pin := !x.modABit 3
  if va % Ext.pageBytes x ≠ 0 then s.sysStatus t x 1
  else if s.brokenIn p stop (n * (Ext.pageBytes x / 65536)) lo then (s.count p 0x08 1, .broken)
  else if pin ∧ smGet 0 (s.part p).regs 8 < (s.part p).pinned + pinUnits ls then s.sysStatus t x 2
  else if ls.any fun e => e.2.isNone then s.sysStatus t x 3
  else
    match (if pin then unsettled ls else none) with
    | some page => (s.askFor t (.notPresent 0) page, .stall)
    | none => (s.pinLeaves p pin ls).sysStatus t x 0

/-- PGPIN in one lane. -/
def actPgpin (x : Ext) (s : State) (t : ThreadId) (_ _ : Dword) : State × LaneEnd :=
  match (s.thread t).sysVa x.a with
  | .error f => (s, .fault f)
  | .ok va =>
    let n := (s.thread t).reg x.b
    if n.p then (s, .fault (consumed 3)) else s.pgpin t x va n.v.toNat

/-! ### The instructions -/

/-- TLBINV (R102). -/
def execTlbinv (x : Ext) (s : State) : Host.Outcome State Fault Refusal := boundaryOn (.tlbinv x) (actTlbinv x) s

/-- RGNSET (R237). -/
def execRgnset (x : Ext) (s : State) : Host.Outcome State Fault Refusal := boundaryOn (.rgnset x) (actRgnset x) s

/-- SMAP (R103). -/
def execSmap (x : Ext) (s : State) : Host.Outcome State Fault Refusal := boundaryOn (.smap x) (actSmap x) s

/-- CTXSAVE (R102, R274). -/
def execCtxsave (x : Ext) (s : State) : Host.Outcome State Fault Refusal := boundaryOn (.ctxsave x) (actCtxsave x) s

/-- CTXLOAD (R102, R274). -/
def execCtxload (x : Ext) (s : State) : Host.Outcome State Fault Refusal := boundaryOn (.ctxload x) (actCtxload x) s

/-- PMCTL.read (R102). -/
def execPmctlRead (x : Ext) (s : State) : Host.Outcome State Fault Refusal := boundaryOn (.pmctlRead x) (actPmRead x) s

/-- PMCTL.sel (R102). -/
def execPmctlSel (x : Ext) (s : State) : Host.Outcome State Fault Refusal := boundaryOn (.pmctlSel x) (actPmSel x) s

/-- PMCTL.start (R102). -/
def execPmctlStart (x : Ext) (s : State) : Host.Outcome State Fault Refusal :=
  boundaryOn (.pmctlStart x) (actPm (fun c => { c with running := true }) x) s

/-- PMCTL.stop (R102). -/
def execPmctlStop (x : Ext) (s : State) : Host.Outcome State Fault Refusal :=
  boundaryOn (.pmctlStop x) (actPm (fun c => { c with running := false }) x) s

/-- PMCTL.clr (R102). -/
def execPmctlClr (x : Ext) (s : State) : Host.Outcome State Fault Refusal :=
  boundaryOn (.pmctlClr x) (actPm (fun c => { c with value := 0 }) x) s

/-- PGPIN (R102). -/
def execPgpin (x : Ext) (s : State) : Host.Outcome State Fault Refusal := boundaryOn (.pgpin x) (actPgpin x) s

end Sys2Proof.Machine
end

