-- ==== Sys2Proof/Machine/SpanEvents.lean ====
section
/-! DEFINITION. The events of spans and accesses: the seal, the slow gear, results that land, accesses that are performed (spec/05
R82; spec/02 R45; spec/10 R198; spec/15 R293 to R296). -/

namespace Sys2Proof.Machine

/-- A ready result of a thread lands (R45, R82). -/
def Thread.landOne (t : Thread) (n : Nat) : Thread :=
  match firstWhere (fun p => p.id == n && p.ready && p.window == 0) t.pends with
  | some p => t.land p
  | none => t

/-- SPAN_SEAL (R82): in the turn of the warp whose next instruction needs it. -/
def execSpanSeal (w : WarpId) (s : State) : Host.Outcome State Fault Refusal := .next (if s.focus = some w then s.sealSpan w else s)

/-- SLOW_GEAR (R295): in a gang that issues. -/
def execSlowGear (w : WarpId) (s : State) : Host.Outcome State Fault Refusal := .next (if s.issues w.gang then s.startSlow w else s)

/-- SLOW_GEAR_COMPLETE (R296, R297): in the turn of the warp whose slow gear has come to its end. -/
def execSlowGearComplete (w : WarpId) (s : State) : Host.Outcome State Fault Refusal :=
  .next (if s.focus = some w then s.endSlow w else s)

/-- LOAD_DATA_RETURN (R45). -/
def execLoadDataReturn (t : ThreadId) (n : Nat) (s : State) : Host.Outcome State Fault Refusal :=
  .next (s.give (.thread t) fun th => th.landOne n)

/-- MEMORY_ACCESS_PERFORM (R198). -/
def execMemoryAccessPerform (id : Nat) (s : State) : Host.Outcome State Fault Refusal := .next (s.stepAccess id)

end Sys2Proof.Machine
end

