-- ==== Sys2Proof/Machine/HostLink.lean ====
section
/-! DEFINITION. The host link: MSI-X, the error counter, the host fault queue and its replies (spec/18 R357 to R360). -/

namespace Sys2Proof.Machine

/-! ### MSI-X (Table 18-1) -/

/-- The vector control of an entry is masked at reset (log entry 4). -/
def msixDefault (off : Nat) : Byte := if off % 16 = 12 then 1 else 0

/-- A byte of the MSI-X table; the list holds what differs from reset. -/
def Fn.msixByte (f : Fn) (off : Nat) : Byte := smGet 0 f.msix off ^^^ msixDefault off

/-- Write a byte of the MSI-X table. -/
def Fn.setMsix (f : Fn) (off : Nat) (b : Byte) : Fn := { f with msix := smSet 0 f.msix off (b ^^^ msixDefault off) }

/-- n bytes of the MSI-X table as a number. -/
def Fn.msixNat (f : Fn) (off n : Nat) : Nat := natOfBytes ((natsFrom off n).map f.msixByte)

/-- Write host memory as a function (R358). -/
def State.hostWrite (s : State) (fn addr : Nat) (bs : List Byte) : State :=
  s.writeBytes (keyHost fn (addr % 2 ^ 64)) (bs.map fun b => ⟨b, false⟩)

/-- Read host memory as a function. -/
def State.hostRead (s : State) (fn addr n : Nat) : List Byte := (s.readBytes (keyHost fn (addr % 2 ^ 64)) n).map PByte.v

/-- Vector n of a function is masked. -/
def Fn.masked (f : Fn) (n : Nat) : Bool := natBit (f.msixNat (16 * n + 12) 4) 0

/-- Raise a vector: its message, or a pending bit while it is masked. -/
def State.raise (s : State) (fn n : Nat) : State :=
  let f := s.fn fn
  if f.masked n then s.modFn fn fun f => { f with pba := f.pba ||| 2 ^ n }
  else s.hostWrite fn (f.msixNat (16 * n) 8) (natBytes 4 (f.msixNat (16 * n + 8) 4))

/-- A vector that is pending and no longer masked is sent. -/
def State.sendPending (s : State) (fn n : Nat) : State :=
  let f := s.fn fn
  if natBit f.pba n && !f.masked n then ((s.modFn fn fun f => { f with pba := f.pba - 2 ^ n }).raise fn n) else s

/-! ### The host fault queue (R359, R360) -/

/-- The function of a partition. -/
def fnOf (p : Nat) : Nat := p + 1

/-- The queue is set up. -/
def Fn.hasQueue (f : Fn) : Bool := f.fqbase != 0 && decide (4 ≤ f.fqlog) && decide (f.fqlog ≤ 12)

/-- The slot of the next entry is free. -/
def State.slotFree (s : State) (p : Nat) : Bool :=
  let n := 2 ^ (s.fn (fnOf p)).fqlog
  !(s.part p).hostEntries.any fun e => (e.seq - 1) % n == ((s.part p).hostSeq - 1) % n

/-- The bytes of an entry. -/
def faultEntry (va access seq : Nat) : List Byte := natBytes 8 va ++ natBytes 8 access ++ natBytes 8 seq ++ natBytes 8 0

/-- What a request to the host comes to: refused at once, written with its number, or waiting for a slot. -/
inductive Posted where
  | refused
  | written (s : State) (seq : Nat)
  | full (s : State)

/-- Write the next entry of the host fault queue, and raise its vector (R359). -/
def State.writeEntry (s : State) (p va access : Nat) : State :=
  let f := s.fn (fnOf p)
  let q := s.part p
  let at_ := f.fqbase + 32 * ((q.hostSeq - 1) % 2 ^ f.fqlog)
  let s1 := s.hostWrite (fnOf p) at_ (faultEntry va access q.hostSeq)
  (s1.modPart p fun q =>
    { q with hostSeq := q.hostSeq + 1, hostEntries := q.hostEntries ++ [⟨q.hostSeq, va, access, s.clk⟩] }).raise (fnOf p) 1

/-- A request that waits for a slot is still made: by an eviction, or by a settlement of its page (R360). -/
def Part.wants (q : Part) (r : Nat × Nat) : Bool :=
  if r.2 = 3 then q.evicts.any fun v => v.va == r.1 && v.seq.isNone && v.target.isNone
  else q.settles.any fun x => x.va == r.1 && x.why == .notPresent r.2 && x.seq.isNone && x.answer.isNone

/-- What makes a request takes the number of its entry, or a refusal. -/
def Part.assign (q : Part) (r : Nat × Nat) (seq refusal : Option Nat) : Part :=
  if r.2 = 3 then
    { q with evicts := q.evicts.map fun v => if v.va = r.1 ∧ v.seq.isNone ∧ v.target.isNone then { v with seq := seq, target := refusal } else v }
  else
    { q with settles := q.settles.map fun x =>
        if x.va = r.1 ∧ x.why = .notPresent r.2 ∧ x.seq.isNone ∧ x.answer.isNone then { x with seq := seq, answer := refusal } else x }

/-- The requests that wait are written in arrival order into the slots that are free, those that are no longer made passed over; where no
queue is set up they are refused (R359, R360). -/
def State.serveLine (s : State) (p : Nat) : Nat → State
  | 0 => s
  | n + 1 =>
    match (s.part p).hostLine.filter (s.part p).wants with
    | [] => s.modPart p fun q => { q with hostLine := [] }
    | r :: rest =>
      if !(s.fn (fnOf p)).hasQueue then (s.modPart p fun q => { q.assign r none (some 0) with hostLine := rest }).serveLine p n
      else if s.slotFree p then
        ((s.modPart p fun q => { q.assign r (some q.hostSeq) none with hostLine := rest }).writeEntry p r.1 r.2).serveLine p n
      else s.modPart p fun q => { q with hostLine := r :: rest }

/-- New queue registers take effect once nothing is pending; the requests that wait are served. -/
def State.requeue (s : State) (p : Nat) : State :=
  let s1 :=
    if (s.part p).hostEntries = [] then
      s.modFn (fnOf p) fun f =>
        { f with fqbase := f.fqbaseNext.getD f.fqbase, fqlog := f.fqlogNext.getD f.fqlog, fqbaseNext := none, fqlogNext := none }
    else s
  s1.serveLine p ((s1.part p).hostLine.length + 1)

/-- Post a request to the host fault queue: at once where a slot is free and none waits for one, else behind those that wait (R360). -/
def State.postHost (s : State) (p va access : Nat) : Posted :=
  let q := s.part p
  let line := q.hostLine.filter q.wants
  if !(s.fn (fnOf p)).hasQueue then .refused
  else if line.contains (va, access) then .full s
  else if line ≠ [] ∨ !s.slotFree p then .full (s.setPart p { q with hostLine := line ++ [(va, access)] })
  else .written (s.writeEntry p va access) q.hostSeq

/-- An entry is answered: what waits for it takes the address, 0 for a refusal. -/
def State.answer (s : State) (p seq addr : Nat) : State :=
  let a := addr - addr % 65536
  (s.modPart p fun q =>
    { q with hostEntries := q.hostEntries.filter fun e => e.seq != seq
             settles := q.settles.map fun x => if x.seq = some seq then { x with seq := none, answer := some a } else x
             evicts := q.evicts.map fun x =>
               if x.seq = some seq then { x with seq := none, target := some (if a = 0 then 0 else 5 * 2 ^ 60 + a) } else x }).requeue p

/-- A reply of the driver, a write to its function's BAR (R359, R361). -/
def State.faultReply (s : State) (fn va addr : Nat) : State :=
  if (s.fn fn).offStream then s
  else if fn = 0 ∨ !s.hasPart (fn - 1) then s.countError
  else
    match firstWhere (fun e => e.va == va) (s.part (fn - 1)).hostEntries with
    | some e => s.answer (fn - 1) e.seq addr
    | none => s.countError

/-- An entry that has waited 1 s is refused (R360). -/
def State.faultTimeout (s : State) (fn seq : Nat) : State :=
  if fn = 0 then s
  else
    match firstWhere (fun e => e.seq == seq) (s.part (fn - 1)).hostEntries with
    | some e => if e.since + 1050000000 ≤ s.clk then (s.answer (fn - 1) seq 0).countError else s
    | none => s

/-- FAULT_REPLY (R359). -/
def execFaultReply (fn : Nat) (va addr : Dword) (s : State) : Host.Outcome State Fault Refusal :=
  .next (s.faultReply fn va.toNat addr.toNat)

/-- FAULT_QUEUE_TIMEOUT (R360). -/
def execFaultQueueTimeout (fn seq : Nat) (s : State) : Host.Outcome State Fault Refusal := .next (s.faultTimeout fn seq)

end Sys2Proof.Machine
end

