-- ==== Sys2Proof/Machine/Badger.lean ====
section
/-! DEFINITION. Badger: settling, migrating, versioning and evicting pages (spec/07 R128, R138; spec/11 R227 to R230; spec/15 R314;
spec/16 R324). -/

namespace Sys2Proof.Machine

/-! ### Pages -/

/-- The low bits of an entry: its permissions, flags and size. -/
def pteLow (e : Nat) : Nat := e % 65536

/-- An access through the page is on its way (R228). -/
def State.pageBusy (s : State) (p va size : Nat) : Bool := s.inFlight.any (accessIn p va size)

/-- Set a page migrating: its entry is kind 8, its translations are forgotten (R228 steps 1 and 2). -/
def State.setMigrating (s : State) (p va : Nat) (l : Leaf) : State :=
  (s.setPte p l.place (8 * 2 ^ 60 + l.entry % 2 ^ 60)).flushTlb p (tlbIn va l.size)

/-- Write the entry of a page again; stores that have not left their spans go to its new home (R228 step 4). -/
def State.setEntry (s : State) (p va : Nat) (l : Leaf) (e : Nat) : State :=
  ((s.setPte p l.place e).flushTlb p (tlbIn va l.size)).rekeyStores p va l.size

/-- The bytes a MERGE launch keeps of a page go with it to its new home; of a page that leaves HBM, the launch keeps account (R323,
R325). -/
def State.moveKept (s : State) (p va size dst : Nat) (src new : Nat → Option Nat) : State :=
  match (s.part p).snapshotOf with
  | none => s
  | some (no, l) =>
    let moved := l.kept.map fun e =>
      match firstWhere (fun i => src i == some e.1) (natsFrom 0 size) with
      | some i => ((new i).getD e.1, e.2)
      | none => e
    s.modLaunch p no fun x =>
      { x with kept := moved
               evicted := if pteKind dst = 5 ∨ pteKind dst = 6 then x.evicted ++ [(va, size)] else x.evicted }

/-- Copy a page from the home of one entry to that of another, its history with it (R201, R228). -/
def State.copyPage (s : State) (p va size src dst die : Nat) : State :=
  let home := fun (e i : Nat) => s.leafKey p die e size (va + i)
  ((s.copyLines p size (home src) (home dst)).carryPast size (home src) (home dst)).moveKept p va size dst (home src) (home dst)

/-- Change a settlement. -/
def State.modSettle (s : State) (p : Nat) (x : Settle) (f : Settle → Settle) : State :=
  s.modPart p fun q => { q with settles := q.settles.map fun y => if y.va = x.va ∧ y.why = x.why then f y else y }

/-- A settlement is done. -/
def State.dropSettle (s : State) (p : Nat) (x : Settle) : State :=
  s.modPart p fun q => { q with settles := q.settles.filter fun y => !(y.va == x.va && y.why == x.why) }

/-- A settlement is refused: each waiter meets the refusal once (R359). -/
def State.refuse (s : State) (p : Nat) (x : Settle) : State :=
  (s.dropSettle p x).modPart p fun q =>
    { q with refused := q.refused ++ ((x.asks.map fun a => (x.va, a.who)).filter fun m => !q.refused.contains m) }

/-- The slices of a page that moves between HBM and a remote home (R350). -/
def State.pageSlices (s : State) (p die va size entry : Nat) (prio : Nat) : List Slice :=
  match s.leafKey p die entry size va with
  | some key => s.homeSlices (.page va) key size prio
  | none => []

/-! ### Evictions (R229, R230) -/

/-- The leaves below a table, by address; the number of entries of a level bounds each. -/
def State.leavesUnder (s : State) (ports : Nat) : Nat → Nat → List (Nat × Nat × Option Nat) → List (Nat × Leaf)
  | _, _, [] => []
  | q, va, (shift, entries, code) :: rest =>
    (natsFrom 0 entries).flatMap fun i =>
      match hbmKey ports (q + 8 * i) with
      | none => []
      | some place =>
        let e := s.readNat place 8
        let a := va + i * 2 ^ shift
        if pteKind e = 1 ∧ pteReservedOk e then s.leavesUnder ports (natBits e 43 16 * 65536) a rest
        else
          match code with
          | some c => if 2 ≤ pteKind e ∧ pteKind e ≤ 8 ∧ natBits e 3 2 = c then [(a, ⟨place, e, pageSize c⟩)] else []
          | none => []

/-- Every leaf of a partition's page table in page order. -/
def State.allLeaves (s : State) (p : Nat) : List (Nat × Leaf) := s.leavesUnder (s.part p).ports (s.part p).root 0 walkLevels

/-- The frames of the system image and its tables (R344). -/
def Part.systemUnit (q : Part) (u : Nat) : Bool :=
  match q.frames with
  | [] => false
  | f :: _ => decide (f.1 ≤ u) && decide (u < f.1 + f.2)

/-- The page may leave a die's region: an unpinned HBM page, no working page of a version, none of the system's. -/
def State.evictable (s : State) (p die : Nat) (failed : List Nat) (e : Nat × Leaf) : Bool :=
  let unit := natBits e.2.entry 43 16
  pteKind e.2.entry == 2 && !natBit e.2.entry 11 && unit / 67108864 == die && !(s.part p).versionAt e.1 &&
    !(s.part p).systemUnit unit && !failed.contains e.1

/-- The page at which the sweep of a die's region stands. -/
def Part.handOf (q : Part) (die : Nat) : Nat := smGet 0 q.hands die

/-- Candidates in page order from the die's hand on. -/
def State.candidates (s : State) (p die : Nat) (failed : List Nat) : List (Nat × Leaf) :=
  let all := (s.allLeaves p).filter (s.evictable p die failed)
  (all.filter fun e => decide ((s.part p).handOf die ≤ e.1)) ++ all.filter fun e => decide (e.1 < (s.part p).handOf die)

/-- The sweep clears accessed bits until it finds one that has stayed clear (R229). -/
def State.sweep (s : State) (p : Nat) : List (Nat × Leaf) → State × Option (Nat × Leaf)
  | [] => (s, none)
  | e :: rest =>
    let s := s.countLines p e.2.place 8
    if natBit e.2.entry 4 then
      let s1 := (s.setPte p e.2.place (e.2.entry - 16)).flushTlb p (tlbIn e.1 e.2.size)
      s1.sweep p rest
    else (s, some e)

/-- The page that leaves: the first found clear, else the first of the sweep. -/
def State.victim (s : State) (p die : Nat) (failed : List Nat) : State × Option (Nat × Leaf) :=
  let cs := s.candidates p die failed
  match s.sweep p cs with
  | (s1, some e) => (s1, some e)
  | (s1, none) => (s1, (cs.head?).map fun e => (e.1, { e.2 with entry := e.2.entry - (if natBit e.2.entry 4 then 16 else 0) }))

/-- An eviction is over, its page left or stayed. -/
def State.dropEvict (s : State) (p : Nat) (v : Evict) : State := s.modPart p fun q => { q with evicts := q.evicts.filter fun e => e.va != v.va }

/-- Change an eviction. -/
def State.modEvict (s : State) (p : Nat) (v : Evict) (f : Evict → Evict) : State :=
  s.modPart p fun q => { q with evicts := q.evicts.map fun e => if e.va = v.va then f e else e }

/-- The die whose region a settlement takes its frame of (R229; log entry 10). -/
def Part.frameDie (q : Part) (die : Nat) : Nat := ((q.homeDies die).head?).getD die

/-- A write-back cannot be made: the page stays with its entry, the failure is counted, the settlements that need room of the die's region
pass it (R230). -/
def State.evictFailed (s : State) (p : Nat) (v : Evict) : State :=
  let s1 := match s.walk p v.va, v.old with
    | .leaf l, some e => if pteKind l.entry = 8 then s.setEntry p v.va l e else s
    | _, _ => s
  ((s1.count p 0x0E 1).dropEvict p v).modPart p fun q =>
    { q with settles := q.settles.map fun x => if q.frameDie x.die = v.die then { x with failed := nsInsert x.failed v.va } else x }

/-- An eviction goes on: the host is asked where the page goes, the page is set migrating once that is known. A page that may not leave any
longer, pinned meanwhile or versioned, stays (R229). -/
def State.evictStep (s : State) (p : Nat) (v : Evict) : State :=
  match s.walk p v.va with
  | .leaf l =>
    if v.old.isSome then s
    else if !s.evictable p v.die [] (v.va, l) then s.dropEvict p v
    else
      match v.target with
      | some 0 => s.evictFailed p v
      | some _ => (s.setMigrating p v.va l).modEvict p v fun e => { e with old := some l.entry }
      | none =>
        if v.seq.isSome then s
        else
          match s.postHost p v.va 3 with
          | .refused => s.evictFailed p v
          | .full s1 => s1
          | .written s1 n => s1.modEvict p v fun e => { e with seq := some n }
  | _ => s.dropEvict p v

/-- Room for a frame is made: an eviction under way goes on, or one begins; the flag says no page can leave. -/
def State.makeRoom (s : State) (p die prio : Nat) (failed : List Nat) : State × Bool :=
  match firstWhere (fun v => v.die == die) (s.part p).evicts with
  | some v => (s.evictStep p v, false)
  | none =>
    match s.victim p die failed with
    | (s1, none) => (s1, true)
    | (s1, some (va, l)) =>
      let origin := tbGet (s1.part p).origins (natBits l.entry 43 16)
      let v : Evict := ⟨va, l.size, none, origin, none, die, prio⟩
      ((s1.modPart p fun q => { q with evicts := q.evicts ++ [v], hands := smSet 0 q.hands die (va + l.size) }).evictStep p v, false)

/-- The write-back of an eviction completes or fails (R230). -/
def State.evictDone (s : State) (p va : Nat) (ok : Bool) : State :=
  match firstWhere (fun v => v.va == va) (s.part p).evicts with
  | none => s
  | some v =>
    match v.old, v.target, s.walk p va with
    | some old, some target, .leaf l =>
      let unit := natBits old 43 16
      let lost := pteKind target == 6 && !s.peerReachable (natBits target 55 48)
      if pteKind l.entry ≠ 8 ∨ s.pageBusy p va v.size then s
      else if !ok || lost then s.evictFailed p v
      else
        let e := target - target % 65536 + pteLow old
        match s.takeSlices p (s.pageSlices p v.die va v.size e v.prio) with
        | (s0, false) => s0
        | (s0, true) =>
          let s1 := (s0.copyPage p va v.size old e v.die).setEntry p va l e
          ((s1.giveFrame p unit).dropEvict p v).modPart p fun q => { q with origins := tbErase q.origins unit }
    | none, _, _ => s.evictStep p v
    | _, _, _ => s

/-! ### Frame exhaustion (R229) -/

/-- The gang of a waiter. -/
def Waiter.gang (w : Waiter) (g : GangId) : Option GangId :=
  match w with
  | .thread t => some t.gang
  | .core _ => some g
  | .device => none

/-- Where an access that waits arose: its lane, its address, its PC and span entry (R229, R299). -/
def State.askSite (s : State) (g : GangId) (a : Ask) : FaultSite :=
  match a.who with
  | .thread t => { thread := some t, pc := a.pc, entry := a.entry, addr := a.va, core := s.coreOf t.warp }
  | .core c => { thread := a.src, addr := a.va, core := c }
  | .device => { addr := a.va, core := (s.gang g).topCore }

/-- No frame can be freed: the gangs that wait take frame exhaustion, each by its first access. -/
def State.exhaust (s : State) (p : Nat) (x : Settle) : State :=
  let s1 := s.refuse p { x with asks := x.asks.filter fun a => a.who == .device }
  let mine := fun (g : GangId) => x.asks.filter fun a => a.who.gang x.gang == some g
  (distinct (x.asks.filterMap fun a => a.who.gang x.gang)).foldl
    (fun acc g => (mine g).head?.elim acc fun a => acc.gangFault g 0x18 (acc.askSite g a)) s1

/-- A frame for a settlement, else room is made for one. -/
def State.withFrame (s : State) (p : Nat) (x : Settle) (size : Nat) (use : State → Nat → State) : State :=
  match s.frameFor p x.die (size / 65536) with
  | some (s1, u, _) => use s1 u
  | none =>
    match s.makeRoom p ((s.part p).frameDie x.die) (s.header x.gang).prio x.failed with
    | (s1, true) => s1.exhaust p x
    | (s1, false) => s1

/-! ### Settlements -/

/-- A page goes to a new frame once nothing through its old entry is on its way: copied, its entry written (R228). -/
def State.moveTo (s : State) (p : Nat) (x : Settle) (l : Leaf) (old : Nat) (done : State → Nat → Nat → State) : State :=
  if s.pageBusy p x.va l.size then s
  else
    let move := fun (a : State) => a.withFrame p x l.size fun s1 u =>
      let e := 2 * 2 ^ 60 + u * 65536 + pteLow old
      done ((s1.copyPage p x.va l.size old e x.die).setEntry p x.va l e) u e
    if (s.frameFor p x.die (l.size / 65536)).isNone then move s
    else
      match s.takeSlices p (s.pageSlices p x.die x.va l.size old (s.header x.gang).prio) with
      | (s1, true) => move s1
      | (s1, false) => s1

/-- A remote page migrates into HBM; its origin is kept (R228, R230). -/
def State.migrate (s : State) (p : Nat) (x : Settle) (l : Leaf) (stay : Bool) : State :=
  match x.old with
  | none => (s.setMigrating p x.va l).modSettle p x fun y => { y with old := some l.entry }
  | some old =>
    s.moveTo p x l old fun s1 u _ =>
      let s2 := s1.modPart p fun q =>
        { q with origins := tbSet q.origins u (old - pteLow old), touches := q.touches.filter fun t => t.1.2 != x.va }
      if stay then s2.modSettle p x fun y => { y with old := none } else s2.dropSettle p x

/-- The page of a leaf holds bytes of a tile, or a sector barrier: it keeps its place (log entry 68). -/
def State.holdsPlace (s : State) (p va : Nat) (l : Leaf) : Bool :=
  let page := va - va % l.size
  let home := fun (a : Nat) => s.leafKey p 0 l.entry l.size a
  pteKind l.entry == 4 &&
    ((s.cores.any fun c => c.2.tiles.any fun t =>
        t.2.owner.gang.part == p && decide (t.2.va < page + l.size) && decide (page < t.2.va + t.2.size)) ||
      (natsFrom 0 (l.size / 16)).any fun i => (home (page + 16 * i)).any fun k => s.tags.contains k)

/-- A page of a contained launch takes a working copy, and the frame it had is kept as its version; a page that keeps its place has its
version in a frame (R314; log entry 68). -/
def State.makeVersion (s : State) (p : Nat) (x : Settle) (l : Leaf) (n : Nat) : State :=
  match x.old with
  | none =>
    if s.holdsPlace p x.va l then
      (if s.pageBusy p x.va l.size then s
       else s.withFrame p x l.size fun s1 u =>
         ((s1.copyLines p l.size (fun i => s1.leafKey p x.die l.entry l.size (x.va + i)) fun i => hbmKey (s1.part p).ports (65536 * u + i)).modLaunch p n
           fun q => { q with versions := q.versions ++ [⟨x.va, l.size, u, l.entry, true⟩] }).dropSettle p x)
    else (s.setMigrating p x.va l).modSettle p x fun y => { y with old := some l.entry }
  | some old =>
    s.moveTo p x l old fun s1 _ _ =>
      (s1.modLaunch p n fun q => { q with versions := q.versions ++ [⟨x.va, l.size, natBits old 43 16, old, false⟩] }).dropSettle p x

/-- A page of kind 7 waits for the host (R359). -/
def State.askHost (s : State) (p : Nat) (x : Settle) (l : Leaf) (access : Nat) : State :=
  match x.answer with
  | some 0 => s.refuse p x
  | some a => (s.setEntry p x.va l (5 * 2 ^ 60 + a + pteLow l.entry)).dropSettle p x
  | none =>
    if x.seq.isSome then s
    else
      match s.postHost p x.va access with
      | .refused => s.refuse p x
      | .full s1 => s1
      | .written s1 n => s1.modSettle p x fun y => { y with seq := some n }

/-- A MERGE gang takes a private copy of a piece (R324): a unit for the copy, one for its mask and its atomic logs (log entry 69). -/
def State.makeCopy (s : State) (p : Nat) (x : Settle) (g : GangId) : State :=
  s.withFrame p x 131072 fun s1 u =>
    (s1.modGang g fun q => { q with pieces := nsInsert q.pieces (x.va / 65536), copyFrames := q.copyFrames ++ [u] }).dropSettle p x

/-- Badger's walk for a page meets an uncorrectable entry: the gangs that wait take the fault, which no walk of theirs has met (R232, R313). -/
def State.walkFault (s : State) (p : Nat) (x : Settle) : State :=
  let s1 := (s.dropSettle p x).count p 0x08 1
  (distinct (x.asks.filterMap fun a => a.who.gang x.gang)).foldl
    (fun acc g => ((x.asks.filter fun a => a.who.gang x.gang == some g).head?).elim acc fun a =>
      acc.gangFault g 0x1B { acc.askSite g a with pinned := false }) s1

/-- One settlement is served (R228). -/
def State.settle (s : State) (p : Nat) (x : Settle) : State :=
  match s.walk p x.va with
  | .broken => s.walkFault p x
  | .invalid => s.dropSettle p x
  | .leaf l =>
    let kind := pteKind l.entry
    let mine := x.old.isSome && kind == 8
    match x.why with
    | .notPresent access =>
      if kind = 7 then s.askHost p x l access else if kind = 8 then s else s.dropSettle p x
    | .migrate => if mine || ((kind == 5 || kind == 6) && !natBit l.entry 11) then s.migrate p x l false else if kind = 8 then s else s.dropSettle p x
    | .version n =>
      if !s.hasLaunch p n || (s.part p).versionAt x.va then s.dropSettle p x
      else
        let remote := match x.old with
          | some e => pteKind e == 5 || pteKind e == 6
          | none => kind == 5 || kind == 6
        if kind = 8 ∧ !mine then s
        else if remote then (if natBit l.entry 11 then s.dropSettle p x else s.migrate p x l true)
        else if kind = 2 ∨ kind = 4 ∨ mine then s.makeVersion p x l n
        else s.dropSettle p x
    | .copy g => if (s.gang g).state.works then s.makeCopy p x g else s.dropSettle p x

/-- The settlement waits for the host alone. -/
def Settle.waitsHost (x : Settle) : Bool := x.seq.isSome

/-- The settlement cannot go on now: software or another settlement has set its page migrating. -/
def State.stalled (s : State) (p : Nat) (y : Settle) : Bool :=
  match s.walk p y.va with
  | .leaf l => pteKind l.entry == 8 && y.old.isNone
  | _ => false

/-- A settlement that has not begun, and could, stands before others of its die. -/
def State.stands (s : State) (p : Nat) (y : Settle) : Bool := !y.waitsHost && y.old.isNone && !s.stalled p y

/-- The settlement of a page that is next: under way, or the first of its die that can begin (R228). -/
def State.nextSettle (s : State) (p va : Nat) : Option Settle :=
  let all := (s.part p).settles
  firstWhere
    (fun x => x.va == va && !x.waitsHost &&
      (x.old.isSome || !(all.takeWhile fun y => y != x).any fun y => y.die == x.die && s.stands p y)) all

/-- Badger settles a page (BADGER_SETTLE); device-generated writes that waited are tried again. -/
def State.badger (s : State) (p va : Nat) : State :=
  match s.nextSettle p va with
  | none => s
  | some x =>
    let s1 := s.settle p x
    s1.flushHeld p ((s1.part p).held.length)

/-- BADGER_SETTLE (R228). -/
def execBadgerSettle (part : Nat) (va : Dword) (s : State) : Host.Outcome State Fault Refusal := .next (s.badger part va.toNat)

/-- EVICTION_WRITEBACK_COMPLETE (R230). -/
def execEvictionWritebackComplete (part : Nat) (va : Dword) (ok : Bool) (s : State) : Host.Outcome State Fault Refusal :=
  .next (s.evictDone part va.toNat ok)

end Sys2Proof.Machine
end

