-- ==== Sys2Proof/Machine/Cipher.lean ====
section
/-! DEFINITION. The two algorithms the spec names and does not write out (spec/17 R354, R355): SHA-384 over the root image, and
AES-XTS-256 over a 64-byte line of HBM. PRESUMED: FIPS 180-4, FIPS 197 and IEEE 1619 (log entry 18). -/

namespace Sys2Proof.Machine

/-! ### SHA-384 -/

/-- The largest r below 2^(bits) with r^k at most n, bit by bit from the highest. -/
def rootBits (k n : Nat) : Nat → Nat → Nat
  | 0, r => r
  | b + 1, r => if (r + 2 ^ b) ^ k ≤ n then rootBits k n b (r + 2 ^ b) else rootBits k n b r

/-- The first 64 bits of the fraction of the k-th root of a small number. -/
def rootFraction (k p : Nat) : BitVec 64 := BitVec.ofNat 64 (rootBits k (p * 2 ^ (64 * k)) 73 0)

/-- The primes below 410, of which there are 80. -/
def primes80 : List Nat := (natsFrom 2 408).filter fun n => (natsFrom 2 (n - 2)).all fun d => n % d != 0

/-- The round constants: cube roots. -/
def shaK : List (BitVec 64) := primes80.map (rootFraction 3)

/-- The initial value of SHA-384: square roots of the ninth to the sixteenth prime. -/
def sha384Init : List (BitVec 64) := ((primes80.drop 8).take 8).map (rootFraction 2)

/-- Three rotations, or two and a shift, of a word. -/
def rot3 (x : BitVec 64) (a b c : Nat) : BitVec 64 := x.rotateRight a ^^^ x.rotateRight b ^^^ x.rotateRight c
/-- Two rotations and a shift of a word. -/
def rotShift (x : BitVec 64) (a b c : Nat) : BitVec 64 := x.rotateRight a ^^^ x.rotateRight b ^^^ (x >>> c)

/-- The eight working words. -/
structure Sha where
  a : BitVec 64
  b : BitVec 64
  c : BitVec 64
  d : BitVec 64
  e : BitVec 64
  f : BitVec 64
  g : BitVec 64
  h : BitVec 64

/-- One round. -/
def Sha.round (s : Sha) (k w : BitVec 64) : Sha :=
  let t1 := s.h + rot3 s.e 14 18 41 + ((s.e &&& s.f) ^^^ (~~~s.e &&& s.g)) + k + w
  let t2 := rot3 s.a 28 34 39 + ((s.a &&& s.b) ^^^ (s.a &&& s.c) ^^^ (s.b &&& s.c))
  ⟨t1 + t2, s.a, s.b, s.c, s.d + t1, s.e, s.f, s.g⟩

/-- The rounds of a block: the message words move through a window of sixteen. -/
def shaRounds : List (BitVec 64) → List (BitVec 64) → Sha → Sha
  | [], _, s => s
  | _ :: _, [], s => s
  | k :: ks, w :: win, s =>
    let next := rotShift ((win[13]?).getD 0) 19 61 6 + (win[8]?).getD 0 + rotShift ((win[0]?).getD 0) 1 8 7 + w
    shaRounds ks (win ++ [next]) (s.round k w)

/-- The words of a state. -/
def Sha.words (s : Sha) : List (BitVec 64) := [s.a, s.b, s.c, s.d, s.e, s.f, s.g, s.h]

/-- A state from its words. -/
def shaOf (w : List (BitVec 64)) : Sha :=
  let x := fun (i : Nat) => (w[i]?).getD 0
  ⟨x 0, x 1, x 2, x 3, x 4, x 5, x 6, x 7⟩

/-- Bytes as a number, the first the highest. -/
def bigNat (bs : List Byte) : Nat := bs.foldl (fun n b => 256 * n + b.toNat) 0

/-- n bytes of a number, the highest first. -/
def bigBytes (n v : Nat) : List Byte := (natBytes n v).reverse

/-- The words of a block of 128 bytes. -/
def blockWords (block : List Byte) : List (BitVec 64) := (natsFrom 0 16).map fun i => BitVec.ofNat 64 (bigNat ((block.drop (8 * i)).take 8))

/-- The hash value after n blocks. -/
def shaBlocks (ks : List (BitVec 64)) : Nat → List (BitVec 64) → List Byte → List (BitVec 64)
  | 0, h, _ => h
  | n + 1, h, bs =>
    let r := (shaRounds ks (blockWords (bs.take 128)) (shaOf h)).words
    shaBlocks ks n ((h.zip r).map fun x => x.1 + x.2) (bs.drop 128)

/-- The message with its padding: a one bit, zeros, its length in bits. -/
def shaPadded (bs : List Byte) : List Byte :=
  bs ++ [0x80] ++ (natsFrom 0 ((239 - bs.length % 128) % 128)).map (fun _ => 0) ++ bigBytes 16 (8 * bs.length)

/-- SHA-384: 48 bytes. -/
def sha384 (bs : List Byte) : List Byte :=
  let m := shaPadded bs
  ((shaBlocks shaK (m.length / 128) sha384Init m).take 6).flatMap fun w => bigBytes 8 w.toNat

/-- The n bytes from a place of which those that are not zero are listed, in order. -/
def spread : Nat → Nat → List (Nat × Byte) → List Byte
  | 0, _, _ => []
  | n + 1, _, [] => 0 :: spread n 0 []
  | n + 1, at_, (k, b) :: rest => if k = at_ then b :: spread n (at_ + 1) rest else 0 :: spread n (at_ + 1) ((k, b) :: rest)

/-! ### AES-256 -/

/-- Twice a byte of GF(2^8). -/
def aesDouble (b : Byte) : Byte := (b <<< 1) ^^^ (if b.getLsbD 7 then 0x1B else 0)

/-- The product of two bytes, by the bits of the second from bit 0. -/
def aesMul (a b : Byte) : Byte :=
  ((natsFrom 0 8).foldl (fun (p : Byte × Byte) i => (if b.getLsbD i then p.1 ^^^ p.2 else p.1, aesDouble p.2)) (0, a)).1

/-- The inverse: the 254th power. -/
def aesInverse (b : Byte) : Byte :=
  let sq := fun (x : Byte) => aesMul x x
  let p2 := sq b
  let p4 := sq p2
  let p8 := sq p4
  let p16 := sq p8
  let p32 := sq p16
  let p64 := sq p32
  let p128 := sq p64
  aesMul (aesMul (aesMul p2 p4) (aesMul p8 p16)) (aesMul (aesMul p32 p64) p128)

/-- The S-box. -/
def aesSub (b : Byte) : Byte :=
  let x := aesInverse b
  x ^^^ x.rotateLeft 1 ^^^ x.rotateLeft 2 ^^^ x.rotateLeft 3 ^^^ x.rotateLeft 4 ^^^ 0x63

/-- Two lists of bytes, byte by byte. -/
def xorBytes (a b : List Byte) : List Byte := (a.zip b).map fun x => x.1 ^^^ x.2

/-- Word i of the expanded key, from the eight words before it, the oldest first. -/
def keyWord (i : Nat) (last : List (List Byte)) : List Byte :=
  let old := (last[0]?).getD []
  let w := (last[7]?).getD []
  let t :=
    if i % 8 = 0 then
      let r := (w.drop 1 ++ w.take 1).map aesSub
      xorBytes r [(natsFrom 1 (i / 8 - 1)).foldl (fun (c : Byte) _ => aesDouble c) 1, 0, 0, 0]
    else if i % 8 = 4 then w.map aesSub
    else w
  xorBytes old t

/-- n more words of the expanded key. -/
def keyWords : Nat → Nat → List (List Byte) → List (List Byte)
  | 0, _, _ => []
  | n + 1, i, last =>
    let w := keyWord i last
    w :: keyWords n (i + 1) (last.drop 1 ++ [w])

/-- The fifteen round keys of a key of 32 bytes. -/
def roundKeys (key : List Byte) : List (List Byte) :=
  let first := (natsFrom 0 8).map fun i => (key.drop (4 * i)).take 4
  let all := first ++ keyWords 52 8 first
  (natsFrom 0 15).map fun r => ((all.drop (4 * r)).take 4).flatten

/-- The rows of a block are shifted: byte r + 4c comes from column c + r. -/
def shiftRows (b : List Byte) : List Byte := (natsFrom 0 16).map fun i => (b[(i + 4 * (i % 4)) % 16]?).getD 0

/-- The columns of a block are mixed. -/
def mixColumns (b : List Byte) : List Byte :=
  (natsFrom 0 16).map fun i =>
    let x := fun (k : Nat) => (b[i / 4 * 4 + (i + k) % 4]?).getD 0
    aesDouble (x 0) ^^^ aesDouble (x 1) ^^^ x 1 ^^^ x 2 ^^^ x 3

/-- The rounds over a block: the last has no mixing. -/
def aesRounds : List (List Byte) → List Byte → List Byte
  | [], b => b
  | [k], b => xorBytes (shiftRows (b.map aesSub)) k
  | k :: ks, b => aesRounds ks (xorBytes (mixColumns (shiftRows (b.map aesSub))) k)

/-- AES-256 of a block of 16 bytes. -/
def aes256 (key block : List Byte) : List Byte :=
  match roundKeys key with
  | [] => block
  | k :: ks => aesRounds ks (xorBytes block k)

/-! ### XTS -/

/-- The next tweak: twice it in GF(2^128), the first byte the lowest. -/
def xtsDouble (t : List Byte) : List Byte :=
  let n := 2 * natOfBytes t
  natBytes 16 (if 2 ^ 128 ≤ n then (n - 2 ^ 128) ^^^ 0x87 else n)

/-- The blocks of a data unit from a tweak on. -/
def xtsBlocks (key : List Byte) : Nat → List Byte → List Byte → List Byte
  | 0, _, _ => []
  | n + 1, t, bs => xorBytes (aes256 key (xorBytes (bs.take 16) t)) t ++ xtsBlocks key n (xtsDouble t) (bs.drop 16)

/-- AES-XTS-256 of a data unit under a key of 64 bytes, its two halves, with a tweak of 16. -/
def xtsAes256 (key tweak bs : List Byte) : List Byte :=
  xtsBlocks (key.take 32) (bs.length / 16) (aes256 (key.drop 32) tweak) bs

end Sys2Proof.Machine
end

