-- ==== Sys2Proof/Machine/Owl.lean ====
section
/-! DEFINITION. Owl's rounds and merges, and the lattice window of a function (spec/12 R245 to R251; spec/18 R361). -/

namespace Sys2Proof.Machine

/-- The dies round n of a die sends to (Table 12-4). -/
def roundDests (sched n : Nat) (live : List Nat) (die : Nat) : List Nat :=
  let k := live.length
  let r := (live.filter fun d => decide (d < die)).length
  let ranks :=
    match sched with
    | 0 => [(r + 1) % k]
    | 1 => if r ^^^ 2 ^ (n % 2) < k then [r ^^^ 2 ^ (n % 2)] else if r ^^^ 2 ^ ((n + 1) % 2) < k then [r ^^^ 2 ^ ((n + 1) % 2)] else []
    | _ => natsFrom 0 k
  (ranks.filter fun q => decide (q < k) && q != r).filterMap fun q => live[q]?

/-- A die sends a destination every cell marked for it, and clears those marks (R245). -/
def State.sendMarked (s : State) (p entry die dest : Nat) : State :=
  let offs := ((s.die die).marks.filter fun m => m.part == p && m.entry == entry && m.dest == dest).map Mark.off
  (offs.foldl (fun acc off => acc.sendCell p entry off die dest) s).modDie die fun d => d.clearMarks p entry fun x => x == dest

/-- The next round of a region, on every live die of the partition (OWL_ROUND, R245). -/
def State.owlRound (s : State) (p entry : Nat) : State :=
  match tbGet (s.part p).regions entry with
  | none => s
  | some r =>
    let n := r.rounds + 1
    let live := s.diesOf p
    if (s.part p).ticks < r.since + n * r.period then s
    else
      let s1 := s.modPart p fun q => { q with regions := tbSet q.regions entry { r with rounds := n } }
      live.foldl (fun acc d => (roundDests r.sched n live d).foldl (fun a e => a.sendMarked p entry d e) acc) s1

/-- A value Owl sent is joined at its die (OWL_MERGE, R245). -/
def State.owlMerge (s : State) (id : Nat) : State :=
  match firstWhere (fun d => d.id == id) s.deltas with
  | none => s
  | some d =>
    let s1 := { s with deltas := s.deltas.filter fun x => x.id != id }
    match tbGet (s.part d.part).regions d.entry with
    | none => s1
    | some r =>
      if (s.die d.dest).fenced then s1
      else
        match s1.replicaKey d.part d.dest (r.base + d.off) with
        | none => s1
        | some key =>
          if isForeign key then s1.countError
          else s1.joinAt d.part d.entry (r.base + d.off) key d.dest d.value d.poison true { id := s1.nextId, told := d.told }

/-! ### The lattice window (R250, R251) -/

/-- A function's BAR takes part: the physical one always, a virtual one while its partition exists (R357). -/
def State.fnEnabled (s : State) (fn : Nat) : Bool := fn == 0 || s.hasPart (fn - 1)

/-- An access to a function's BAR arrives: the function takes part, and the access is not one to be discarded (R357, R361). -/
def State.fnHears (s : State) (fn : Nat) : Bool := s.fnEnabled fn && !(s.fn fn).offStream

/-- The region of a partition with the host flag. -/
def Part.hostRegion (q : Part) : Option (Nat × Region) := firstWhere (fun r => r.2.host) q.regions

/-- A host write to the lattice window: a join at the host die, or discarded and counted. -/
def State.windowWrite (s : State) (fn off width value : Nat) : State :=
  if fn = 0 ∨ !s.fnHears fn ∨ (s.fn fn).tdisp = .error then s
  else
    let p := fn - 1
    let die := ((s.diesOf p).head?).getD 0
    match (s.part p).hostRegion with
    | none => s.count p 0x09 1
    | some (entry, r) =>
      if width ≠ cellWidth r.type ∨ off % width ≠ 0 ∨ r.size < off + width then s.count p 0x09 1
      else
        match s.replicaKey p die (r.base + off) with
        | none => s.count p 0x09 1
        | some key =>
          if isForeign key then s.countError
          else s.joinAt p entry (r.base + off) key die (value % 2 ^ (8 * width)) false false { id := s.nextId }

/-- What a host read of the lattice window returns: the host die's cell for an aligned read of its width, zero for any other (R250). -/
def State.windowRead (s : State) (fn off width : Nat) : Nat :=
  if fn = 0 ∨ !s.fnHears fn then 0
  else
    match (s.part (fn - 1)).hostRegion with
    | none => 0
    | some (_, r) =>
      if width ≠ cellWidth r.type ∨ off % width ≠ 0 ∨ r.size < off + width then 0
      else ((s.replicaKey (fn - 1) (((s.diesOf (fn - 1)).head?).getD 0) (r.base + off)).map fun key => s.readNat key width).getD 0

/-- OWL_ROUND (R245). -/
def execOwlRound (part entry : Nat) (s : State) : Host.Outcome State Fault Refusal := .next (s.owlRound part entry)

/-- OWL_MERGE (R245). -/
def execOwlMerge (id : Nat) (s : State) : Host.Outcome State Fault Refusal := .next (s.owlMerge id)

/-- LATTICE_WINDOW_WRITE (R250). -/
def execLatticeWindowWrite (fn off width : Nat) (value : BitVec 128) (s : State) : Host.Outcome State Fault Refusal :=
  .next (if off < 4096 then s.windowWrite fn off width value.toNat else s)

end Sys2Proof.Machine
end

