-- ==== Sys2Proof/Machine/DieFence.lean ====
section
/-! DEFINITION. Ready bits, and fencing a die: what its gangs, launches, replicas and settlements become (spec/12 R249; spec/14 R272;
spec/15 R317; spec/18 R369). -/

namespace Sys2Proof.Machine

/-- A ready bit of Table 18-3. -/
def State.isReady (s : State) (bit : Nat) : Bool := s.ready.getLsbD bit

/-- Ready bits change; the physical function's vector 1 is raised where one does (R369). -/
def State.setReady (s : State) (v : BitVec 128) : State := if v = s.ready then s else { s with ready := v }.raise 0 1

/-- The bits a fenced die clears: its own, its rows, its links and its port (R369). -/
def dieBits (d : Nat) : Nat := 2 ^ d + 255 * 2 ^ (4 + 8 * d) + 63 * 2 ^ (48 + 6 * d) + 2 ^ (72 + d)

/-- The partition holds cores of a die (R340). -/
def Part.onDie (q : Part) (d : Nat) : Bool := natBits q.rows (8 * d + 7) (8 * d) != 0

/-- A launch whose lost gangs are placed again (R272). -/
def State.reissues (s : State) (p n : Nat) : Bool :=
  let h := (s.launch p n).hdr
  h.contained || h.idempotent || (s.part p).mode == 1

/-- A gang of a lost die: placed again from its start, or its launch ends with status 0x0005 (R272). -/
def State.loseGang (s : State) (die : Nat) (g : GangId) : State :=
  if (s.launch g.part g.launch).ending.isSome then (s.killLanes g).cancelEngines g
  else if s.reissues g.part g.launch then
    (s.dropGang g).modLaunch g.part g.launch fun l => { l with again := nsInsert l.again g.gang }
  else ((s.killLanes g).cancelEngines g).endLaunch g.part g.launch 5 0 die g.gang

/-- A range handed to a lost die and not yet placed (R272). -/
def State.loseRange (s : State) (die : Nat) (h : Handed) : State :=
  if (s.launch h.part h.launch).ending.isSome then s
  else if s.reissues h.part h.launch then
    s.modLaunch h.part h.launch fun l => { l with again := h.gangs.foldl nsInsert l.again }
  else s.endLaunch h.part h.launch 5 0 die (h.gangs.headD 0)

/-- The dies of a partition rank themselves again: every cell is marked for every destination (R249). -/
def State.markAll (s : State) (p : Nat) : State :=
  let live := s.diesOf p
  (s.part p).regions.foldl
    (fun acc r =>
      let w := cellWidth r.2.type
      live.foldl
        (fun a d =>
          let marks := (schedDests r.2.sched live d).flatMap fun dest =>
            (natsFrom 0 (r.2.size / w)).map fun k => (⟨p, r.1, k * w, dest⟩ : Mark)
          a.modDie d fun x => { x.clearMarks p r.1 (fun _ => true) with marks := (x.clearMarks p r.1 fun _ => true).marks ++ marks }) acc) s

/-- The cores a partition has left, ascending. -/
def State.coresLeft (s : State) (p : Nat) : List Nat :=
  (natsFrom 0 256).filter fun c => (s.part p).hasCore c && !(s.die (c / 64)).fenced

/-- A root gang lost with its die starts again on the lowest-numbered core left, once that has room for it (R317; log entry 58). -/
def State.restartRoot (s : State) (p : Nat) : State :=
  let g := rootGang p
  let s1 := ((s.killLanes g).cancelEngines g).freeGang g
  match s1.coresLeft p with
  | c :: _ => (s1.setGang g { Gang.fresh with state := .placing, die := c / 64, topCore := c }).placeRoot p c
  | [] => s1

/-- What fencing a die does to one partition that held cores of it. -/
def State.fencePart (s : State) (die p : Nat) : State :=
  let gangs := (tbKeys s.gangs).filter fun g => g.part == p && (s.gang g).die == die && (s.gang g).state.resident
  let s1 := (gangs.filter fun g => !g.isRoot).foldl (fun acc g => acc.loseGang die g) s
  let s2 := ((s.die die).handed.filter fun h => h.part == p).foldl (fun acc h => acc.loseRange die h) s1
  let s3 := if gangs.any fun g => g.isRoot then s2.restartRoot p else s2
  let master := ((s3.diesOf p).head?).getD 0
  let s4 := s3.modPart p fun q => { q with settles := q.settles.map fun x => if x.die = die then { x with die := master } else x }
  (s4.markAll p).log p { event := 6 }

/-- A die is fenced (R317). -/
def State.fenceDie (s : State) (die : Nat) : State :=
  if 4 ≤ die ∨ (s.die die).fenced then s
  else
    let parts := (tbKeys s.parts).filter fun p => (s.part p).onDie die
    let s1 := s.modDie die fun d => { d with fenced := true }
    let s2 := s1.setReady (s1.ready &&& ~~~(BitVec.ofNat 128 (dieBits die)))
    let s3 := parts.foldl (fun acc p => acc.fencePart die p) s2
    { s3.setDie die { Die.idle with fenced := true } with deltas := s3.deltas.filter fun d => d.dest != die }

/-- DIE_FENCE (R317). -/
def execDieFence (die : Nat) (s : State) : Host.Outcome State Fault Refusal := .next (s.fenceDie die)

end Sys2Proof.Machine
end

