-- ==== Sys2Proof/Machine/Nightjar.lean ====
section
/-! DEFINITION. The command rings and Nightjar's commands (spec/17 R340 to R347; spec/18 R357). -/

namespace Sys2Proof.Machine

/-! ### Rings (R342, R343) -/

/-- A command record (Table 17-1). -/
structure CmdRec where
  seq : Nat
  op : Nat
  part : Nat
  reserved : Nat
  args : List Byte
deriving DecidableEq, Repr

/-- An argument field at an offset of the record. -/
def CmdRec.arg (r : CmdRec) (off n : Nat) : Nat := recordField r.args (off - 16) n

/-- The argument bytes outside the listed fields are zero. -/
def CmdRec.restZero (r : CmdRec) (fields : List (Nat × Nat)) : Bool :=
  (natsFrom 16 48).all fun o => (fields.any fun f => decide (f.1 ≤ o) && decide (o < f.1 + f.2)) || r.arg o 1 == 0

/-- A function's ring is set up. -/
def Fn.hasRing (f : Fn) : Bool := f.ringbase != 0 && decide (4 ≤ f.ringlog) && decide (f.ringlog ≤ 12)

/-- Where a function's next record stands. -/
def Fn.ringAt (f : Fn) : Nat := f.ringbase + 64 * (f.expected % 2 ^ f.ringlog)

/-- A function has a record to perform. -/
def State.hasCmd (s : State) (fn : Nat) : Bool :=
  let f := s.fn fn
  s.isReady 77 && s.fnEnabled fn && f.hasRing && decide (f.expected ≤ f.cmdcell)

/-- It is a function's turn in the rotation (R342). -/
def State.fnTurn (s : State) (fn : Nat) : Bool :=
  let due := (natsFrom 0 17).filter s.hasCmd
  let order := (due.filter fun f => decide (s.servedFn < f)) ++ due.filter fun f => decide (f ≤ s.servedFn)
  order.head? == some fn

/-- The record a function's ring holds next. -/
def State.nextCmd (s : State) (fn : Nat) : CmdRec :=
  let bs := s.hostRead fn (s.fn fn).ringAt 64
  ⟨recordField bs 0 8, recordField bs 8 2, recordField bs 10 1, recordField bs 11 1, bs.drop 16⟩

/-- A record is performed: its status is written, then vector 0 is raised (R342). -/
def State.cmdDone (s : State) (fn status : Nat) : State :=
  let s1 := s.hostWrite fn ((s.fn fn).ringAt + 12) (natBytes 4 status)
  ({ s1 with servedFn := fn }.modFn fn fun f => { f with expected := f.expected + 1 }).raise fn 0

/-- What a command comes to: a new state with its status, or not yet. -/
inductive CmdEnd where
  | done (s : State) (status : Nat)
  | wait (s : State)

/-- The partition a command names (R343). -/
def cmdPart (fn : Nat) (r : CmdRec) : Nat := if fn = 0 then r.part else fn - 1

/-- Nightjar performs a function's next record where it is the command of an event; a record that is none gets status 4. -/
def State.runCmd (s : State) (fn op : Nat) (physicalOnly : Bool) (fields : List (Nat × Nat))
    (f : State → Nat → CmdRec → CmdEnd) : State :=
  if !s.fnTurn fn then s
  else
    let r := s.nextCmd fn
    if r.seq ≠ (s.fn fn).expected ∨ r.op = 0 ∨ 7 < r.op then s.cmdDone fn 4
    else if r.op ≠ op then s
    else if physicalOnly && fn != 0 then s.cmdDone fn 7
    else if !r.restZero fields || r.reserved != 0 || (fn != 0 && r.part != 0) then s.cmdDone fn 4
    else
      match f s (cmdPart fn r) r with
      | .done s1 status => s1.cmdDone fn status
      | .wait s1 => s1

/-! ### CREATE (R344) -/

/-- The resources a CREATE names. -/
structure Claim where
  rows : Nat
  pool : Nat
  ports : Nat
deriving DecidableEq, Repr

/-- Two masks share a bit. -/
def masksMeet (a b : Nat) : Bool := a &&& b != 0

/-- Every named resource is ready, and a pool size is set (R344 step 3). -/
def State.claimReady (s : State) (c : Claim) : Bool :=
  s.poolz != 0 && ((natsFrom 0 32).all fun r => !natBit c.rows r || s.isReady (4 + r)) &&
    (natsFrom 0 48).all fun p => !natBit c.ports p || s.isReady (36 + p / 4)

/-- Some named resource belongs to a partition (R344 step 4). -/
def State.claimTaken (s : State) (c : Claim) : Bool :=
  s.parts.any fun q => masksMeet q.2.rows c.rows || masksMeet q.2.pool c.pool || masksMeet q.2.ports c.ports

/-- A key lies in the slices of named rows, below the pool share, or in a named granule on any die (R344 step 3, R345). -/
def State.sramOf (s : State) (c : Claim) (key : Nat) : Bool :=
  let off := key % 16777216
  isSram key &&
    (if off < s.sliceLimit then natBit c.rows (coreOfKey key / 8) else natBit c.pool ((off - s.sliceLimit) / 65536))

/-- A key lies in the HBM of named ports. -/
def hbmOf (c : Claim) (key : Nat) : Bool := isHbm key && natBit c.ports ((key - 1099511627776) / 17179869184)

/-- A root image's header (R28, R266). -/
def Header.rootOk (h : Header) (limit : Nat) : Bool :=
  h.valid limit && h.gshape == 0 && h.e0 == 32 && h.gangs == 1 && !h.paired && !h.contained && !h.cooperative && !h.idempotent

/-- The header of a root gang runs at priority 255 (R266). -/
def Header.atRoot (h : Header) : Header := { h with control := h.control - h.prio * 2 ^ 27 + 255 * 2 ^ 27 }

/-- The bytes of n of host memory that are listed, by their places. -/
def State.imageCells (s : State) (fn addr n : Nat) : List (Nat × Byte) :=
  let base := keyHost fn addr
  (s.mem.filter fun c => decide (base ≤ c.1) && decide (c.1 < base + n)).map fun c => (c.1 - base, c.2)

/-- Copy n bytes of host memory into a partition's HBM from an address (R344 step 4); the HBM there is zero. -/
def State.copyImage (s : State) (fn addr n ports q0 : Nat) : State :=
  (s.imageCells fn addr n).foldl (fun acc c => acc.writePhys ports (q0 + c.1) [c.2]) s

/-- CREATE (R344); the image comes through the host DMA engine, as a host-issued command of a partition without a budget (R350; log entry 52). -/
def State.create (s : State) (p : Nat) (r : CmdRec) : CmdEnd :=
  let c : Claim := ⟨r.arg 0x10 4, r.arg 0x14 2, r.arg 0x18 8⟩
  let mode := r.arg 0x16 2
  let image := r.arg 0x20 8
  let ilen := r.arg 0x28 8
  let h := headerOf (s.hostRead 0 image 64)
  if s.hasPart p then .done s 3
  else if 16 ≤ s.parts.length then .done s 8
  else if 16 ≤ p ∨ c.rows = 0 ∨ c.ports = 0 ∨ 3 < mode ∨ 2 ^ 48 ≤ c.ports ∨ (s.poolz ≠ 0 ∧ 2 ^ s.poolz ≤ c.pool) ∨ ilen = 0 ∨
      ilen % 65536 ≠ 0 ∨ 268435456 < ilen then .done s 4
  else if !s.claimReady c then .done s 2
  else if s.claimTaken c then .done s 3
  else if !h.rootOk s.sliceLimit then .done s 6
  else
    let s1 := { s with keyNo := s.keyNo + 1 }.zeroFill fun key => s.sramOf c key || hbmOf c key
    let s2 := { s1 with keyed := (natsFrom 0 48).foldl (fun k x => if natBit c.ports x then tbSet k x (p, s.keyNo + 1) else k) s1.keyed
                        served := tbSet s1.served 0 p }.makePart p c.rows c.ports c.pool mode ilen (s.keyNo + 1) h.atRoot
    let s3 := (s2.copyImage 0 image ilen c.ports (imageBase c.ports)).modPart p fun q =>
      { q with nonce := r.arg 0x30 16, imageHash := natOfBytes (sha384 (spread ilen 0 (s.imageCells 0 image ilen))) }
    .done ((s3.setFn (fnOf p) Fn.reset).startRoot p (rootCore c.rows)) 1

/-! ### DESTROY (R345) -/

/-- A partition's gangs, engines, translations and Owl state are gone. -/
def State.erasePart (s : State) (p : Nat) : State :=
  let q := s.part p
  let mine := fun (g : GangId) => g.part == p
  let gangs := (tbKeys s.gangs).filter mine
  let s1 := gangs.foldl (fun acc g => (acc.killLanes g).cancelEngines g) s
  let s2 := ((s1.dieQ ++ s1.coreQ).filter fun a => mine a.gang).foldl (fun acc a => acc.performNow a) s1
  let s3 := s2.zeroFill (s2.sramOf ⟨q.rows, q.pool, q.ports⟩)
  { s3 with
    warps := s3.warps.filter fun w => !mine w.1.gang
    wgs := s3.wgs.filter fun w => !mine w.1.gang
    gangs := s3.gangs.filter fun g => !mine g.1
    parts := tbErase s3.parts p
    gateQ := s3.gateQ.filter fun a => !mine a.gang
    deltas := s3.deltas.filter fun d => d.part != p
    cores := s3.cores.map fun c =>
      (c.1, if q.hasCore c.1 then Core.idle else c.2)
    dies := s3.dies.map fun d =>
      (d.1, { d.2 with handed := d.2.handed.filter fun x => x.part != p
                       reserved := d.2.reserved.filter fun x => x.1 != p
                       holding := d.2.holding.filter fun x => !mine x.gang
                       marks := d.2.marks.filter fun x => x.part != p }) }

/-- DESTROY. -/
def State.destroy (s : State) (p : Nat) : CmdEnd :=
  if !s.hasPart p then .done s 5 else .done ((s.erasePart p).setFn (fnOf p) Fn.reset) 1

/-! ### Keys (R354) -/

/-- The key derived from the root key, a partition's number and a creation counter: the two halves of AES-XTS-256's. -/
def derivedKey (p no : Nat) : List Byte := natBytes 64 (Config.deriveKey Config.rootKey p no)

/-- The key of a partition: derived at its CREATE from the root key, its number and its creation counter. -/
def Part.key (q : Part) (p : Nat) : List Byte := derivedKey p q.keyNo

/-- The key slot of a partition on a base die: loaded from its CREATE to its end. -/
def State.keySlot (s : State) (p : Nat) : Option (List Byte) := (tbGet s.parts p).map fun q => q.key p

/-- What a stack holds for a 64-byte line of HBM from a key: its ciphertext under the key of the last CREATE that took the port, which
DESTROY erases and leaves the line under (R345). Memory holds what a read through the key slot gives. -/
def State.stackLine (s : State) (key : Nat) : Option (List Byte) :=
  let port := (key - 1099511627776) / 17179869184
  (tbGet s.keyed port).map fun k =>
    xtsAes256 (derivedKey k.1 k.2) (natBytes 16 (Config.lineTweak port ((key - 1099511627776) % 17179869184)))
      ((s.readBytes key 64).map PByte.v)

/-- What a base die gives for a 64-byte line through a partition's key slot: the clear bytes where the line was written under that key. -/
def State.lineThrough (s : State) (p key : Nat) : Option (List Byte) :=
  match tbGet s.parts p, tbGet s.keyed ((key - 1099511627776) / 17179869184) with
  | some q, some k => if k = (p, q.keyNo) then some ((s.readBytes key 64).map PByte.v) else none
  | _, _ => none

/-! ### Registers (R347) -/

/-- A register of Table 17-3: its width in bits, and who may set and read it (bit 0 the physical function, bit 1 the virtual).
DESIGN CHOICE: where Table 17-6 says otherwise of a command, Table 17-3 stands, to which the commands point (log entry 70). -/
def partReg (n : Nat) : Option (Nat × Nat × Nat) :=
  if n = 0 then some (64, 0, 3)
  else if n = 1 then some (64, 1, 1)
  else if n = 2 then some (32, 1, 3)
  else if n = 3 then some (8, 1, 3)
  else if n = 4 then some (16, 2, 2)
  else if n = 5 ∨ n = 6 ∨ n = 7 then some (128, 2, 2)
  else if n = 8 then some (32, 2, 2)
  else if 0x10 ≤ n ∧ n ≤ 0x3F then some (8, 1, 3)
  else if 0x40 ≤ n ∧ n ≤ 0x47 then some (32, 2, 3)
  else if 0x48 ≤ n ∧ n ≤ 0x4F then some (8, 1, 3)
  else none

/-- The function may use a register so. -/
def regAllowed (fn who : Nat) : Bool := natBit who (if fn = 0 then 0 else 1)

/-- A partition's register. -/
def Part.reg (q : Part) (n : Nat) : Nat := smGet 0 q.regs n

/-- The owner floor of a port, 256 for a field of 0. -/
def ownerFloor (v : Nat) : Nat := if v = 0 then 256 else v

/-- Floors fit at every owned port: the owner's and those of valid grants (Table 17-3). -/
def Part.floorsOk (q : Part) : Bool :=
  let grants := (natsFrom 0 8).filter fun g => natBit (q.reg (0x40 + g)) 24
  let given := sumNat (grants.map fun g => q.reg (0x48 + g))
  (natsFrom 0 48).all fun p => !natBit q.ports p || given = 0 || decide (ownerFloor (q.reg (0x10 + p)) + given ≤ 256)

/-- A debug-log descriptor is in range (R300). -/
def logOk (v : Nat) : Bool :=
  let base := natBits v 63 0
  let n := natBits v 95 64
  natBits v 127 96 == 0 && base % 64 == 0 && decide (base < 2 ^ 55) &&
    (n == 0 || ((natsFrom 6 11).any fun k => n == 2 ^ k))

/-- A value of a register is in range (Table 17-3, Table 14-3, Table 16-5). -/
def regValueOk (n v : Nat) : Bool :=
  match partReg n with
  | none => false
  | some (w, _, _) =>
    decide (v < 2 ^ w) &&
      (if n = 1 then natBits v 63 48 == 0 && natBits v 39 32 == 0
       else if n = 5 then logOk v
       else if n = 6 ∨ n = 7 then natBits v 127 96 == 0 && natBits v 63 0 % 64 == 0 && decide (natBits v 63 0 < 2 ^ 55)
       else if 0x40 ≤ n ∧ n ≤ 0x47 then natBits v 31 25 == 0 && natBits v 15 12 == 0 && natBits v 7 0 == 0
       else true)

/-- In a RECORD partition a log that is set up begins empty (R331). -/
def State.openLog (s : State) (p n : Nat) : State :=
  let q := s.part p
  if q.mode = 2 ∧ (n = 6 ∨ n = 7) ∧ q.logCap n ≠ 0 then
    let s1 := if n = 6 then s.setPart p { q with orderCount := 0, orderOf := [] } else s.setPart p { q with digestCount := 0, digestOf := [] }
    s1.devWrite p (.bytes (q.logBase n) (natBytes 12 0) (smGet 0 (s1.part p).regs 3))
  else s

/-- SETREG (R347). -/
def State.setReg (s : State) (fn p : Nat) (r : CmdRec) : CmdEnd :=
  let n := r.arg 0x10 8
  let v := r.arg 0x18 16
  match partReg n with
  | none => .done s 4
  | some (_, setBy, _) =>
    if !s.hasPart p then .done s 5
    else if !regAllowed fn setBy then .done s 7
    else
      let q := s.part p
      let q1 := { q with regs := smSet 0 q.regs n v }
      let foreign := decide (0x10 ≤ n) && decide (n ≤ 0x3F) && !natBit q.ports (n - 0x10) && v != 0
      if !regValueOk n v || foreign || !q1.floorsOk then .done s 4 else .done ((s.setPart p q1).openLog p n) 1

/-- GETREG (R347). -/
def State.getReg (s : State) (fn p : Nat) (r : CmdRec) : CmdEnd :=
  let n := r.arg 0x10 8
  match partReg n with
  | none => .done s 4
  | some (_, _, readBy) =>
    if !s.hasPart p then .done s 5
    else if !regAllowed fn readBy then .done s 7
    else .done (s.hostWrite fn ((s.fn fn).ringAt + 0x18) (natBytes 16 ((s.part p).reg n))) 1

/-! ### SUSPEND and RESUME (R346) -/

/-- Every running gang of a partition goes to SAVING; a draining one goes on, one of a launch that ends is discarded (R98, R346). -/
def State.saveAll (s : State) (p : Nat) : State :=
  { s with gangs := s.gangs.map fun g =>
      (g.1, if g.1.part = p ∧ g.2.state = .running ∧ (s.launch p g.1.launch).ending.isNone then { g.2 with state := .saving } else g.2) }

/-- No gang of a partition holds cores. -/
def State.noneResident (s : State) (p : Nat) : Bool := !s.gangs.any fun g => g.1.part == p && g.2.state.resident

/-- SUSPEND: it is done once every gang is saved. -/
def State.suspend (s : State) (p : Nat) : CmdEnd :=
  if !s.hasPart p then .done s 5
  else if (s.part p).suspended then .done s 1
  else
    let s1 := (s.saveAll p).modPart p fun q => { q with suspending := true }
    if s1.noneResident p then .done (s1.modPart p fun q => { q with suspending := false, suspended := true }) 1 else .wait s1

/-- RESUME. -/
def State.resumePart (s : State) (p : Nat) : CmdEnd :=
  if !s.hasPart p then .done s 5 else .done (s.modPart p fun q => { q with suspended := false }) 1

/-! ### FENCEDIE (R317) -/

/-- FENCEDIE. -/
def State.fenceCmd (s : State) (r : CmdRec) : CmdEnd :=
  let d := r.arg 0x10 8
  if 4 ≤ d ∨ r.part ≠ 0 then .done s 4 else .done (s.fenceDie d) 1

/-- A join into a function's command cell (R342). -/
def State.cmdCell (s : State) (fn v : Nat) : State :=
  if !s.fnHears fn || (s.fn fn).tdisp == .error then s else s.modFn fn fun f => { f with cmdcell := max f.cmdcell v }

/-- The commands by their op (Table 17-2): CREATE, DESTROY, SETREG, GETREG, SUSPEND, RESUME, FENCEDIE. -/
def State.command (s : State) (fn op : Nat) : State :=
  match op with
  | 1 => s.runCmd fn 1 true [(0x10, 48)] fun a p r => a.create p r
  | 2 => s.runCmd fn 2 true [] fun a p _ => a.destroy p
  | 3 => s.runCmd fn 3 false [(0x10, 8), (0x18, 16)] fun a p r => a.setReg fn p r
  | 4 => s.runCmd fn 4 false [(0x10, 8)] fun a p r => a.getReg fn p r
  | 5 => s.runCmd fn 5 true [] fun a p _ => a.suspend p
  | 6 => s.runCmd fn 6 true [] fun a p _ => a.resumePart p
  | _ => s.runCmd fn 7 true [(0x10, 8)] fun a _ r => a.fenceCmd r

/-- Nightjar performs the next record of a function, whatever it is. -/
def State.nightjar (s : State) (fn : Nat) : State := s.command fn (s.nextCmd fn).op

/-- COMMAND_CELL_WRITE (R342). -/
def execCommandCellWrite (fn : Nat) (value : Dword) (s : State) : Host.Outcome State Fault Refusal := .next (s.cmdCell fn value.toNat)

/-- CREATE (R344). -/
def execCreate (fn : Nat) (s : State) : Host.Outcome State Fault Refusal := .next (s.command fn 1)

/-- DESTROY (R345). -/
def execDestroy (fn : Nat) (s : State) : Host.Outcome State Fault Refusal := .next (s.command fn 2)

/-- SETREG (R347). -/
def execSetreg (fn : Nat) (s : State) : Host.Outcome State Fault Refusal := .next (s.command fn 3)

/-- GETREG (R347). -/
def execGetreg (fn : Nat) (s : State) : Host.Outcome State Fault Refusal := .next (s.command fn 4)

/-- SUSPEND (R346). -/
def execSuspend (fn : Nat) (s : State) : Host.Outcome State Fault Refusal := .next (s.command fn 5)

/-- RESUME (R346). -/
def execResume (fn : Nat) (s : State) : Host.Outcome State Fault Refusal := .next (s.command fn 6)

/-- FENCEDIE (R317). -/
def execFencedie (fn : Nat) (s : State) : Host.Outcome State Fault Refusal := .next (s.command fn 7)

end Sys2Proof.Machine
end

