-- ==== Sys2Proof/Machine/Queues.lean ====
section
/-! DEFINITION. The partition's queues, the walk of a launch, ranges, placement (spec/14 R267 to R273; spec/16 R321, R322, R336). -/

namespace Sys2Proof.Machine

/-! ### The curve (R321) -/

/-- The loop of R321: the point so far, the index left. -/
def curveLoop : List Nat → Nat → Nat → Nat → Nat × Nat
  | [], x, y, _ => (x, y)
  | s :: ss, x, y, q =>
    let rx := q / 2 % 2
    let ry := (q ^^^ rx) % 2
    let (x1, y1) := if ry = 0 then (if rx = 1 then (s - 1 - y, s - 1 - x) else (y, x)) else (x, y)
    curveLoop ss (x1 + s * rx) (y1 + s * ry) (q / 4)

/-- The smallest power of two at least a number, as its exponent. -/
def log2Up (n : Nat) : Nat := ((natsFrom 0 33).filter fun k => decide (n ≤ 2 ^ k)).headD 33

/-- The point of a curve index. -/
def curvePoint (k h : Nat) : Nat × Nat := curveLoop ((natsFrom 0 k).map fun i => 2 ^ i) 0 0 h

/-- The point of a plane rank: the points of the grid in curve order from an index on. -/
def planePoint (k e2 e3 : Nat) : Nat → Nat → Nat → Nat × Nat
  | 0, _, _ => (0, 0)
  | fuel + 1, h, rank =>
    let (x, y) := curvePoint k h
    if x < e2 ∧ y < e3 then (if rank = 0 then (x, y) else planePoint k e2 e3 fuel (h + 1) (rank - 1))
    else planePoint k e2 e3 fuel (h + 1) rank

/-- The gang of a curve rank. -/
def Header.gangOfRank (h : Header) (rank : Nat) : Nat :=
  let plane := h.e2 * h.e3
  let k := log2Up (max h.e2 h.e3)
  let (x, y) := planePoint k h.e2 h.e3 (4 ^ k) 0 (rank % plane)
  x + h.e2 * (y + h.e3 * (rank / plane))

/-- The gang at a place of the walk (R268). -/
def Part.walkGang (q : Part) (h : Header) (i : Nat) : Nat := if q.mode = 1 then h.gangOfRank i else i

/-- The place of a gang in the walk. -/
def Part.walkPlace (q : Part) (h : Header) (g : Nat) : Nat :=
  if q.mode = 1 then (firstWhere (fun i => h.gangOfRank i == g) (natsFrom 0 h.gangs)).getD g else g

/-! ### Queues (R267) -/

/-- Insert by a strict order, behind equals. -/
def insertBy {α : Type} (lt : α → α → Bool) (a : α) : List α → List α
  | [] => [a]
  | b :: l => if lt a b then a :: b :: l else b :: insertBy lt a l

/-- Sort by a strict order. -/
def sortBy {α : Type} (lt : α → α → Bool) (l : List α) : List α := l.foldr (insertBy lt) []

/-- A launch in its queue, with its discarded gangs, or with those it has not placed (R267). -/
structure Queued where
  no : Nat
  l : Launch
  redo : Bool
deriving DecidableEq, Repr

/-- The places of a launch in the queues: its discarded gangs stand by themselves, those of a cooperative one with the rest of it. -/
def queuedOf (l : Nat × Launch) : List Queued :=
  if l.2.ending.isSome then []
  else
    (if l.2.redo = [] then [] else [⟨l.1, l.2, true⟩]) ++
      (if (l.2.again = [] ∧ l.2.hdr.gangs ≤ l.2.walk) ∨ (l.2.hdr.cooperative ∧ l.2.redo ≠ []) then [] else [⟨l.1, l.2, false⟩])

/-- The order of the queues: priority, discarded gangs, acceptance (R267). -/
def Queued.before (a b : Queued) : Bool :=
  if a.l.hdr.prio ≠ b.l.hdr.prio then decide (b.l.hdr.prio < a.l.hdr.prio)
  else if a.redo != b.redo then a.redo
  else decide (a.l.order < b.l.order)

/-- What a partition has to hand out, in queue order; in a MERGE partition of the earliest accepted launch alone (R267, R322). -/
def Part.queue (q : Part) : List Queued :=
  let open_ := q.launches.filter fun l => l.1 != 0
  let mine := if q.mode = 1 then (leastBy (fun a b => decide (a.2.order < b.2.order)) open_).toList else open_
  sortBy Queued.before (mine.flatMap queuedOf)

/-- Gangs in walk order. -/
def Part.inWalk (q : Part) (l : Launch) (gs : List Nat) : List Nat :=
  sortBy (fun a b => decide (q.walkPlace l.hdr a < q.walkPlace l.hdr b)) gs

/-- Gangs that go next in walk order, at most 64: discarded ones, those a die gave back or lost, else the next of the walk (R268, R272). -/
def Part.nextGangs (q : Part) (x : Queued) : List Nat :=
  let l := x.l
  if x.redo then (q.inWalk l l.redo).take 64
  else if l.again = [] then (natsFrom l.walk (min 64 (l.hdr.gangs - l.walk))).map (q.walkGang l.hdr)
  else (q.inWalk l l.again).take 64

/-- Take gangs off a launch. -/
def Launch.taken (l : Launch) (redo : Bool) (gs : List Nat) : Launch :=
  if redo then { l with redo := l.redo.filter fun g => !gs.contains g }
  else if l.again = [] then { l with walk := l.walk + gs.length } else { l with again := l.again.filter fun g => !gs.contains g }

/-- The die reports a free rectangle for a gang (R268). -/
def State.reports (s : State) (die : Nat) (g : GangId) (h : Header) : Bool :=
  (s.diesOf g.part).contains die && (s.chooseRect g h die).isSome

/-- Some die of the partition reports a free rectangle. -/
def State.anyReports (s : State) (g : GangId) (h : Header) : Bool := (s.diesOf g.part).any fun d => s.reports d g h

/-- A gang takes a rectangle of the first die that has one. -/
def State.placeAny (s : State) (g : GangId) (h : Header) : List Nat → Option State
  | [] => none
  | d :: ds =>
    match s.chooseRect g h d with
    | some top => some (s.placeGang g h top)
    | none => s.placeAny g h ds

/-- Every gang of a list takes a rectangle, or none does (R271). -/
def State.placeAll (s : State) (h : Header) : List GangId → Option State
  | [] => some s
  | g :: gs =>
    match s.placeAny g h (s.diesOf g.part) with
    | some s1 => s1.placeAll h gs
    | none => none

/-- The gang of a launch a range would begin with. -/
def firstGang (p n : Nat) (gs : List Nat) : GangId := ⟨p, n, gs.headD 0⟩

/-- Every gang of a cooperative launch still to be placed. -/
def Part.restGangs (q : Part) (l : Launch) : List Nat :=
  l.redo ++ l.again ++ (natsFrom l.walk (l.hdr.gangs - l.walk)).map (q.walkGang l.hdr)

/-! ### Logs of a REPLAY launch (R336) -/

/-- n bytes of partition memory the device reads through the page table, none where they are not mapped. -/
def State.partRead (s : State) (p va n : Nat) : Option (List Byte) :=
  match s.walk p va with
  | .leaf l => (s.leafKey p (((s.diesOf p).head?).getD 0) l.entry l.size va).map fun key => (s.readBytes key n).map PByte.v
  | _ => none

/-- The entries a log's control block counts. -/
def State.logCount (s : State) (p reg : Nat) : Nat :=
  match s.partRead p ((s.part p).logBase reg) 8 with
  | some bs => min (natOfBytes bs) ((s.part p).logCap reg)
  | none => 0

/-- The entries of a log that a launch takes: those of its number whose void flag is clear. -/
def State.logEntries (s : State) (p reg size noAt flagAt launch : Nat) : List (List Byte) :=
  let base := (s.part p).logBase reg
  (natsFrom 0 (s.logCount p reg)).filterMap fun i =>
    match s.partRead p (base + 64 + size * i) size with
    | some bs => if recordField bs noAt 2 = launch ∧ recordField bs flagAt 1 % 2 = 0 then some bs else none
    | none => none

/-- The pairs of a chunk. -/
def chunkPairs (bs : List Byte) : List (Nat × Nat) :=
  (natsFrom 0 (min 12 (recordField bs 10 1))).map fun i => (recordField bs (16 + 4 * i) 2, recordField bs (18 + 4 * i) 2)

/-- The order lists of chunks: by word, in ascending seq. -/
def orderLists (chunks : List (List Byte)) : List (Nat × List (Nat × Nat)) :=
  (sortBy (fun a b => decide (recordField a 12 4 < recordField b 12 4)) chunks).foldl
    (fun acc c =>
      let w := recordField c 0 8
      tbSet acc w (((tbGet acc w).getD []) ++ chunkPairs c)) []

/-- The 64 KiB pieces of a range, each by its first address in it. -/
def piecesOf (va n : Nat) : List Nat :=
  ((natsFrom 0 (n / 65536 + 2)).map fun i => max va (va - va % 65536 + 65536 * i)).filter fun a => decide (a < va + n)

/-- The pages of a log: of its control block, of the entries that this counts. -/
def State.logPages (s : State) (p reg size : Nat) : List Nat :=
  let base := (s.part p).logBase reg
  if (s.part p).logCap reg = 0 then [] else base :: piecesOf (base + 64) (size * s.logCount p reg)

/-- The first page of the logs a launch of a REPLAY partition has still to read that Badger has to settle first (R228, R336). -/
def State.logPage (s : State) (p n : Nat) : Option Nat :=
  if (s.part p).mode = 3 ∧ !(s.launch p n).read then firstWhere (s.settling p) (s.logPages p 6 64 ++ s.logPages p 7 16) else none

/-- A launch of a REPLAY partition reads its logs before its first gang is placed. -/
def State.readLogs (s : State) (p n : Nat) : State :=
  if (s.part p).mode = 3 ∧ !(s.launch p n).read then
    let lists := orderLists (s.logEntries p 6 64 8 11 n)
    let digests := (s.logEntries p 7 16 8 10 n).map fun bs => (recordField bs 0 4, recordField bs 4 4)
    s.modLaunch p n fun l => { l with read := true, lists := lists, listsAll := lists, digests := digests }
  else s

/-! ### Handing out and placing -/

/-- Nothing is placed while the partition is suspended, or waits for writes of its own. -/
def State.places (s : State) (p : Nat) : Bool :=
  !(s.part p).suspended && !(s.part p).suspending && ((s.part p).mode != 2 || (s.part p).held == [])

/-- A launch begins to be placed: its logs are read, its snapshot stands (R323, R336). -/
def State.beginLaunch (s : State) (p n : Nat) : State :=
  (s.readLogs p n).modLaunch p n fun l => { l with placed := true }

/-- A cooperative launch is placed whole, or waits (R271). -/
def State.placeWhole (s : State) (p n : Nat) (l : Launch) : Option State :=
  ((s.beginLaunch p n).placeAll l.hdr (((s.part p).restGangs l).map fun g => ⟨p, n, g⟩)).map fun s1 =>
    s1.modLaunch p n fun x => { x with walk := x.hdr.gangs, again := [], redo := [] }

/-- One range goes before another in a die's hands: of one partition, by priority, then discarded gangs before those not yet placed (R267). -/
def State.goesBefore (s : State) (a b : Handed) : Bool :=
  let pa := (s.launch a.part a.launch).hdr.prio
  let pb := (s.launch b.part b.launch).hdr.prio
  a.part == b.part && if pa = pb then a.redo && !b.redo else decide (pb < pa)

/-- A range of a launch goes to a die: its gangs are QUEUED; it stands behind those that go before it (R267, R268, R273). -/
def State.handTo (s : State) (p die : Nat) (x : Queued) : State :=
  let gs := (s.part p).nextGangs x
  let h : Handed := ⟨p, x.no, gs, x.redo⟩
  let s1 := ((s.modLaunch p x.no fun l => l.taken x.redo gs).modPart p fun q => { q with lastHand := some (s.clk, die) }).modDie die fun d =>
    { d with handed := insertBy s.goesBefore h d.handed }
  gs.foldl
    (fun acc g => acc.modGang ⟨p, x.no, g⟩ Gang.again) s1

/-- The rectangle a saved gang resumes on: any die's; a root gang's is its core (R266, R273). -/
def State.resumeRect (s : State) (g : GangId) : Option Nat :=
  let h := s.header g
  if g.isRoot then firstWhere (fun c => s.rectFree g h c) (((natsFrom 0 256).filter fun c => (s.part g.part).hasCore c && !(s.die (c / 64)).fenced).take 1)
  else firstWhere (s.rectFree g h) ((s.diesOf g.part).flatMap (alignedTops h.gshape))

/-- A saved gang that may resume has a rectangle, at a priority or above (R267). -/
def State.resumeFirst (s : State) (p prio : Nat) : Bool :=
  s.gangs.any fun g => g.1.part == p && g.2.state == .saved && !g.2.held && (s.launch p g.1.launch).ending.isNone &&
    decide (prio ≤ (s.header g.1).prio) && (s.resumeRect g.1).isSome

/-- What goes next to a die, in queue order: behind the saved gangs of its priority and above; what no die has room for is passed, up to
a cooperative launch (R267). -/
def State.handFrom (s : State) (p die : Nat) : List Queued → State
  | [] => s
  | x :: rest =>
    let g := firstGang p x.no ((s.part p).nextGangs x)
    if s.resumeFirst p x.l.hdr.prio then s
    else match s.logPage p x.no with
    | some va => s.askDevice p va
    | none =>
    if x.l.hdr.cooperative then (s.placeWhole p x.no x.l).getD s
    else if s.reports die g x.l.hdr then s.handTo p die x
    else if s.anyReports g x.l.hdr then s
    else s.handFrom p die rest

/-! ### Rectangles kept for a gang (R282, R338) -/

/-- A gang of a launch leaves the walk and every range to be placed by itself. -/
def State.takeOut (s : State) (g : GangId) : State :=
  let s1 := s.modLaunch g.part g.launch fun l =>
    { l with walk := l.hdr.gangs, redo := nsErase l.redo g.gang
             again := nsErase ((l.again ++ (natsFrom l.walk (l.hdr.gangs - l.walk)).map ((s.part g.part).walkGang l.hdr)).foldl nsInsert []) g.gang }
  { s1 with dies := s1.dies.map fun d =>
      (d.1, { d.2 with handed := (d.2.handed.map fun h =>
        if h.part = g.part ∧ h.launch = g.launch then { h with gangs := h.gangs.filter fun k => k != g.gang } else h) }) }

/-- A QUEUED gang takes the rectangle kept for it once that is free; a saved one resumes by itself, a cooperative launch is placed whole. -/
def State.placeNamed (s : State) (g : GangId) (top : Nat) : State :=
  let h := s.header g
  if (s.gang g).state = .queued ∧ s.places g.part ∧ !h.cooperative ∧ (s.launch g.part g.launch).ending.isNone ∧ s.rectFree g h top ∧
      s.spillFits g.part h ∧ (s.logPage g.part g.launch).isNone then
    ((s.takeOut g).beginLaunch g.part g.launch).placeGang g h top
  else s

/-- The gangs of a partition that rectangles of a die are kept for take them. -/
def State.placeKept (s : State) (p die : Nat) : State :=
  (s.die die).reserved.foldl (fun acc r => if r.1 = p then acc.placeNamed r.2.2 (r.2.1.headD 0) else acc) s

/-- The master serves the report of a die (GANG_RANGE_HANDOUT, R268): reports are served as they arrive, those of one clk in ascending
die number. -/
def State.handOut (s : State) (p die : Nat) : State :=
  let late := match (s.part p).lastHand with
    | some (clk, d) => clk == s.clk && decide (die < d)
    | none => false
  if !s.places p || !(s.diesOf p).contains die || late then s
  else
    let s1 := s.placeKept p die
    s1.handFrom p die (s1.part p).queue

/-- A range in a die's hands has to wait: for a saved gang, for discarded gangs of its priority or above, for a cooperative launch before
it in the queues (R267, R271). -/
def State.heldBack (s : State) (h : Handed) : Bool :=
  let mine : Queued := ⟨h.launch, s.launch h.part h.launch, h.redo⟩
  s.resumeFirst h.part mine.l.hdr.prio ||
    (s.part h.part).queue.any fun x =>
      x.before mine &&
        (x.l.hdr.cooperative || (x.redo && s.anyReports (firstGang h.part x.no ((s.part h.part).nextGangs x)) x.l.hdr))

/-- The die acts on a range it holds: it places a gang of it, or drops it. -/
def State.actsOn (s : State) (h : Handed) : Bool :=
  (s.launch h.part h.launch).ending.isSome || h.gangs == [] || (s.places h.part && !s.heldBack h)

/-- A die distributor places the first gang of the first range it acts on, or gives the rest of that back (GANG_PLACE, R268, R269). -/
def State.placeNext (s : State) (die : Nat) : State :=
  match firstWhere s.actsOn (s.die die).handed with
  | none => s
  | some h =>
    let put := fun (hs : List Handed) => s.modDie die fun d =>
      { d with handed := d.handed.takeWhile (fun x => !s.actsOn x) ++ hs ++ (d.handed.dropWhile fun x => !s.actsOn x).drop 1 }
    let drop := put []
    match h.gangs with
    | [] => drop
    | k :: ks =>
      let g : GangId := ⟨h.part, h.launch, k⟩
      let hdr := s.header g
      if (s.launch h.part h.launch).ending.isSome then drop
      else
        match s.logPage h.part h.launch with
        | some va => s.askDevice h.part va
        | none =>
        match s.chooseRect g hdr die with
        | some top =>
          let s1 := put (if ks = [] then [] else [{ h with gangs := ks }])
          (s1.beginLaunch h.part h.launch).placeGang g hdr top
        | none =>
          drop.modLaunch h.part h.launch fun l =>
            if h.redo then { l with redo := h.gangs.foldl nsInsert l.redo } else { l with again := h.gangs.foldl nsInsert l.again }

/-- A gang's allocations are made: it runs (PLACEMENT_COMPLETE, R270); a root gang that waits for its core takes it. -/
def State.placementDone (s : State) (g : GangId) : State :=
  if (s.gang g).state = .placing ∧ g.isRoot then s.placeRoot g.part (s.gang g).topCore
  else if (s.gang g).state = .placing ∧ (!(s.header g).cooperative ∨ !(s.launch g.part g.launch).unhanded) then
    s.modGang g fun q => { q with state := .running }
  else s

/-- GANG_RANGE_HANDOUT (R268). -/
def execGangRangeHandout (part die : Nat) (s : State) : Host.Outcome State Fault Refusal := .next (s.handOut part die)

/-- GANG_PLACE (R269). -/
def execGangPlace (die : Nat) (s : State) : Host.Outcome State Fault Refusal := .next (s.placeNext die)

/-- PLACEMENT_COMPLETE (R270). -/
def execPlacementComplete (g : GangId) (s : State) : Host.Outcome State Fault Refusal := .next (s.placementDone g)

end Sys2Proof.Machine
end

