-- ==== Sys2Proof/Machine/Retire.lean ====
section
/-! DEFINITION. The end of gangs and launches: retirement, the merge of a MERGE launch, the status record, gang-level faults raised
by the device (spec/05 R97, R98; spec/14 R273, R280; spec/15 R312; spec/16 R326 to R328, R332 to R334, R339). -/

namespace Sys2Proof.Machine

/-! ### Retirement (R273) -/

/-- No tracker entry and no posted round of a gang is left (R186, R280). -/
def State.gangQuiet (s : State) (g : GangId) : Bool :=
  s.cores.all fun c => !(c.2.tracker.any fun e => e.2.gang == g) && !c.2.matQ.any fun e => e.wg.of g

/-- A digest entry (Table 16-8). -/
def digestBytes (gang digest launch : Nat) : List Byte :=
  natBytes 4 gang ++ natBytes 4 digest ++ natBytes 2 launch ++ natBytes 6 0

/-- Append a gang's digest entry (R334). -/
def State.writeDigest (s : State) (g : GangId) : State :=
  let n := (s.part g.part).digestCount
  let s1 := s.appendLog g.part g.launch 7 n 16 (digestBytes g.gang (s.digestOf g) g.launch)
  if n < (s.part g.part).logCap 7 then s1.modPart g.part fun q =>
    { q with digestCount := n + 1, digestOf := q.digestOf ++ [g.launch] } else s1

/-- Remove the pairs that name a gang from every list. -/
def dropPairs (gang : Nat) (lists : List (Nat × List (Nat × Nat))) : List (Nat × List (Nat × Nat)) :=
  lists.map fun l => (l.1, l.2.filter fun p => p.1 != gang)

/-- A pair of some list still names a gang. -/
def pairNames (gang : Nat) (lists : List (Nat × List (Nat × Nat))) : Bool := lists.any fun l => l.2.any fun p => p.1 == gang

/-- What a REPLAY gang is compared with at its retirement (R339). -/
def State.judge (s : State) (g : GangId) : State :=
  let l := s.launch g.part g.launch
  let s1 :=
    if pairNames g.gang l.lists then
      (s.modLaunch g.part g.launch fun x => { x with lists := dropPairs g.gang x.lists }).markDivergent g
    else s
  if tbGet l.digests g.gang = some (s.digestOf g) then s1 else s1.markDivergent g

/-- The digest of a retiring gang is logged or compared; a gang whose launch has ended leaves none (R334, R339). -/
def State.digestAtEnd (s : State) (g : GangId) : State :=
  if (s.launch g.part g.launch).ending.isSome then s
  else
    match (s.part g.part).mode with
    | 2 => s.writeDigest g
    | 3 => s.judge g
    | _ => s

/-- A gang retires: its allocations are freed (R218, R273). -/
def State.retire (s : State) (g : GangId) : State :=
  ((s.digestAtEnd g).freeGang g).modGang g fun q => { q with state := .retired }

/-- Nothing of a gang is left to complete, and nothing that was translated to its allocations is on its way (R218, R280). -/
def State.canRetire (s : State) (g : GangId) : Bool := s.lanesEnded g && s.gangQuiet g && !s.storesInto (s.inGang g)

/-- GANG_RETIRE: RETIRING once every lane has ended, RETIRED once nothing of it is left; a DRAINING gang of a launch that ends is RETIRED
without passing through RETIRING (R98, R218, R273, R280). -/
def State.gangRetire (s : State) (g : GangId) : State :=
  match (s.gang g).state with
  | .running => s.gangDone g
  | .retiring => if s.canRetire g then s.retire g else s
  | .draining => if (s.launch g.part g.launch).ending.isSome && s.canRetire g then s.retire g else s
  | _ => s

/-! ### The merge (R326 to R328) -/

/-- A gang's contribution to a word: bytes it set, or atomics. -/
structure Contribution where
  gang : Nat
  store : Bool
  bytes : List (Nat × PByte)
  atoms : List AtomLog
deriving DecidableEq, Repr

/-- The aligned word of a byte. -/
def wordOf (va : Nat) : Nat := va - va % 8

/-- The bytes of a word a gang's write mask holds (R324). -/
def Gang.maskOf (q : Gang) (w : Nat) : List Nat :=
  (natsFrom w 8).filter fun b => q.stored.contains b || q.atoms.any fun a => a.wrote && decide (a.va ≤ b) && decide (b < a.va + a.size)

/-- The contribution of a gang to a word (R326). -/
def Gang.contribution (q : Gang) (gang w : Nat) : Option Contribution :=
  let atoms := q.atoms.filter fun a => wordOf a.va == w
  if (natsFrom w 8).any fun b => q.stored.contains b then
    some ⟨gang, true, (q.maskOf w).map fun b => (b, (tbGet q.view b).getD ⟨0, false⟩), []⟩
  else if atoms = [] then none
  else some ⟨gang, false, [], atoms⟩

/-- The words a gang contributes to, ascending. -/
def Gang.words (q : Gang) : List Nat := (q.stored.map wordOf ++ q.atoms.map fun a => wordOf a.va).foldl nsInsert []

/-- The gangs of a launch in ascending curve rank. -/
def State.byRank (s : State) (p n : Nat) : List Nat :=
  let h := (s.launch p n).hdr
  (natsFrom 0 h.gangs).map ((s.part p).walkGang h)

/-- The contributions to a word, by rank. -/
def State.contributions (s : State) (p n w : Nat) (order : List Nat) : List Contribution :=
  order.filterMap fun k => (s.gang ⟨p, n, k⟩).contribution k w

/-- A contribution reaches a byte of its word. -/
def Contribution.reaches (c : Contribution) (b : Nat) : Bool := !c.store || c.bytes.any fun x => x.1 == b

/-- The first contributor whose addition makes a conflict at a byte, with its partner (R327, R328). -/
def conflictAt (b : Nat) : List Contribution → List Contribution → Option (Nat × Nat)
  | _, [] => none
  | seen, c :: cs =>
    if c.reaches b then
      match (if c.store then seen.head? else (seen.filter fun x => x.store).head?) with
      | some x => some (c.gang, x.gang)
      | none => conflictAt b (seen ++ [c]) cs
    else conflictAt b seen cs

/-- The lowest conflicting byte of a list of words: its VA, the named gang, the partner. -/
def State.firstConflict (s : State) (p n : Nat) (order : List Nat) : List Nat → Option (Nat × Nat × Nat)
  | [] => none
  | w :: ws =>
    let cs := s.contributions p n w order
    match ((natsFrom w 8).filterMap fun b => (conflictAt b [] cs).map fun r => (b, r.1, r.2)).head? with
    | some r => some r
    | none => s.firstConflict p n order ws

/-- The shared home of a byte of a partition. -/
def State.sharedKey (s : State) (p va : Nat) : Option Nat :=
  match s.walk p va with
  | .leaf l => s.leafKey p (((s.diesOf p).head?).getD 0) l.entry l.size va
  | _ => none

/-- A merged write at a shared home; what a peer that cannot be reached would have taken is dropped (R327, R365). -/
def State.mergePut (s : State) (p key : Nat) (bs : List PByte) : State :=
  if s.lostPeer key then s.count p 0x0A 1 else (s.countLines p key bs.length).putBytes key bs

/-- The bytes of a gang's store contributions go to the shared memory. -/
def State.mergeStores (s : State) (p : Nat) (bytes : List (Nat × PByte)) : State :=
  (runsAt (bytes.filterMap fun b => (s.sharedKey p b.1).map fun k => (k, b.2))).foldl (fun acc r => acc.mergePut p r.1 r.2) s

/-- An atomic of a gang's log is performed at the shared home (R137, R327). -/
def State.mergeAtom (s : State) (p : Nat) (a : AtomLog) : State :=
  match s.sharedKey p a.va with
  | none => s
  | some key =>
    let bs := s.farBytes key a.size
    let s1 := s.countRead p key bs
    match atomApply a.op (natOfBytes (bs.map PByte.v)) (anyPoison bs) with
    | some (v, bad) => s1.mergePut p key ((natBytes a.size v).map fun b => ⟨b, bad⟩)
    | none => s1

/-- The slices of the words of a merge that lie off the device, engine by engine (R350). -/
def State.mergeSlices (s : State) (p n : Nat) (words : List Nat) : List Slice :=
  let far := (words.filterMap (s.sharedKey p)).filter fun k => boundOff k && !s.lostPeer k
  (natsFrom 0 3).filterMap fun e =>
    let m := (far.filter fun k => s.engineOf (s.routeTo k) k == e).length
    if m = 0 then none else some ⟨.merge n e, e, 8 * m, (s.launch p n).hdr.prio⟩

/-- One gang's contributions are merged. -/
def State.mergeGang (s : State) (g : GangId) : State :=
  let q := s.gang g
  let cs := q.words.filterMap (q.contribution g.gang)
  let s1 := s.mergeStores g.part (cs.flatMap Contribution.bytes)
  (cs.flatMap Contribution.atoms).foldl (fun acc a => acc.mergeAtom g.part a) s1

/-- Private copies, masks, logs and kept versions are freed (R327). -/
def State.dropViews (s : State) (p n : Nat) : State :=
  let frames := (s.gangsOf p n).flatMap fun g => (s.gang g).copyFrames
  let s1 := (s.gangsOf p n).foldl
    (fun acc g => acc.modGang g fun q => { q with view := [], pieces := [], stored := [], atoms := [], copyFrames := [] }) s
  (s1.modPart p fun q => { q with frames := q.frames.filter fun f => !frames.contains f.1 }).modLaunch p n fun l =>
    { l with kept := [], evicted := [] }

/-- Nothing a launch's gangs have sent is on its way. -/
def State.launchQuiet (s : State) (p n : Nat) : Bool := !s.inFlight.any fun a => a.gang.part == p && a.gang.launch == n

/-- Every gang of a launch has been placed and has retired, or the launch has ended early and no gang is left (R98). -/
def State.allRetired (s : State) (p n : Nat) : Bool :=
  n != 0 && s.hasLaunch p n && s.launchQuiet p n &&
    (s.gangsOver p n || ((s.launch p n).ending.isSome && (s.gangsOf p n).all fun g => (s.gang g).state == .retired))

/-- The first page of a launch's contributions that Badger has still to settle: the merge waits for it (R228, R327). -/
def State.mergePage (s : State) (p : Nat) (words : List Nat) : Option Nat := firstWhere (s.settling p) words

/-- LAUNCH_MERGE (R327): the contributions of every gang, in ascending curve rank, once the bytes that leave the device have their slices
(R350), or the conflict of R328. -/
def State.launchMerge (s : State) (p n : Nat) : State :=
  let l := s.launch p n
  if (s.part p).mode ≠ 1 ∨ !s.allRetired p n ∨ l.ending.isSome ∨ l.merged then s
  else
    let order := s.byRank p n
    let words := (order.flatMap fun k => (s.gang ⟨p, n, k⟩).words).foldl nsInsert []
    let finish := fun (a : State) => (a.dropViews p n).modLaunch p n fun x => { x with merged := true }
    match s.firstConflict p n order words with
    | some (va, gang, partner) =>
      finish ((s.log p { event := 2, kind := 0x15, launch := n, gang := gang, addr := va, info := partner % 2 ^ 32 }).endLaunch p n 4 0x15 0 gang)
    | none =>
      match s.mergePage p words with
      | some va => s.askDevice p va
      | none =>
        match s.takeSlices p (s.mergeSlices p n words) with
        | (s1, true) => finish (order.foldl (fun acc k => acc.mergeGang ⟨p, n, k⟩) s1)
        | (s1, false) => s1

/-! ### The end of a launch (R98) -/

/-- How a launch ends: status, die, kind, gang (Table 5-6; R339). -/
def Launch.outcome (l : Launch) : Nat × Nat × Nat × Nat :=
  match l.ending with
  | some (status, kind, die, gang) => (status, die, kind, gang)
  | none =>
    match l.divergent with
    | g :: _ => (4, 0, 0x16, g)
    | [] => (1, 0, 0, 0)

/-- The shadow version of a page is freed; a page that came from elsewhere keeps its origin (R230, R314). -/
def State.freeVersion (s : State) (p : Nat) (v : Version) : State :=
  if v.copied then s.giveFrame p v.old
  else if pteKind v.entry = 4 then
    let u := natBits v.entry 23 16
    s.modCore (natBits v.entry 55 48) fun c => { c with mapped := c.mapped.filter fun k => !(decide (u ≤ k) && decide (k < u + v.size / 65536)) }
  else if pteKind v.entry ≠ 2 then s
  else
    let s1 := s.giveFrame p v.old
    match tbGet (s.part p).origins v.old, s.walk p v.va with
    | some o, .leaf l => s1.modPart p fun q => { q with origins := tbSet (tbErase q.origins v.old) (natBits l.entry 43 16) o }
    | _, _ => s1

/-- The open chunks of a RECORD launch are written (R332). -/
def State.closeChunks (s : State) (p n : Nat) : State :=
  (s.launch p n).chunks.foldl (fun acc c => acc.writeChunk p n c.1 c.2) s

/-- The status record and the arrival on donebar, where the header asks for them (R98). -/
def State.endWrites (s : State) (p n : Nat) (l : Launch) : State :=
  let (status, die, kind, gang) := l.outcome
  let s1 := if l.status = 0 then s else s.devWrite p (.status l.status (statusBytes status die kind n gang) n l.hdr.prio)
  if l.hdr.donebar = 0 then s1 else s1.devWrite p (.arrive l.hdr.donebar (status != 1) l.doneKey n)

/-- LAUNCH's own store of the record has still to be performed: it is on its way, or withdrawn by a save (R97, R197, R337). -/
def State.recordOut (s : State) (l : Launch) : Bool :=
  l.recordId.any fun id => (s.inFlight.any fun a => a.id == id) || s.gangs.any fun g => g.2.gated.any fun a => a.id == id

/-- Nothing of a launch is left. -/
def State.eraseLaunch (s : State) (p n : Nat) : State :=
  let s1 := s.modPart p fun q => { q with launches := tbErase q.launches n }
  { s1 with gangs := s1.gangs.filter fun g => !(g.1.part == p && g.1.launch == n)
            dies := s1.dies.map fun d =>
              (d.1, { d.2 with handed := d.2.handed.filter fun h => !(h.part == p && h.launch == n)
                               reserved := d.2.reserved.filter fun r => !(r.2.2.part == p && r.2.2.launch == n) }) }

/-- LAUNCH_END (R98): the final record follows the one LAUNCH stored. -/
def State.launchEnd (s : State) (p n : Nat) : State :=
  let l := s.launch p n
  if !s.allRetired p n ∨ s.recordOut l ∨ ((s.part p).mode = 1 ∧ l.ending.isNone ∧ !l.merged) then s
  else
    let s1 := ((s.dropViews p n).closeChunks p n).endWrites p n l
    (l.versions.foldl (fun acc v => acc.freeVersion p v) s1).eraseLaunch p n

/-! ### Gang-level faults the device raises (R232, R310, R312) -/

/-- A silent-data mismatch, or an uncorrectable error in the gang's lanes, slots, contexts or slice map: both are pinned to it (R313). -/
def State.deviceFault (s : State) (g : GangId) (kind : Nat) : State :=
  let core := (s.gang g).topCore
  if kind = 0x17 ∨ kind = 0x1B then s.gangFault g kind { core := core } else s

/-- GANG_RETIRE (R273). -/
def execGangRetire (g : GangId) (s : State) : Host.Outcome State Fault Refusal := .next (s.gangRetire g)

/-- LAUNCH_MERGE (R327). -/
def execLaunchMerge (part launch : Nat) (s : State) : Host.Outcome State Fault Refusal := .next (s.launchMerge part launch)

/-- LAUNCH_END (R98). -/
def execLaunchEnd (part launch : Nat) (s : State) : Host.Outcome State Fault Refusal := .next (s.launchEnd part launch)

/-- GANG_LEVEL_FAULT (R312). -/
def execGangLevelFault (g : GangId) (kind : Byte) (s : State) : Host.Outcome State Fault Refusal := .next (s.deviceFault g kind.toNat)

end Sys2Proof.Machine
end

