-- ==== Sys2Proof/Machine/Blocked.lean ====
section
/-! DEFINITION. Which threads are blocked: held at an instruction by a full queue, FIFO, operand log or retirement tracker, parked, or
waiting (spec/14 R276, Table 14-2). -/

namespace Sys2Proof.Machine

/-! ### Held at an instruction by something full -/

/-- The state with a lane's group at work: the one that is, or the one its PC would form (R80). -/
def State.asGroup (s : State) (t : ThreadId) : State :=
  let w := s.warp t.warp
  if ((w.cur.map Issue.lanes).getD []).contains t.lane then s
  else (s.formGroup t.warp (s.thread t).pc).modWarp t.warp fun v => { v with log := w.log }

/-- The meaning of a boundary instruction that a full queue, FIFO, operand log or retirement tracker may hold (R91, R128, R181, R253). -/
def queueMeaning (i : Instr) : Option (State → Host.Outcome State Fault Refusal) :=
  match i with
  | .copy x => some (execCopy x)
  | .bulkIn x => some (execBulkIn x)
  | .bulkOut x => some (execBulkOut x)
  | .mcast x => some (execMcast x)
  | .mcrecv x => some (execMcrecv x)
  | .mma x => some (execMma x)
  | .tail x => some (execTail x)
  | .tailBase => some execTailBase
  | .atom x => some (execAtom x)
  | .cas x => some (execCas x)
  | .red x => some (execRed x)
  | _ => none

/-- A meaning leaves a lane at its instruction. -/
def staysAt (f : State → Host.Outcome State Fault Refusal) (s : State) (t : ThreadId) (here : Dword) : Bool :=
  match f s with
  | .next r => (r.thread t).wait == .ready && (r.thread t).pc == here
  | _ => false

/-- Nothing is in the queues, the FIFO and the tracker of a warp's core, nor in the warp's operand log. -/
def State.emptied (s : State) (id : WarpId) : State :=
  (s.modCore (s.coreOf id) fun c => { c with copyQ := [], bulkQ := [], mcastQ := [], matQ := [], tracker := [] }).modWarp id fun w =>
    { w with log := [] }

/-- A ready lane is held at a boundary instruction that it would perform if nothing were full (Table 14-2). -/
def State.heldFull (s : State) (t : ThreadId) : Bool :=
  let s1 := { s.asGroup t with focus := some t.warp }
  let w := s1.warp t.warp
  match w.cur with
  | none => false
  | some g =>
    match (s1.decodeAt t.warp g).2 with
    | .instr i =>
      (match queueMeaning i with
       | some f =>
         (g.count == 0 || g.phase == .sealed) && w.landed g.lanes && !w.scoreboard g i && staysAt f s1 t g.pc &&
           !staysAt f (s1.emptied t.warp) t g.pc
       | none => false)
    | _ => false

/-- The span access an instruction makes in a lane. -/
def memAct (i : Instr) : Option (State → ThreadId → Issue → State × MemEnd) :=
  match i with
  | .ld x => some (actLd x)
  | .ldparam x => some (actLdparam x)
  | .st x => some (actSt x)
  | _ => none

/-- The group of a lane is held at a span access that the full operand log cannot take (R128). -/
def State.heldLog (s : State) (t : ThreadId) : Bool :=
  if (s.warp t.warp).logged < 4 then false
  else
    let s1 := s.asGroup t
    let w := s1.warp t.warp
    match w.cur with
    | none => false
    | some g =>
      match (s1.decodeAt t.warp g).2 with
      | .instr i =>
        (match memAct i with
         | some act =>
           let lanes := g.turnLanes.filter fun l => (w.thread l).guard i.ext.guard
           (memWalk (fun a l => act a ⟨t.warp, l⟩ g) s1 lanes).2.any fun e => e.2.isLog
         | none => false)
      | _ => false

/-- A ready lane is held at an instruction (Table 14-2). -/
def State.held (s : State) (t : ThreadId) : Bool := (s.thread t).wait == .ready && (s.heldFull t || s.heldLog t)

/-! ### Blocked -/

/-- The ATOM or CAS of the lane is held at a replay gate, or waits behind what is (Table 14-2, R337). -/
def State.atGate (s : State) (t : ThreadId) : Bool :=
  match (s.thread t).wait with
  | .atomic id _ _ _ _ => s.gateKept.any fun a => a.id == id
  | _ => false

/-- A thread is blocked (Table 14-2): it is not ready, or held at an instruction. One inside an ATOM or CAS is ready unless a gate holds
the instruction; what of a group is done waits with the rest of it. -/
def State.blocked (s : State) (t : ThreadId) : Bool :=
  match (s.thread t).wait with
  | .ready => s.held t
  | .atomic _ _ _ _ _ => s.atGate t
  | .together mates _ _ => mates.any fun l => s.atGate ⟨t.warp, l⟩ || s.held ⟨t.warp, l⟩
  | .logged _ _ _ => false
  | .drained _ => false
  | _ => true

/-- A thread has stopped at a YIELD, or is blocked (R286). -/
def State.stopped (s : State) (t : ThreadId) : Bool :=
  match (s.thread t).wait with
  | .drained _ => true
  | _ => s.blocked t

end Sys2Proof.Machine
end

