-- ==== Sys2Proof/Machine/Save.lean ====
section
/-! DEFINITION. Saving a gang and resuming it (spec/08 R186; spec/11 R217; spec/12 R249; spec/13 R264; spec/14 R273 to R275, R285 to
R288; spec/16 R337). -/

namespace Sys2Proof.Machine

/-! ### The save image (R288) -/

/-- Registers of a thread an image keeps: those of its last live count where it is stopped at a YIELD, or a drain will stop it there
(Table 14-5). -/
def Thread.keptRegs (t : Thread) (regs : Nat) (drain : Bool) : Nat :=
  let live := min regs (16 * (t.live.getD (regs / 16)))
  match t.wait with
  | .drained _ => live
  | .ready => if drain then live else regs
  | _ => regs

/-- Bytes of a thread's registers and poison bits. -/
def threadBytes (regs : Nat) (drain : Bool) (t : Thread) : Nat :=
  let n := t.keptRegs regs drain
  n * 4 + n / 8

/-- Bytes of a warp: registers and poison bits of 32 lanes, thread state, masks. -/
def warpBytes (regs : Nat) (drain : Bool) (w : Warp) : Nat :=
  sumNat (w.lanes.map fun l => threadBytes regs drain l.2) + (32 - w.lanes.length) * (regs * 4 + regs / 8) + 64 * w.lanes.length + 32

/-- Bytes of a command (Table 13-4). -/
def cmdBytes (c : Cmd) : Nat :=
  match c.op with
  | .copy _ lanes => 20 * lanes.length
  | .bulkIn _ _ _ => Config.queueBytes 0
  | .bulkOut _ _ _ => Config.queueBytes 0
  | .mcast _ _ _ => Config.queueBytes 1
  | .mcrecv _ _ _ => Config.queueBytes 1

/-- Bytes of the parked tiles of a workgroup. -/
def State.parkedBytes (s : State) (w : WgId) : Nat :=
  sumNat (s.dies.flatMap fun d => (d.2.holding.filter fun p => p.gang == w.gang && p.sender == w.member).map fun p =>
    p.bytes.length + Config.queueBytes 2)

/-- The part of a core a gang holds: what its image keeps (R186, R264). -/
def Core.partOf (c : Core) (g : GangId) : Core :=
  { Core.idle with
      slots := c.slots.filter fun x => x.2.owner.of g
      accs := c.accs.filter fun x => x.2.owner.of g
      tiles := c.tiles.filter fun x => x.2.owner.gang == g
      ctxs := c.ctxs.filter fun x => x.2.owner.gang == g
      copyQ := c.copyQ.filter fun x => x.wg.gang == g
      bulkQ := c.bulkQ.filter fun x => x.wg.gang == g
      mcastQ := (c.mcastQ.filter fun x => x.wg.gang == g).map fun x => { x with headAt := 0 }
      fences := c.fences.map fun f => (f.1, f.2.filter fun id => (c.copyQ ++ c.bulkQ ++ c.mcastQ).any fun x => x.id == id && x.wg.gang == g) }

/-- The save image of a workgroup (Table 14-5). -/
def State.imageBytes (s : State) (w : WgId) (drain : Bool) : Nat :=
  let h := s.header w.gang
  let c := (s.core (s.wg w).core).partOf w.gang
  let warps := s.warps.filter fun v => v.1.wg == w
  sumNat (warps.map fun v => warpBytes h.regs drain v.2) + 512 + 5640 * c.slots.length + 16900 * c.accs.length + 16 * c.tiles.length +
    16448 * c.ctxs.length + sumNat ((c.copyQ ++ c.bulkQ ++ c.mcastQ).map cmdBytes) + s.parkedBytes w + h.scratch

/-! ### Moving the homes of a workgroup's scratch (R217) -/

/-- A change of homes: the keys that move, where each goes, the range they go to. -/
structure Shift where
  holds : Nat → Bool
  place : Nat → Nat
  covers : Nat → Bool

/-- Where a key is after a move. -/
def Shift.at_ (m : Shift) (k : Nat) : Nat := if m.holds k then m.place k else k

/-- What a thread knows of homes follows them. -/
def Sync.shift (y : Sync) (m : Shift) : Sync :=
  { y with heard := y.heard.map fun h => { h with key := m.at_ h.key }
           races := (y.races.map m.at_).foldl nsInsert [] }

/-- A waiting lane, its stores and what it knows follow their homes. -/
def Thread.shift (t : Thread) (m : Shift) : Thread :=
  { t with
      sync := t.sync.shift m
      undo := { t.undo with sync := t.undo.sync.shift m }
      wait := match t.wait with
        | .barrier key phase pred next => .barrier (m.at_ key) phase pred next
        | w => w
      stores := t.stores.map fun st => { st with key := m.at_ st.key } }

/-- A command's barriers follow their homes. -/
def Cmd.shift (c : Cmd) (m : Shift) : Cmd :=
  { c with
      barKey := m.at_ c.barKey
      op := match c.op with
        | .copy size lanes => .copy size (lanes.map fun l => (l.1, l.2.1, l.2.2.1, m.at_ l.2.2.2))
        | o => o }

/-- The queues of a core follow their homes. -/
def Core.shift (c : Core) (m : Shift) : Core :=
  { c with copyQ := c.copyQ.map fun x => x.shift m
           bulkQ := c.bulkQ.map fun x => x.shift m
           mcastQ := c.mcastQ.map fun x => x.shift m
           matQ := c.matQ.map fun e => { e with op := { e.op with barKey := m.at_ e.op.barKey } } }

/-- The 8-byte words of a poisoned ECC word: of one of an image those it came from, until it is written (R231). -/
def State.poisonParts (s : State) (w : Nat) : List Nat :=
  if isHbm w then
    (match s.fine.filter fun x => x.1 == w with
     | [] => [0, 8, 16, 24].map fun o => w + o
     | l => l.map fun x => w + x.2)
  else [w]

/-- The homes of a range change at one instant: bytes, poison, tags, and all that names a home in it; nothing is left of what stood in the
range it goes to (R217). -/
def State.shift (s : State) (m : Shift) : State :=
  let s := s.zeroFill m.covers
  let parts := ((s.poison.filter m.holds).flatMap s.poisonParts).map m.place
  { s with
      mem := smSetAll memDefault (smFilter (fun k => !m.holds k) s.mem)
        ((smFilter m.holds s.mem).map fun c => (m.place c.1, c.2))
      poison := (parts.map eccBase).foldl nsInsert (s.poison.filter fun k => !m.holds k)
      fine := (s.fine.filter fun x => !m.holds x.1) ++ (parts.filter isHbm).map fun k => (eccBase k, k - eccBase k)
      tags := (s.tags.map m.at_).foldl nsInsert []
      past := s.past.map fun e => (m.at_ e.1, e.2)
      raced := (s.raced.map m.at_).foldl nsInsert []
      barSync := s.barSync.map fun e => (m.at_ e.1, e.2)
      warps := s.warps.map fun w =>
        (w.1, { w.2.mapThreads (fun _ t => t.shift m) with shadow := w.2.shadow.map fun sh => sh.map fun l => (l.1, l.2.shift m) })
      wgs := s.wgs.map fun w =>
        (w.1, { w.2 with k := w.2.k.map fun r => (r.1, { r.2 with op := r.2.op.map fun o => { o with barKey := m.at_ o.barKey } }) })
      cores := s.cores.map fun c => (c.1, c.2.shift m)
      gangs := s.gangs.map fun g => (g.1, { g.2 with cores := g.2.cores.map fun c => (c.1, c.2.shift m) }) }

/-- An access on its way has a home that moves. -/
def State.underWay (s : State) (m : Shift) : Bool := s.inFlight.any fun a => (natsFrom 0 a.size).any fun i => m.holds (a.key + i)

/-- A save writes the leaders only (R311). -/
def State.dropShadows (s : State) (w : WgId) : State :=
  { s with warps := s.warps.map fun v => (v.1, if v.1.wg = w then { v.2 with shadow := none, shadowMasks := [] } else v.2) }

/-- At resume each shadow of a paired launch is rebuilt from its leader (R311). -/
def State.rebuildShadows (s : State) (w : WgId) : State :=
  if (s.header w.gang).paired then
    { s with warps := s.warps.map fun v => (v.1, if v.1.wg = w then { v.2 with shadow := some v.2.lanes }.syncShadow else v.2) }
  else s

/-- A workgroup's scratch goes to the front of an image at a partition-physical address. -/
def State.toImage (s : State) (w : WgId) (q : Nat) : Shift :=
  let x := s.wg w
  let ports := (s.part w.gang.part).ports
  let n := (s.header w.gang).scratch
  ⟨inSlice x.core x.base n, fun k => (hbmKey ports (q + (k - keySram x.core x.base))).getD k, inHbm ports q n⟩

/-- A workgroup's scratch goes back to a core. -/
def State.fromImage (s : State) (w : WgId) (core base : Nat) : Shift :=
  let q := (s.wg w).base
  let ports := (s.part w.gang.part).ports
  let n := (s.header w.gang).scratch
  ⟨inHbm ports q n, fun k => keySram core base + (physHbm ports k - q), inSlice core base n⟩

/-! ### Saving -/

/-- The HBM lines that the save or the load of an image moves are counted (R352). -/
def State.countImage (s : State) (p n : Nat) : State := s.count p 0x06 (ceilDiv n 64)

/-- A core without what a gang held of it. -/
def Core.without (c : Core) (g : GangId) (now : Nat) : Core :=
  { c.release (fun w => w.of g) with
      copyQ := c.copyQ.filter fun x => !(x.wg.gang == g)
      bulkQ := c.bulkQ.filter fun x => !(x.wg.gang == g)
      mcastQ := stampHead now (c.mcastQ.filter fun x => !(x.wg.gang == g)) }

/-- A nap ends at a save (R93). -/
def Thread.endNap (t : Thread) : Thread :=
  match t.wait with
  | .nap _ _ next => { t with wait := .ready, pc := next }
  | .napTurn _ next => { t with wait := .ready, pc := next }
  | _ => t

/-- Change every thread of a gang. -/
def State.mapGang (s : State) (g : GangId) (f : Thread → Thread) : State :=
  s.mapThreads fun t th => if t.gang = g then f th else th

/-- Every unsealed span of a gang is rolled back (R83, Table 14-4). -/
def State.rollbackGang (s : State) (g : GangId) : State := (s.warpsOf g).foldl (fun acc w => acc.rollbackWarp w) s

/-- Accesses of a gang that a gate holds, or that wait behind one it holds (R337). -/
def State.gateBound (s : State) (g : GangId) : List Access := s.gateKept.filter fun a => a.gang == g

/-- Boundary instructions already issued are complete, results of committed spans have landed; what the gang sent is performed, or held at
a gate (Table 14-4). -/
def State.gangLanded (s : State) (g : GangId) : Bool :=
  let held := (s.gateBound g).map Access.id
  ((s.warpsOf g).all fun w => !(s.warp w).log.any LogEntry.boundary) &&
    ((s.threadsOf g).all fun t => (s.thread t).pends.all fun p => !p.committed || held.contains p.id) &&
    s.inFlight.all fun a => !(a.gang == g) || a.src == .device || held.contains a.id

/-- Frames for the images of a gang's workgroups, all or none (R229, R288; log entry 56). -/
def State.imagePlaces (s : State) (g : GangId) : List WgId → Option (State × List (WgId × Nat × Nat))
  | [] => some (s, [])
  | w :: ws =>
    let n := s.imageBytes w false
    match s.imageFrame g.part (ceilDiv n 65536) ((s.part g.part).homeDies (s.gang g).die) with
    | none => none
    | some (s1, u) =>
      match s1.imagePlaces g ws with
      | none => none
      | some (s2, ms) => some (s2, (w, 65536 * u, n) :: ms)

/-- An image is written behind its scratch: the layout of what else it holds is not laid down, so its bytes are free; what they stand for is
kept with the gang and its warps (Table 14-5; log entry 56). -/
def State.writeRest (s : State) (p q scratch total : Nat) : State :=
  let ports := (s.part p).ports
  let (x, s1) := (s.zeroFill (inHbm ports q total)).draw
  let cells := ((natsFrom (q + scratch) (total - scratch)).zip (natBytes (total - scratch) x)).filterMap fun b =>
    (hbmKey ports b.1).map fun k => (k, b.2)
  (({ s1 with mem := smSetAll memDefault s1.mem cells } : State)).countImage p total

/-- One workgroup is written to its image: its scratch moves, its core gives up what it held (R217, R288). -/
def State.saveWg (s : State) (m : WgId × Nat × Nat) : State :=
  let w := m.1
  let g := w.gang
  let x := s.wg w
  let kept := (s.core x.core).partOf g
  let s1 := ({ s with nextId := s.nextId + 1 }.modCore x.core fun c => c.without g s.nextId).modGang g fun q =>
    { q with cores := tbSet q.cores w.member kept }
  let s2 := (s1.writeRest g.part m.2.1 (s.header g).scratch m.2.2).shift (s1.toImage w m.2.1)
  (s2.dropShadows w).setWg w { s2.wg w with base := m.2.1, image := m.2.2 }

/-- The parked tiles of a gang leave the holding buffer (R264). -/
def State.takeParked (s : State) (g : GangId) : State :=
  let mine := s.dies.flatMap fun d => d.2.holding.filter fun p => p.gang == g
  { s.modGang g fun q => { q with parked := q.parked ++ mine } with
      dies := s.dies.map fun d => (d.1, { d.2 with holding := d.2.holding.filter fun p => !(p.gang == g) }) }

/-- Accesses a gate held are withdrawn, to be sent again at resume (R337). -/
def State.withdraw (s : State) (g : GangId) : State :=
  let held := s.gateBound g
  (s.dropAccesses (held.map Access.id)).modGang g fun q => { q with gated := held }

/-- The images are written to their frames, the cores and allocations are free (SAVING to SAVED). -/
def State.writeImage (s : State) (g : GangId) (ms : List (WgId × Nat × Nat)) : State :=
  let s1 := (((s.withdraw g).takeParked g).mapGang g Thread.endNap)
  let s2 := ms.foldl State.saveWg s1
  (s2.modGang g fun q => { q with state := .saved, savedDie := q.die }).ctxWake g 0

/-- The homes of a gang's scratch can move: nothing is on its way to them, and no open span of another gang holds a store to them (R217). -/
def State.scratchQuiet (s : State) (g : GangId) : Bool :=
  (!(s.wgsOf g).any fun w => s.underWay (s.toImage w 0)) && !s.storesInto (s.inGang g)

/-- No command of a gang stands in the middle of a COPY or of a walk tile (Table 13-4). -/
def State.enginesStand (s : State) (g : GangId) : Bool :=
  !s.cores.any fun c => c.2.cmds.any fun x => x.wg.gang == g && x.started

/-- SAVE_COMPLETE: the spans are rolled back at once; the image is written when posted rounds, tracker entries, started transfers, issued
instructions, committed results and stores to the scratch are done (R186, R217, R264, R280, Table 14-4), and its partition's HBM has
room (log entry 56). -/
def State.saveComplete (s : State) (g : GangId) : State :=
  if (s.gang g).state ≠ .saving then s
  else
    let s1 := s.rollbackGang g
    if s1.gangQuiet g && s1.enginesStand g && s1.gangLanded g && s1.scratchQuiet g then
      match s1.imagePlaces g (s1.wgsOf g) with
      | some (s2, ms) => s2.writeImage g ms
      | none => (s1.makeRoom g.part ((s1.part g.part).frameDie (s1.gang g).die) (s1.header g).prio []).1
    else s1

/-! ### Draining (R286) -/

/-- DRAIN_COMPLETE: every thread has stopped at a YIELD or is blocked. -/
def State.drainComplete (s : State) (g : GangId) : State :=
  if (s.gang g).state = .draining ∧ (s.launch g.part g.launch).ending.isNone ∧ (s.threadsOf g).all s.stopped then s.modGang g fun q => { q with state := .saving } else s

/-! ### Resuming -/

/-- A core can take what a gang's image keeps: its numbers are free, its queues have room (log entry 67). -/
def Core.canTake (c kept : Core) : Bool :=
  (kept.slots.all fun x => (tbGet c.slots x.1).isNone) && (kept.accs.all fun x => (tbGet c.accs x.1).isNone) &&
    (kept.tiles.all fun x => (tbGet c.tiles x.1).isNone) && (kept.ctxs.all fun x => (tbGet c.ctxs x.1).isNone) &&
    (natsFrom 0 3).all fun k => decide ((c.queue k).length + (kept.queue k).length ≤ queueSize k)

/-- A core takes what an image keeps, its queues behind its own entries. -/
def Core.take (c kept : Core) (now : Nat) : Core :=
  { c with
      slots := c.slots ++ kept.slots
      accs := c.accs ++ kept.accs
      tiles := c.tiles ++ kept.tiles
      ctxs := c.ctxs ++ kept.ctxs
      copyQ := c.copyQ ++ kept.copyQ
      bulkQ := c.bulkQ ++ kept.bulkQ
      mcastQ := stampHead now (c.mcastQ ++ kept.mcastQ)
      fences := kept.fences.foldl (fun acc f => tbSet acc f.1 (((tbGet acc f.1).getD []) ++ f.2)) c.fences }

/-- What the image of a member keeps of its core. -/
def Gang.keptOf (q : Gang) (m : Nat) : Core := (tbGet q.cores m).getD Core.idle

/-- The cores of a resuming gang can take what its image keeps. -/
def State.canRestore (s : State) (g : GangId) : Bool :=
  (s.wgsOf g).all fun w => (s.core (s.wg w).core).canTake ((s.gang g).keptOf w.member)

/-- One member's slots, tiles, contexts and queues are restored (R264). -/
def State.restoreWg (s : State) (w : WgId) : State :=
  { s with nextId := s.nextId + 1 }.modCore (s.wg w).core fun c => c.take ((s.gang w.gang).keptOf w.member) s.nextId

/-- A gang's slots, tiles, contexts and queues are restored before any of its threads issues (R264). -/
def State.restoreGang (s : State) (g : GangId) : State :=
  ((s.wgsOf g).foldl State.restoreWg s).modGang g fun q => { q with cores := [] }

/-- One workgroup leaves its image for a core: its scratch moves back, the image's frame is free (R217). -/
def State.loadWg (s : State) (w : WgId) (core : Nat) : State :=
  let base := (s.freeBase core (s.header w.gang).scratch).getD 0
  let slot := s.freeWgSlot core
  let s1 := ((s.shift (s.fromImage w core base)).countImage w.gang.part (s.wg w).image).giveFrame w.gang.part ((s.wg w).base / 65536)
  (s1.rebuildShadows w).setWg w { s1.wg w with core := core, slot := slot, base := base, image := 0, rate := ⟨s.clk, [], []⟩ }

/-- An access withdrawn from a gate is sent again, to where its page is now, and takes a new place in its paths (R228, R337). -/
def State.resend (s : State) (a : Access) : State :=
  let core := (tbGet (s.wgs.map fun w => (w.1, w.2.core)) (match a.src with
    | .thread t => t.warp.wg
    | .device => ⟨a.gang, 0⟩)).getD a.core
  let key :=
    if a.va < 2 ^ 55 then
      match s.walk a.gang.part a.va with
      | .leaf l => (s.leafKey a.gang.part (core / 64) l.entry l.size a.va).getD a.key
      | _ => a.key
    else a.key
  let a1 := { a with place := s.nextId, core := core, key := key, lane := s.laneOf a.gang.part key, heldSince := s.clk }
  { s with coreQ := s.coreQ ++ [a1], nextId := s.nextId + 1 }

/-- The Owl of a die sends another every cell whose value that one does not hold (R145, R249). -/
def State.sendLattice (s : State) (p src dest : Nat) : State :=
  (s.part p).regions.foldl
    (fun acc r =>
      (natsFrom 0 (r.2.size / cellWidth r.2.type)).foldl
        (fun a k =>
          let off := k * cellWidth r.2.type
          match a.replicaKey p src (r.2.base + off), a.replicaKey p dest (r.2.base + off) with
          | some x, some y =>
            let w := cellWidth r.2.type
            if aboveCell r.2.type (a.readNat y w) (a.readNat x w) && !anyPoison (a.readBytes x w) then a
            else a.sendCell p r.1 off src dest
          | _, _ => a) acc) s

/-- A gang resumes on another die behind a flush of every region (R145, R249). -/
def State.resumeFlush (s : State) (g : GangId) (die : Nat) : State :=
  let from_ := (s.gang g).savedDie
  if from_ = die ∨ (s.part g.part).regions = [] then s
  else
    let s1 := s.sendLattice g.part from_ die
    s1.modGang g fun q => { q with flush := (s1.deltas.filter fun d => decide (s.nextId ≤ d.id)).map Delta.id }

/-- A saved gang goes to RESUMING on a rectangle. -/
def State.resumeOn (s : State) (g : GangId) (top : Nat) : State :=
  let h := s.header g
  let s1 := ((natsFrom 0 h.e1).zip (rectCores h.gshape top)).foldl (fun acc m => acc.loadWg ⟨g, m.1⟩ m.2) s
  let s2 := (sortBy (fun a b => decide (a.place < b.place)) (s.gang g).gated).foldl State.resend s1
  ((s2.modGang g fun q => { q with state := .resuming, die := top / 64, topCore := top, gated := [] }).resumeFlush g (top / 64)).unreserve g

/-- The gangs that resume with a gang: every saved one of a cooperative launch (R287). -/
def State.resumesWith (s : State) (g : GangId) : List GangId :=
  if (s.header g).cooperative then (s.gangsOf g.part g.launch).filter fun x => (s.gang x).state == .saved else [g]

/-- No gang of a cooperative launch is still on its way to SAVED (R287). -/
def State.matesStand (s : State) (g : GangId) : Bool :=
  !(s.header g).cooperative || (s.gangsOf g.part g.launch).all fun x => (s.gang x).state != .draining && (s.gang x).state != .saving

/-- All of them find a rectangle, or none resumes. -/
def State.resumeAll (s : State) : List GangId → Option State
  | [] => some s
  | g :: gs =>
    match s.resumeRect g with
    | some top => (s.resumeOn g top).resumeAll gs
    | none => none

/-- The gang stands at the head of what may take cores: no saved gang of a higher priority and nothing of a higher priority in the queues
has a rectangle, and no cooperative launch of one waits to be placed whole (R267, R271). -/
def State.mayResume (s : State) (g : GangId) : Bool :=
  let prio := (s.header g).prio
  s.places g.part && !(s.gang g).held && (s.launch g.part g.launch).ending.isNone && s.matesStand g &&
    !s.resumeFirst g.part (prio + 1) &&
    (s.part g.part).queue.all fun x =>
      decide (x.l.hdr.prio ≤ prio) ||
        (!x.l.hdr.cooperative && !s.anyReports (firstGang g.part x.no ((s.part g.part).nextGangs x)) x.l.hdr)

/-- No access is on its way to the image of the gang (R217). -/
def State.imageQuiet (s : State) (g : GangId) : Bool := !(s.wgsOf g).any fun w => s.underWay (s.fromImage w 0 0)

/-- A word of the gang's image is uncorrectable: struck, or of a failed stack (R232, R369). -/
def State.imageDead (s : State) (g : GangId) : Bool :=
  (s.badStacks != [] || s.struck != []) && (s.wgsOf g).any fun w =>
    (natsFrom 0 (ceilDiv (s.wg w).image 32)).any fun i =>
      match hbmKey (s.part g.part).ports ((s.wg w).base + 32 * i) with
      | some key => s.deadWord key || s.struck.contains (eccBase key)
      | none => false

/-- The die a gang was saved from is lost: the gang is one of a lost die (R249). -/
def State.lostImage (s : State) (g : GangId) : Bool := (s.die (s.gang g).savedDie).fenced

/-- The images of gangs are read back: the first that has an uncorrectable word faults its gang, else all resume or none does. -/
def State.readImages (s : State) (gs : List GangId) : State :=
  match s.resumeAll gs, firstWhere s.imageDead gs with
  | none, _ => s
  | some _, some g => s.gangFault g 0x1B { core := (s.gang g).topCore }
  | some s1, none => s1

/-- GANG_RESUME (R273). -/
def State.gangResume (s : State) (g : GangId) : State :=
  if (s.gang g).state ≠ .saved then s
  else if s.lostImage g then (if g.isRoot then s.restartRoot g.part else s.loseGang (s.gang g).savedDie g)
  else if !s.mayResume g then s
  else
    let gs := s.resumesWith g
    if gs.all fun x => !(s.gang x).held && s.imageQuiet x then s.readImages gs else s

/-- A drained lane goes on behind its YIELD; a lane parked at a cell looks at its die's replica (R242, R285). -/
def State.wakeLane (s : State) (t : ThreadId) (th : Thread) : Thread :=
  match th.wait with
  | .drained next => { th with wait := .ready, pc := next }
  | .ldlt _ va key _ _ _ _ =>
    match (s.part t.gang.part).regionAt va with
    | some r =>
      let w := cellWidth r.2.type
      th.ldltTest key r.2.type (s.readNat key w) (anyPoison (s.readBytes key w))
    | none => th
  | _ => th

/-- A resuming gang has merged what it waits for (R145). -/
def State.flushed (s : State) (g : GangId) : Bool := !(s.deltas.any fun d => (s.gang g).flush.contains d.id)

/-- The cells that lanes of a gang wait for on its die, by key and width. -/
def State.ldltCells (s : State) (g : GangId) : List (Nat × Nat) :=
  distinct ((s.threadsOf g).filterMap fun t =>
    match (s.thread t).wait with
    | .ldlt _ va key _ _ _ _ => some (key, cellWidth ((((s.part g.part).regionAt va).map fun r => r.2.type).getD 0))
    | _ => none)

/-- The lanes of a gang that wait for a cell wait for that of the gang's die. -/
def State.turnLdlt (s : State) (g : GangId) : State :=
  s.mapThreads fun t th =>
    if t.gang ≠ g then th
    else
      match th.wait with
      | .ldlt x va key thr left since next =>
        { th with wait := .ldlt x va ((s.replicaKey g.part (s.dieOf t.warp) va).getD key) thr left since next }
      | _ => th

/-- A resumed gang runs: its lanes look at their cells (R145). On another die, where other homes stand for the cells it has read, it takes
no older values than these hold (R145, R203). -/
def State.runAgain (s : State) (g : GangId) : State :=
  let s1 := (s.restoreGang g).turnLdlt g
  let moved := (s.gang g).savedDie ≠ (s.gang g).die
  let s2 := s1.mapThreads fun t th =>
    if t.gang = g then s1.wakeLane t (if moved then th.learn [⟨.all, s.nextId⟩] else th) else th
  ((s1.ldltCells g).foldl (fun acc k => acc.ldltReads s1 k.1 k.2) s2).modGang g fun q => { q with state := .running, flush := [] }

/-- The gangs of a list run again, each once its cores can take what its image keeps; all of them or none (R287). -/
def State.runAll (s : State) : List GangId → Option State
  | [] => some s
  | g :: gs => if s.canRestore g then (s.runAgain g).runAll gs else none

/-- RESUME_COMPLETE; the gangs of a cooperative launch run together (R273, R287). -/
def State.resumeComplete (s : State) (g : GangId) : State :=
  let gs := if (s.header g).cooperative then (s.gangsOf g.part g.launch).filter fun x => (s.gang x).state == .resuming else [g]
  if (s.gang g).state = .resuming ∧ gs.all s.flushed then (s.runAll gs).getD s else s

/-- DRAIN_COMPLETE (R286). -/
def execDrainComplete (g : GangId) (s : State) : Host.Outcome State Fault Refusal := .next (s.drainComplete g)

/-- SAVE_COMPLETE (R273). -/
def execSaveComplete (g : GangId) (s : State) : Host.Outcome State Fault Refusal := .next (s.saveComplete g)

/-- GANG_RESUME (R273). -/
def execGangResume (g : GangId) (s : State) : Host.Outcome State Fault Refusal := .next (s.gangResume g)

/-- RESUME_COMPLETE (R273). -/
def execResumeComplete (g : GangId) (s : State) : Host.Outcome State Fault Refusal := .next (s.resumeComplete g)

end Sys2Proof.Machine
end

