-- ==== Sys2Proof/Machine/Preempt.lean ====
section
/-! DEFINITION. Pre-emption: the rectangle, the victims and what each chooses; how the device keeps a REPLAY launch moving (spec/14
R281 to R288; spec/16 R338). -/

namespace Sys2Proof.Machine

/-! ### The waiting gang (R267, R282) -/

/-- The budget of the deadline register (Table 14-3). -/
def Part.deadlineBudget (q : Part) : Nat := natBits (q.reg 1) 31 0

/-- The least difference of priority; 0 acts as 1. -/
def Part.gap (q : Part) : Nat := max 1 (natBits (q.reg 1) 47 40)

/-- A gang that waits for cores, with its launch's header. -/
structure Waiting where
  gang : GangId
  hdr : Header
deriving DecidableEq, Repr

/-- The saved gangs of a partition that may resume. -/
def State.savedGangs (s : State) (p : Nat) : List Waiting :=
  s.gangs.filterMap fun g =>
    if g.1.part = p ∧ g.2.state = .saved ∧ !g.2.held ∧ (s.launch p g.1.launch).ending.isNone then
      some ⟨g.1, s.header g.1⟩
    else none

/-- The saved gang that stands first: by priority. -/
def State.firstSaved (s : State) (p : Nat) : Option Waiting := leastBy (fun a b => decide (b.hdr.prio < a.hdr.prio)) (s.savedGangs p)

/-- The gang at a place of the queues: of a cooperative launch, the first without a rectangle kept for it. -/
def State.launchWaits (s : State) (p : Nat) (x : Queued) : Waiting :=
  let gs := if x.l.hdr.cooperative then (s.part p).restGangs x.l else (s.part p).nextGangs x
  let free := gs.filter fun k => !s.dies.any fun d => d.2.reserved.any fun r => r.2.2 == ⟨p, x.no, k⟩
  ⟨⟨p, x.no, (if x.l.hdr.cooperative then free else gs).headD 0⟩, x.l.hdr⟩

/-- The gang at the head of a partition's queues; saved gangs stand first at their priority (R267). -/
def State.headGang (s : State) (p : Nat) : Option Waiting :=
  match s.firstSaved p, (s.part p).queue with
  | some w, x :: _ => if x.l.hdr.prio ≤ w.hdr.prio then some w else some (s.launchWaits p x)
  | some w, [] => some w
  | none, x :: _ => some (s.launchWaits p x)
  | none, [] => none

/-- The gang has no free rectangle; a cooperative launch has not room for all its gangs. -/
def State.noRect (s : State) (w : Waiting) : Bool :=
  if (s.gang w.gang).state = .saved then (s.resumeRect w.gang).isNone
  else if w.hdr.cooperative then
    (s.placeWhole w.gang.part w.gang.launch (s.launch w.gang.part w.gang.launch)).isNone
  else !s.anyReports w.gang w.hdr

/-- Two gangs wait as one: they are one, or of one cooperative launch, which is placed whole (R271). -/
def Waiting.is (w : Waiting) (g : GangId) : Bool :=
  w.gang == g || (w.hdr.cooperative && w.gang.part == g.part && w.gang.launch == g.launch)

/-- The gang at the head of a partition's queues that has no free rectangle now, and since when it has had none. -/
def State.starvedNow (s : State) (p : Nat) : Option (GangId × Nat) :=
  match s.headGang p with
  | none => none
  | some w =>
    if !s.noRect w then none
    else
      match (s.part p).starved with
      | some (g, since) => if w.is g then some (w.gang, since) else some (w.gang, s.clk)
      | none => some (w.gang, s.clk)

/-- The heads of the queues are looked at before time passes, where a budget is set (R282). -/
def State.watchHeads (s : State) : State :=
  { s with parts := s.parts.map fun q =>
      (q.1, if q.2.deadlineBudget = 0 then q.2 else { q.2 with starved := s.starvedNow q.1 }) }

/-- The gang has waited 1,024 clk without a free rectangle. -/
def State.hasWaited (s : State) (w : Waiting) : Bool :=
  match (s.part w.gang.part).starved with
  | some (g, since) => w.is g && decide (since + 1024 ≤ s.clk)
  | none => false

/-! ### The rectangle (R282) -/

/-- The gangs with a member on a core. -/
def State.gangsOn (s : State) (core : Nat) : List GangId := (s.wgsOn core).map fun w => w.1.gang

/-- The gangs of a rectangle. -/
def State.gangsIn (s : State) (cores : List Nat) : List GangId := distinct (cores.flatMap s.gangsOn)

/-- The victims: those of a cooperative launch bring the others of their launch. -/
def State.victims (s : State) (cores : List Nat) : List GangId :=
  distinct ((s.gangsIn cores).flatMap fun g =>
    if (s.header g).cooperative then (s.gangsOf g.part g.launch).filter fun x => (s.gang x).state.resident else [g])

/-- A gang that pre-emption may stop: it runs, and its launch has not ended (R98, R282). -/
def State.mayStop (s : State) (g : GangId) : Bool := (s.gang g).state == .running && (s.launch g.part g.launch).ending.isNone

/-- A rectangle the gang may have freed: the partition's, kept for no other gang, with gangs on it, all of them RUNNING and low enough. -/
def State.qualifies (s : State) (w : Waiting) (top : Nat) : Bool :=
  let p := w.gang.part
  let cores := rectCores w.hdr.gshape top
  let gs := s.gangsIn cores
  (cores.all fun c => (s.part p).hasCore c && !(s.die (c / 64)).fenced) && !s.reservedFor p w.gang cores && gs != [] &&
    gs.all fun g => !g.isRoot && s.mayStop g && decide ((s.header g).prio + (s.part p).gap ≤ w.hdr.prio)

/-- The order of R282: the highest victim priority, the number of victims, the die, the top-left core. -/
def State.rectBefore (s : State) (gshape a b : Nat) : Bool :=
  let va := s.victims (rectCores gshape a)
  let vb := s.victims (rectCores gshape b)
  let pa := maxNat (va.map fun g => (s.header g).prio)
  let pb := maxNat (vb.map fun g => (s.header g).prio)
  if pa ≠ pb then decide (pa < pb) else if va.length ≠ vb.length then decide (va.length < vb.length) else decide (a < b)

/-- The rectangle the master chooses. -/
def State.chooseVictims (s : State) (w : Waiting) : Option Nat :=
  leastBy (s.rectBefore w.hdr.gshape) (((natsFrom 0 4).flatMap (alignedTops w.hdr.gshape)).filter (s.qualifies w))

/-! ### Estimates (R283, R288) -/

/-- The choices, in the order of preference of a tie. -/
inductive Choice where
  | drain
  | save
  | discard
deriving DecidableEq, Repr

/-- The largest image over the gang's cores. -/
def State.maxImage (s : State) (g : GangId) (drain : Bool) : Nat := maxNat ((s.wgsOf g).map fun w => s.imageBytes w drain)

/-- The largest remaining deadline of the threads that are not blocked. -/
def State.dmax (s : State) (g : GangId) : Nat :=
  maxNat ((s.threadsOf g).map fun t => let th := s.thread t; if s.stopped t then 0 else th.deadline - th.wd)

/-- Instructions issued in the last 65,536 clk. -/
def Rate.issued (r : Rate) (clk : Nat) : Nat :=
  sumNat (((r.now ++ r.before).filter fun e => decide (clk < e.1 + 65536)).map Prod.snd)

/-- cpi of a workgroup in 1/16 clk: 16 when nothing was issued, 1 to 4,095 (R283; rounded down, log entry 12). -/
def Rate.cpi (r : Rate) (clk : Nat) : Nat := if r.issued clk = 0 then 16 else max 1 (min 4095 (1048576 / r.issued clk))

/-- The largest cpi over a gang's cores. -/
def State.cpi (s : State) (g : GangId) : Nat := maxNat ((s.wgsOf g).map fun w => (s.wg w).rate.cpi s.clk)

/-- T and C of a choice (R283). -/
def State.estimate (s : State) (g : GangId) (c : Choice) : Nat × Nat :=
  match c with
  | .drain =>
    let t := ceilDiv (s.dmax g * s.cpi g) 16 + ceilDiv (s.maxImage g true) 142 + 128
    (t, t)
  | .save =>
    let t := ceilDiv (s.maxImage g false) 142 + 128
    (t, t)
  | .discard => (256, (s.gang g).runClk)

/-- The choices a gang may take (R283). -/
def State.legalChoices (s : State) (g : GangId) : List Choice :=
  if (s.gang g).clean ∨ (s.part g.part).mode = 1 then [.drain, .save, .discard] else [.drain, .save]

/-- What a gang chooses (R284). -/
def State.choose (s : State) (g : GangId) (budget : Nat) : Choice :=
  let all := (s.legalChoices g).map fun c => (c, s.estimate g c)
  let meets := all.filter fun c => decide (c.2.1 ≤ budget)
  match leastBy (fun a b => decide (a.2.2 < b.2.2)) meets with
  | some c => c.1
  | none => ((leastBy (fun a b => decide (a.2.1 < b.2.1)) all).map Prod.fst).getD .save

/-! ### PREEMPTION_START -/

/-- A victim acts on its choice (Table 14-4). -/
def State.preempt (s : State) (g : GangId) (c : Choice) : State :=
  if !s.mayStop g then s
  else
    let s1 := s.count g.part 0x0C 1
    match c with
    | .drain => s1.modGang g fun q => { q with state := .draining }
    | .save => s1.modGang g fun q => { q with state := .saving }
    | .discard => s1.discardGang g

/-- One victim decides and acts; the gangs of a cooperative launch as the one with the largest T_save does (R284). -/
def State.preemptOne (s : State) (budget : Nat) (g : GangId) : State :=
  let mates := if (s.header g).cooperative then (s.gangsOf g.part g.launch).filter fun x => (s.gang x).state == .running else [g]
  let judge := (leastBy (fun a b => decide (s.maxImage b false < s.maxImage a false)) mates).getD g
  let c := s.choose judge budget
  mates.foldl (fun acc x => acc.preempt x c) s

/-- A rectangle is kept for a gang. -/
def State.reserve (s : State) (g : GangId) (cores : List Nat) : State :=
  s.modDie (cores.headD 0 / 64) fun d => { d with reserved := d.reserved ++ [(g.part, cores, g)] }

/-- A rectangle is kept for a gang already. -/
def State.isReserved (s : State) (g : GangId) : Bool := s.dies.any fun d => d.2.reserved.any fun r => r.2.2 == g

/-- PREEMPTION_START (R282): the head gang has waited 1,024 clk without a rectangle. -/
def State.preemptStart (s : State) (p : Nat) : State :=
  let budget := (s.part p).deadlineBudget
  if budget = 0 ∨ !s.places p then s
  else
    match s.headGang p with
    | none => s
    | some w =>
      if !s.hasWaited w ∨ s.isReserved w.gang ∨ !s.noRect w then s
      else
        match s.chooseVictims w with
        | none => s
        | some top =>
          let cores := rectCores w.hdr.gshape top
          (s.victims cores).foldl (fun acc g => acc.preemptOne budget g) (s.reserve w.gang cores)

/-! ### REPLAY (R338) -/

/-- The accesses of a launch that gates hold, oldest first. -/
def State.heldOf (s : State) (p n : Nat) : List Access := s.gateQ.filter fun a => a.gang.part == p && a.gang.launch == n

/-- The gang that heads the list of a word. -/
def State.headNamed (s : State) (a : Access) : Option GangId :=
  ((s.gateList a.gang a.va).head?).map fun h => ⟨a.gang.part, a.gang.launch, h.1⟩

/-- The gang waits for cores: QUEUED or SAVED. -/
def State.waitsCores (s : State) (g : GangId) : Bool := (s.gang g).state == .queued || (s.gang g).state == .saved

/-- The rectangle kept for a gang, by its top-left core. -/
def State.keptRect (s : State) (g : GangId) : Option Nat :=
  (s.dies.flatMap fun d => d.2.reserved.filterMap fun r => if r.2.2 = g then r.2.1.head? else none).head?

/-- The gang whose access has been held longest is pre-empted by save; one whose lanes only wait at EXIT for held accesses as well: these
could not be admitted otherwise (R338; log entry 21). -/
def State.saveHolder (s : State) (g : GangId) : State :=
  if (s.gang g).state = .retiring ∧ (s.launch g.part g.launch).ending.isNone then
    (s.count g.part 0x0C 1).modGang g fun q => { q with state := .saving }
  else s.preempt g .save

/-- REPLAY_GATE_TIMEOUT (R338): an access held for 65,536 clk whose word names a gang without cores; the gang whose access has been
held longest gives up its rectangle. -/
def State.gateTimeout (s : State) (id : Nat) : State :=
  match firstWhere (fun a => a.id == id) s.gateQ with
  | none => s
  | some a =>
    match s.headNamed a with
    | none => s
    | some g =>
      if s.clk < a.heldSince + 65536 ∨ !s.waitsCores g ∨ (s.launch g.part g.launch).ending.isSome ∨ (s.header g).gangs ≤ g.gang then s
      else
        match s.keptRect g with
        | some top => s.placeNamed g top
        | none =>
          if !s.noRect ⟨g, s.header g⟩ then s
          else
            match (s.heldOf g.part g.launch).head? with
            | none => s
            | some old => (s.reserve g (rectCores (s.header g).gshape (s.gang old.gang).topCore)).saveHolder old.gang

/-- The instruction waits for what its lane has sent (R147, R152, R99). -/
def waitsSent (i : Instr) : Bool :=
  match i with
  | .fence _ => true
  | .bararr _ => true
  | .launch _ => true
  | .wsync _ => true
  | .gsync _ => true
  | _ => false

/-- An access of a thread is held at a gate, or stands behind one that is. -/
def State.gateHolds (s : State) (t : ThreadId) : Bool := s.gateKept.any fun a => a.src == .thread t

/-- The group a ready lane would issue with waits for a held access: on the scoreboard, or at its next instruction (R338). -/
def State.gateStops (s : State) (t : ThreadId) : Bool :=
  let w := s.warp t.warp
  let g := w.cur.getD ⟨[t.lane], (s.thread t).pc, (s.thread t).pc, 0, .run, [], none, none, 0⟩
  match (match g.held with
    | some i => Decoded.instr i
    | none => (s.decodeAt t.warp g).2) with
  | .instr i =>
    (w.scoreboard g i || w.slowBusy g || ((i.form.boundary || decide (24 ≤ g.count)) && !w.landed g.lanes) || waitsSent i) &&
      g.lanes.any fun l => s.gateHolds ⟨t.warp, l⟩
  | _ => false

/-- A lane goes on only once a held access is admitted, or not at all. -/
def State.laneStuck (s : State) (t : ThreadId) : Bool :=
  match (s.thread t).wait with
  | .ready => s.gateStops t || s.blocked t
  | .exitWait => s.gateHolds t
  | _ => s.blocked t

/-- No gang of a launch awaits placement. -/
def State.nonePlacing (s : State) (p n : Nat) : Bool :=
  !(s.launch p n).unhanded && (s.dies.all fun d => !d.2.handed.any fun h => h.part == p && h.launch == n && h.gangs != []) &&
    (s.gangsOf p n).all fun g => (s.gang g).state != .queued

/-- Take one count from a gang's first pair of a list. -/
def takeCountOf (gang : Nat) : List (Nat × Nat) → List (Nat × Nat)
  | [] => []
  | (g, n) :: rest => if g = gang then (if n ≤ 1 then rest else (g, n - 1) :: rest) else (g, n) :: takeCountOf gang rest

/-- An access is admitted out of turn (R338), then those held that the list now names. -/
def State.admitAny (s : State) (a : Access) : State :=
  let s1 := ((s.setGateList a.gang a.va (takeCountOf a.gang.gang (s.gateList a.gang a.va))).markDivergent a.gang).performNow a
  match s1.nextHeld a.gang a.va with
  | some b => s1.letIn b s1.gateQ.length
  | none => s1

/-- REPLAY_STUCK_ADMIT (R338): every gang of the launch is stuck. -/
def State.stuckAdmit (s : State) (p n : Nat) : State :=
  match (s.heldOf p n).head? with
  | none => s
  | some a =>
    let gs := (s.gangsOf p n).filter fun g => (s.gang g).state.resident
    if (s.part p).mode = 3 ∧ s.nonePlacing p n ∧ gs.all fun g => (s.threadsOf g).all s.laneStuck then s.admitAny a else s

/-- PREEMPTION_START (R282). -/
def execPreemptionStart (part : Nat) (s : State) : Host.Outcome State Fault Refusal := .next (s.preemptStart part)

/-- REPLAY_GATE_TIMEOUT (R338). -/
def execReplayGateTimeout (id : Nat) (s : State) : Host.Outcome State Fault Refusal := .next (s.gateTimeout id)

/-- REPLAY_STUCK_ADMIT (R338). -/
def execReplayStuckAdmit (part launch : Nat) (s : State) : Host.Outcome State Fault Refusal := .next (s.stuckAdmit part launch)

end Sys2Proof.Machine
end

