-- ==== Sys2Proof/Machine/Links.lean ====
section
/-! DEFINITION. Xouth links, peers, Ethernet, and the engines that move data for partitions (spec/17 R350, R351; spec/18 R362 to
R366). -/

namespace Sys2Proof.Machine

/-! ### Slices and budgets (R350, R351) -/

/-- The code of an engine. -/
def engineCode (e : DmaEngine) : Nat :=
  match e with
  | .host => 0
  | .xouth => 1
  | .ethernet => 2

/-- Who asked for the bytes still waits for them. -/
def State.wants (s : State) (q : Part) (x : Slice) : Bool :=
  match x.owner with
  | .access id => s.inFlight.any fun a => a.id == id
  | .cmd id _ => s.cores.any fun c => c.2.hasWork id
  | .page va => (q.settles.any fun y => y.va == va) || q.evicts.any fun y => y.va == va
  | .read t _ => (s.warp t.warp).cur.isSome
  | .fetch t _ => (s.warp t.warp).cur.isSome
  | .device va => q.held.any fun o => o.va == va
  | .merge n _ => (tbGet q.launches n).any fun l => !l.merged && l.ending.isNone

/-- The bytes of a partition that wait for an engine. -/
def State.waitingSlices (s : State) (p e : Nat) : List Slice :=
  let q := s.part p
  if q.budget ≤ 0 then [] else q.slices.filter fun x => x.engine == e && x.bytes != 0 && s.wants q x

/-- The slice of a partition that comes first: by priority. -/
def State.firstSlice (s : State) (p e : Nat) : Option Slice := leastBy (fun a b => decide (b.prio < a.prio)) (s.waitingSlices p e)

/-- Partitions after the one an engine served last come first. -/
def afterServed (last p : Nat) : Nat := if last < p then p else p + 16

/-- The partition and slice an engine starts next: by priority, by remaining budget, by number after the last served (R350). -/
def State.nextSlice (s : State) (e : Nat) : Option (Nat × Slice) :=
  let last := (tbGet s.served e).getD 15
  leastBy
    (fun a b =>
      let ba := (s.part a.1).budget
      let bb := (s.part b.1).budget
      if a.2.prio ≠ b.2.prio then decide (b.2.prio < a.2.prio)
      else if ba ≠ bb then decide (bb < ba)
      else decide (afterServed last a.1 < afterServed last b.1))
    ((tbKeys s.parts).filterMap fun p => (s.firstSlice p e).map fun x => (p, x))

/-- A budget that is never deducted (R351). -/
def Part.unlimited (q : Part) : Bool := q.grant == 0xFFFFFFFF

/-- ENGINE_SLICE_START (R350): at most 64 KiB of the first that waits; its units are deducted and counted. -/
def State.sliceStart (s : State) (e : Nat) : State :=
  match s.nextSlice e with
  | none => s
  | some (p, x) =>
    let n := min 65536 x.bytes
    let units := ceilDiv n 4096
    let q := s.part p
    let s1 := s.setPart p
      { q with
          budget := if q.unlimited then q.budget else q.budget - (units : Int)
          slices := q.slices.map fun y => if y.owner = x.owner then { y with bytes := y.bytes - n } else y }
    let s2 := if q.unlimited then s1 else s1.count p 0x0B units
    let s3 := { s2 with served := tbSet s2.served e p }
    match x.owner with
    | .device _ => s3.flushHeld p ((s3.part p).held.length)
    | _ => s3

/-- A millisecond of device time in clk (R1). -/
def clkPerMs : Nat := 1050000

/-- BUDGET_REFILL (R351): at each millisecond of device time every partition's grant is register 0x02, and its budget rises by it, up to
it. -/
def State.budgetRefill (s : State) : State :=
  if s.clk < (s.refills + 1) * clkPerMs then s
  else
    { s with
        refills := s.refills + 1
        parts := s.parts.map fun q => (q.1, { q.2 with grant := q.2.reg 2, budget := min (q.2.budget + (q.2.reg 2 : Int)) (q.2.reg 2 : Int) }) }

/-! ### Links (R362, R365) -/

/-- A ready bit falls, and does not rise again (R369). -/
def State.clearReady (s : State) (bit : Nat) : State :=
  if s.isReady bit then
    { s with missed := nsInsert s.missed bit }.setReady (s.ready &&& ~~~(BitVec.ofNat 128 (2 ^ bit)))
  else s

/-- LINK_RETRY_FAILURE (R365). -/
def State.linkFails (s : State) (link : Nat) : State := if link < 24 then s.clearReady (48 + link) else s

/-- A request to a peer has seen no acknowledgement for 1 s (R365). -/
def State.peerSilent (s : State) (dev : Nat) : Bool :=
  (s.coreQ ++ s.dieQ).any fun a => decide (2 ^ 80 ≤ a.key) && peerOf a.key == dev && decide (a.heldSince + 1050000000 ≤ s.clk)

/-- PEER_UNREACHABLE_TIMEOUT (R365). -/
def State.peerTimeout (s : State) (dev : Nat) : State := if s.peerSilent dev then { s with unreachable := nsInsert s.unreachable dev } else s

/-! ### The peer route table (R363) -/

/-- The fields of a route entry that may be other than zero. -/
def routeMask : BitVec 256 := BitVec.ofNat 256 (2 ^ 256 - 2 ^ 128 + 2 ^ 34 - 1)

/-- PEER_ROUTE_WRITE (R363): the peer has the routes of its new entry. -/
def State.routeWrite (s : State) (dev : Nat) (entry : BitVec 256) : State :=
  if dev < 256 then { s with peers := smSet 0 s.peers dev (entry &&& routeMask), unreachable := nsErase s.unreachable dev } else s

/-! ### Requests of peers (R364) -/

/-- A valid grant of a partition names a device and a partition of it (Table 17-3). -/
def Part.grants (q : Part) (dev part : Nat) : Bool :=
  (natsFrom 0 8).any fun g =>
    let v := q.reg (0x40 + g)
    natBit v 24 && natBits v 23 16 == dev && natBits v 11 8 == part

/-- The homes of the bytes a request names, none where one is not backed. -/
def State.peerHomes (s : State) (p pa n : Nat) : Option (List Nat) :=
  let keys := (natsFrom pa n).filterMap (hbmKey (s.part p).ports)
  if keys.length = n then some keys else none

/-- A peer writes bytes: an outside write of a MERGE launch (R325). -/
def State.peerWrite (s : State) (p : Nat) (keys : List Nat) (bs : List PByte) : State :=
  (runsAt (keys.zip bs)).foldl (fun acc r => (acc.keepSnapshot p r.1 r.2.length).putBytes r.1 r.2) s

/-- The bytes at homes. -/
def State.peerRead (s : State) (keys : List Nat) : List PByte := keys.map fun k => ⟨s.byteAt k, s.poisonAt k⟩

/-- The access of a peer's atomic. -/
def peerAtomic (o : PeerOp) (len : Nat) : Option (Nat × AccOp) :=
  match o with
  | .atom op ty v => some (atomBytes op ty, .atom op ty v false true)
  | .cas c n => some (len, .cas c n false false)
  | _ => none

/-- A granted request is performed at its homes, and answered. -/
def State.peerPerform (s : State) (r : PeerRequest) (keys : List Nat) : State :=
  let s1 := s.count r.target 0x06 (distinct (keys.map fun k => k / 64)).length
  match r.op with
  | .write bs => { s1.peerWrite r.target keys ((bs.take keys.length).map fun b => ⟨b, false⟩) with reply := [] }
  | .read =>
    let bs := s1.peerRead keys
    { s1.countPoison r.target bs with reply := bs }
  | o =>
    match peerAtomic o r.len with
    | none => s1
    | some (n, op) =>
      let bs := s1.peerRead keys
      let s2 :=
        match atomApply op (natOfBytes (bs.map PByte.v)) (anyPoison bs) with
        | some (v, bad) => s1.peerWrite r.target keys ((natBytes n v).map fun b => ⟨b, bad⟩)
        | none => s1
      { s2.countPoison r.target bs with reply := bs }

/-- A request that no grant allows: a read is answered with poison, a write is discarded, and it is counted. -/
def State.peerDenied (s : State) (r : PeerRequest) : State :=
  { s.countError with
      reply := match r.op with
        | .write _ => []
        | _ => (natsFrom 0 r.len).map fun _ => ⟨0, true⟩ }

/-- The next sequence number of a source's lane (R364). -/
def State.nextSeq (s : State) (dev lane : Nat) : Nat := (tbGet s.peerSeq (dev, lane)).getD 0

/-- Some link or Ethernet port is up, its key agreed: none carries traffic before (R362, R366). -/
def State.anyPort (s : State) : Bool := (natsFrom 48 24).any s.isReady || (natsFrom 72 4).any s.isReady

/-- PEER_REQUEST_RECEIVE (R363, R364): in sequence order, where a grant allows it; none comes before a link or a port is up (R362). -/
def State.peerReceive (s : State) (r : PeerRequest) : State :=
  if !s.anyPort then s
  else if r.device = s.devid then s.countError
  else if r.seq ≠ s.nextSeq r.device r.lane then s
  else
    let s1 := { s with peerSeq := tbSet s.peerSeq (r.device, r.lane) ((r.seq + 1) % 2 ^ 32) }
    if !s.hasPart r.target || !(s.part r.target).grants r.device r.part then s1.peerDenied r
    else
      match s.peerHomes r.target r.pa r.len with
      | some keys => s1.peerPerform r keys
      | none => s1.peerDenied r

/-- ENGINE_SLICE_START (R350). -/
def execEngineSliceStart (engine : DmaEngine) (s : State) : Host.Outcome State Fault Refusal := .next (s.sliceStart (engineCode engine))

/-- BUDGET_REFILL (R351). -/
def execBudgetRefill (s : State) : Host.Outcome State Fault Refusal := .next s.budgetRefill

/-- LINK_RETRY_FAILURE (R365). -/
def execLinkRetryFailure (link : Nat) (s : State) : Host.Outcome State Fault Refusal := .next (s.linkFails link)

/-- PEER_UNREACHABLE_TIMEOUT (R365). -/
def execPeerUnreachableTimeout (device : Nat) (s : State) : Host.Outcome State Fault Refusal := .next (s.peerTimeout device)

/-- PEER_REQUEST_RECEIVE (R364). -/
def execPeerRequestReceive (req : PeerRequest) (s : State) : Host.Outcome State Fault Refusal := .next (s.peerReceive req)

/-- ETHERNET_RETRANSMIT (R366): lost flits are sent again; the order and the effect of what they carry are R364's. -/
def execEthernetRetransmit (_ : Nat) (s : State) : Host.Outcome State Fault Refusal := .next s

/-- PEER_ROUTE_WRITE (R363). -/
def execPeerRouteWrite (device : Nat) (entry : BitVec 256) (s : State) : Host.Outcome State Fault Refusal :=
  .next (s.routeWrite device entry)

end Sys2Proof.Machine
end

