-- ==== Sys2Proof/Machine/Power.lean ====
section
/-! DEFINITION. Power, start-up, failures of functions, heat (spec/18 R367 to R371). -/

namespace Sys2Proof.Machine

/-- The number under which power-good stands among the start-up functions. -/
def powerGoodBit : Nat := 128

/-- The bit a start-up function waits for (Table 18-4). -/
def startsAfter (bit : Nat) : Nat :=
  if bit < 4 then 77
  else if bit < 36 then (bit - 4) / 8
  else if bit < 48 then 77
  else if bit < 72 then (bit - 48) / 6
  else if bit < 76 then bit - 72
  else if bit = 76 then 77
  else powerGoodBit

/-- The bound of a start-up function in clk; PCI Express and Ethernet set their own (Table 18-4). -/
def startBound (bit : Nat) : Option Nat :=
  if bit < 4 then some 1575000000
  else if bit < 36 then some 105000000
  else if bit < 48 then some 2100000000
  else if bit < 72 then some 3150000000
  else if bit = 77 then some 315000000
  else none

/-- The clk since what a function waits for came true; nothing where it has not. -/
def State.waitedFor (s : State) (bit : Nat) : Option Nat := (tbGet s.risen (startsAfter bit)).map fun t => s.clk - t

/-- The function is starting: what it waits for stands, its own bit does not, and it has not failed or missed its bound. -/
def State.starting (s : State) (bit : Nat) : Bool :=
  s.power && decide (bit < 78) && !s.isReady bit && !s.missed.contains bit && !(decide (bit < 4) && (s.die bit).fenced) &&
    (startsAfter bit == powerGoodBit || s.isReady (startsAfter bit)) && (s.waitedFor bit).isSome

/-- A function's bound has passed. -/
def State.boundPassed (s : State) (bit : Nat) : Bool :=
  match startBound bit, s.waitedFor bit with
  | some b, some n => decide (b < n)
  | _, _ => false

/-- The memory a start-up function zero-fills: a die's SRAM, a stack's HBM (Table 18-4). -/
def startFills (bit key : Nat) : Bool :=
  (decide (bit < 4) && isSram key && coreOfKey key / 64 == bit) ||
    (decide (36 ≤ bit) && decide (bit < 48) && isHbm key && stackOf key == bit - 36)

/-- A start-up function finishes: its bit rises (FUNCTION_STARTUP_COMPLETE, R368). -/
def State.startUp (s : State) (bit : Nat) : State :=
  if s.starting bit && !s.boundPassed bit then
    ({ s with risen := tbSet s.risen bit s.clk }.zeroFill (startFills bit)).setReady (s.ready ||| BitVec.ofNat 128 (2 ^ bit))
  else s

/-- A start-up function misses its bound: it stays clear (STARTUP_BOUND_EXPIRY, R368). -/
def State.startMissed (s : State) (bit : Nat) : State :=
  if s.starting bit && s.boundPassed bit then { s with missed := nsInsert s.missed bit } else s

/-- Power-good starts Nightjar's boot (POWER_GOOD, R368). -/
def State.powerGood (s : State) : State :=
  if s.power then s else { s with power := true, risen := tbSet s.risen powerGoodBit s.clk }

/-- A function fails (FUNCTION_FAILURE, R369): a die or a row fences its die, a stack keeps its bit, another bit falls. -/
def State.functionFails (s : State) (bit : Nat) : State :=
  if !s.isReady bit then s
  else if bit < 4 then s.fenceDie bit
  else if bit < 36 then s.fenceDie ((bit - 4) / 8)
  else if bit < 48 then { s with badStacks := nsInsert s.badStacks (bit - 36) }
  else s.clearReady bit

/-- Power is removed: every partition is lost, no state survives but the root of Nightjar's creation counter, and what lies outside
the device (THERMAL_POWER_OFF, R354, R371). -/
def State.powerOff (s : State) : State :=
  { State.reset with
      mem := smFilter isRemote s.mem
      poison := s.poison.filter isRemote
      keyNo := s.keyNo
      fresh := s.fresh
      turns := s.turns }

/-- A cap within 1,200 to 3,400 W is taken (POWERCAP_WRITE, R370). -/
def State.capWrite (s : State) (v : Nat) : State := if 1200 ≤ v ∧ v ≤ 3400 then { s with powercap := v, overCap := false } else s

/-- POWER_GOOD (R368). -/
def execPowerGood (s : State) : Host.Outcome State Fault Refusal := .next s.powerGood

/-- FUNCTION_STARTUP_COMPLETE (R368). -/
def execFunctionStartupComplete (bit : Nat) (s : State) : Host.Outcome State Fault Refusal := .next (s.startUp bit)

/-- STARTUP_BOUND_EXPIRY (R368). -/
def execStartupBoundExpiry (bit : Nat) (s : State) : Host.Outcome State Fault Refusal := .next (s.startMissed bit)

/-- FUNCTION_FAILURE (R369). -/
def execFunctionFailure (bit : Nat) (s : State) : Host.Outcome State Fault Refusal := .next (s.functionFails bit)

/-- THERMAL_THROTTLE (R371): from now on clk may be withheld. -/
def execThermalThrottle (s : State) : Host.Outcome State Fault Refusal := .next { s with throttled := true }

/-- THERMAL_POWER_OFF (R371). -/
def execThermalPowerOff (s : State) : Host.Outcome State Fault Refusal := .next s.powerOff

/-- POWERCAP_WRITE (R370). -/
def execPowercapWrite (value : Word) (s : State) : Host.Outcome State Fault Refusal := .next (s.capWrite value.toNat)

/-- POWER_ABOVE_CAP (R370): until the cap is written again clk may be withheld. -/
def execPowerAboveCap (s : State) : Host.Outcome State Fault Refusal := .next { s with overCap := true }

end Sys2Proof.Machine
end

