-- ==== Sys2Proof/Machine/Bar.lean ====
section
/-! DEFINITION. BAR0 of the functions, SPDM, IDE and TDISP (spec/17 R355; spec/18 R357, R361). -/

namespace Sys2Proof.Machine

/-! ### BAR0 (Table 18-1) -/

/-- The function exists and is enabled: 0, or 1 to 16 of a partition. -/
def State.fnThere (s : State) (fn : Nat) : Bool := decide (fn ≤ 16) && s.fnEnabled fn

/-- An access of the function's BAR arrives (R357, R361). -/
def State.barHears (s : State) (fn : Nat) : Bool := s.fnThere fn && !(s.fn fn).offStream

/-- The ring registers of the function are fixed (R361). -/
def Fn.fixed (f : Fn) : Bool := f.tdisp != .unlocked

/-- Write the fault queue's registers: at once, or once nothing is pending (R360). -/
def State.queueWrite (s : State) (fn : Nat) (base log : Option Nat) : State :=
  if fn = 0 then s
  else
    (s.modFn fn fun f =>
      { f with fqbaseNext := if base.isSome then base else f.fqbaseNext, fqlogNext := if log.isSome then log else f.fqlogNext }).requeue (fn - 1)

/-- Write n bytes of the MSI-X table; a vector that was pending and is unmasked now is sent. -/
def State.msixWrite (s : State) (fn off n value : Nat) : State :=
  let s1 := s.modFn fn fun f =>
    ((natsFrom 0 n).zip (natBytes n value)).foldl (fun acc e => acc.setMsix (off + e.1) e.2) f
  s1.sendPending fn (off / 16)

/-- A field of the peer route table: the parts of an entry, or the whole of it (R363). -/
def peerField (off width : Nat) : Bool :=
  (off % 32 == 0 && (width == 4 || width == 32)) || (off % 32 == 4 && width == 4) || (off % 32 == 8 && width == 8) || (off % 32 == 16 && width == 16)

/-- Write a field of the peer route table; the rest of its entry stays (R363). -/
def State.peerWriteField (s : State) (off width value : Nat) : State :=
  let e := (smGet 0 s.peers (off / 32)).toNat
  let lo := 8 * (off % 32)
  let n := 8 * width
  s.routeWrite (off / 32) (BitVec.ofNat 256 (e - natBits e (lo + n - 1) lo * 2 ^ lo + value % 2 ^ n * 2 ^ lo))

/-- Write a register of BAR0 at its own width and alignment; anything else is discarded (R357). -/
def State.barWrite (s : State) (fn off width value : Nat) : State :=
  let f := s.fn fn
  let physical := fn == 0
  let idle := s.parts.isEmpty
  if !s.barHears fn then s
  else if off < 0x1000 then s.windowWrite fn off width value
  else if off = 0x1000 ∧ width = 8 then (if f.fixed then s else s.setFn fn { f with ringbase := value - value % 64 })
  else if off = 0x1008 ∧ width = 4 then (if f.fixed then s else s.setFn fn { f with ringlog := value })
  else if off = 0x1010 ∧ width = 8 then s.cmdCell fn value
  else if off = 0x1018 ∧ width = 8 then s.queueWrite fn (some (value - value % 64)) none
  else if off = 0x1020 ∧ width = 4 then s.queueWrite fn none (some value)
  else if off = 0x1030 ∧ width = 16 then (if physical then s else s.faultReply fn (value % 2 ^ 64) (value / 2 ^ 64))
  else if off = 0x2010 ∧ width = 4 ∧ physical then (if idle ∧ 1 ≤ value ∧ value ≤ 16 then { s with poolz := value } else s)
  else if off = 0x2020 ∧ width = 4 ∧ physical then s.capWrite value
  else if off = 0x2028 ∧ width = 1 ∧ physical then (if idle then { s with devid := value % 256 } else s)
  else if 0x3000 ≤ off ∧ off < 0x3800 ∧ (width = 4 ∨ width = 8) ∧ off % width = 0 then s.msixWrite fn (off - 0x3000) width value
  else if 0x4000 ≤ off ∧ off < 0x6000 ∧ physical ∧ peerField (off - 0x4000) width then s.peerWriteField (off - 0x4000) width value
  else s

/-- What a read of a register of BAR0 returns, at its own width and alignment; any other read, and one by a function that has no such
register, reads zero (R357, Table 18-1). A read changes nothing. -/
def State.barRead (s : State) (fn off width : Nat) : Nat :=
  let f := s.fn fn
  let physical := fn == 0
  if !s.barHears fn then 0
  else if off < 0x1000 then s.windowRead fn off width
  else if off = 0x1000 ∧ width = 8 then f.ringbase
  else if off = 0x1008 ∧ width = 4 then f.ringlog
  else if off = 0x1010 ∧ width = 8 then f.cmdcell
  else if off = 0x1018 ∧ width = 8 ∧ !physical then f.fqbaseNext.getD f.fqbase
  else if off = 0x1020 ∧ width = 4 ∧ !physical then f.fqlogNext.getD f.fqlog
  else if off = 0x2000 ∧ width = 16 ∧ physical then s.ready.toNat
  else if off = 0x2010 ∧ width = 4 ∧ physical then s.poolz
  else if off = 0x2018 ∧ width = 8 ∧ physical then s.errcount
  else if off = 0x2020 ∧ width = 4 ∧ physical then s.powercap
  else if off = 0x2028 ∧ width = 1 ∧ physical then s.devid
  else if 0x3000 ≤ off ∧ off < 0x3800 ∧ (width = 4 ∨ width = 8) ∧ off % width = 0 then f.msixNat (off - 0x3000) width
  else if off = 0x3800 ∧ width = 8 then f.pba
  else if 0x4000 ≤ off ∧ off < 0x6000 ∧ physical ∧ peerField (off - 0x4000) width then
    natBits (smGet 0 s.peers ((off - 0x4000) / 32)).toNat (8 * (off % 32 + width) - 1) (8 * (off % 32))
  else 0

/-! ### SPDM (R355) -/

/-- The messages of R355. -/
inductive Spdm where
  | getVersion
  | getCapabilities
  | negotiateAlgorithms
  | getDigests
  | getCertificate
  | challenge
  | getMeasurements
  | keyExchange
  | finish
deriving DecidableEq, Repr

/-- The number of a message, for its free bytes. -/
def Spdm.code : Spdm → Nat
  | .getVersion => 0
  | .getCapabilities => 1
  | .negotiateAlgorithms => 2
  | .getDigests => 3
  | .getCertificate => 4
  | .challenge => 5
  | .getMeasurements => 6
  | .keyExchange => 7
  | .finish => 8

/-- The states of a responder: 0 nothing agreed, 1 the version, 2 the capabilities, 3 the algorithms, 4 keys exchanged, 5 a session
(log entry 14). -/
def Spdm.next (m : Spdm) (st : Nat) : Option Nat :=
  match m with
  | .getVersion => some 1
  | .getCapabilities => if st = 1 then some 2 else none
  | .negotiateAlgorithms => if st = 2 then some 3 else none
  | .getDigests => if 3 ≤ st then some st else none
  | .getCertificate => if 3 ≤ st then some st else none
  | .challenge => if 3 ≤ st then some st else none
  | .getMeasurements => if 3 ≤ st then some st else none
  | .keyExchange => if 3 ≤ st then some 4 else none
  | .finish => if st = 4 then some 5 else none

/-- The fenced dies as a mask. -/
def State.fencedMask (s : State) : Nat := sumNat ((natsFrom 0 4).map fun d => if (s.die d).fenced then 2 ^ d else 0)

/-- The registers that measurement 0x10 holds. -/
def measuredRegs : List Nat := natsFrom 1 3 ++ natsFrom 0x10 64

/-- Measurement 0x10 of a partition (Table 17-5). -/
def Part.measurement (q : Part) : List Nat := [q.imageHash, q.nonce, q.rows, q.ports, q.pool, q.mode] ++ measuredRegs.map q.reg

/-- What a function's measurements report (Table 17-5). -/
def State.measurements (s : State) (fn : Nat) : List (Nat × List Nat) :=
  [(1, [Config.firmware 1]), (2, [Config.firmware 2]), (3, [s.ready.toNat, s.poolz, s.fencedMask])] ++
    (if fn = 0 then [] else [(0x10, (s.part (fn - 1)).measurement)])

/-- The contents of measurements in an answer, each number in 48 bytes; what SPDM puts around them is free (log entry 14). -/
def measuredBytes (m : List (Nat × List Nat)) : List Byte := m.flatMap fun e => natBytes 1 e.1 ++ e.2.flatMap (natBytes 48)

/-- Nightjar answers a message of a function's mailbox: what SPDM lays down of its bytes, signatures and random numbers among them, is
free, the contents of measurements stand in it (Table 17-5; log entry 14). -/
def State.spdmAnswer (s : State) (fn : Nat) (m : Spdm) : State :=
  if !s.isReady 77 || !s.fnThere fn then s
  else
    let (draw, s1) := s.draw
    let f := s.fn fn
    let free := fun (lo n : Nat) => (natsFrom lo n).map (Config.spdmByte m.code fn s.fresh)
    let head := free 0 (1 + draw % 2048)
    let put := fun (body : List Byte) => { f with mailbox := head ++ body ++ free 2048 (draw / 2048 % 2048) }
    match m.next f.spdm with
    | none => s1.setFn fn (put [])
    | some st =>
      if m = .getMeasurements then
        s1.setFn fn { put (measuredBytes (s.measurements fn)) with spdm := st, measured := s.measurements fn }
      else s1.setFn fn { put [] with spdm := st }

/-! ### IDE and TDISP (R361) -/

/-- A function's secured session stands. -/
def State.session (s : State) (fn : Nat) : Bool := s.isReady 77 && s.fnThere fn && (s.fn fn).spdm == 5

/-- IDE_KM sets the keys of the function's stream. -/
def State.ideKeys (s : State) (fn : Nat) : State := if s.session fn then s.modFn fn fun f => { f with ideKey := true } else s

/-- A TDISP message of a virtual function's session moves its interface. -/
def State.tdispMove (s : State) (fn : Nat) (from_ : List Tdisp) (to_ : Tdisp) : State :=
  if fn != 0 && s.session fn && from_.contains (s.fn fn).tdisp then s.modFn fn fun f => { f with tdisp := to_ } else s

/-- A BAR access off the stream of a locked interface (R361). -/
def State.tdispBreach (s : State) (fn : Nat) : State :=
  if fn != 0 && s.fnThere fn && [Tdisp.locked, Tdisp.run].contains (s.fn fn).tdisp then s.modFn fn fun f => { f with tdisp := .error } else s

/-- BAR_REGISTER_WRITE (R357). -/
def execBarRegisterWrite (fn off width : Nat) (value : BitVec 128) (s : State) : Host.Outcome State Fault Refusal :=
  .next (s.barWrite fn off width (value.toNat % 2 ^ (8 * width)))

/-- GET_VERSION (R355). -/
def execGetVersion (fn : Nat) (s : State) : Host.Outcome State Fault Refusal := .next (s.spdmAnswer fn .getVersion)

/-- GET_CAPABILITIES (R355). -/
def execGetCapabilities (fn : Nat) (s : State) : Host.Outcome State Fault Refusal := .next (s.spdmAnswer fn .getCapabilities)

/-- NEGOTIATE_ALGORITHMS (R355). -/
def execNegotiateAlgorithms (fn : Nat) (s : State) : Host.Outcome State Fault Refusal := .next (s.spdmAnswer fn .negotiateAlgorithms)

/-- GET_DIGESTS (R355). -/
def execGetDigests (fn : Nat) (s : State) : Host.Outcome State Fault Refusal := .next (s.spdmAnswer fn .getDigests)

/-- GET_CERTIFICATE (R355). -/
def execGetCertificate (fn : Nat) (s : State) : Host.Outcome State Fault Refusal := .next (s.spdmAnswer fn .getCertificate)

/-- CHALLENGE (R355). -/
def execChallenge (fn : Nat) (s : State) : Host.Outcome State Fault Refusal := .next (s.spdmAnswer fn .challenge)

/-- GET_MEASUREMENTS (R355). -/
def execGetMeasurements (fn : Nat) (s : State) : Host.Outcome State Fault Refusal := .next (s.spdmAnswer fn .getMeasurements)

/-- KEY_EXCHANGE (R355). -/
def execKeyExchange (fn : Nat) (s : State) : Host.Outcome State Fault Refusal := .next (s.spdmAnswer fn .keyExchange)

/-- FINISH (R355). -/
def execFinish (fn : Nat) (s : State) : Host.Outcome State Fault Refusal := .next (s.spdmAnswer fn .finish)

/-- IDE_KM (R361). -/
def execIdeKm (fn : Nat) (s : State) : Host.Outcome State Fault Refusal := .next (s.ideKeys fn)

/-- LOCK_INTERFACE (R361). -/
def execLockInterface (fn : Nat) (s : State) : Host.Outcome State Fault Refusal := .next (s.tdispMove fn [.unlocked] .locked)

/-- START_INTERFACE (R361). -/
def execStartInterface (fn : Nat) (s : State) : Host.Outcome State Fault Refusal := .next (s.tdispMove fn [.locked] .run)

/-- STOP_INTERFACE (R361). -/
def execStopInterface (fn : Nat) (s : State) : Host.Outcome State Fault Refusal :=
  .next (s.tdispMove fn [.locked, .run, .error] .unlocked)

/-- TDISP_BREACH (R361). -/
def execTdispBreach (fn : Nat) (s : State) : Host.Outcome State Fault Refusal := .next (s.tdispBreach fn)

end Sys2Proof.Machine
end

