-- ==== Sys2Proof/Machine/OperandLog.lean ====
section
/-! DEFINITION. The operand log: the lanes whose pages Badger had to settle are performed with the operands captured when their
instruction issued (spec/07 R128). -/

namespace Sys2Proof.Machine

/-- The page of a logged access is no longer being settled. -/
def State.settledFor (s : State) (p va : Nat) : Bool := !(s.part p).settles.any fun x => x.va == s.settleBase p va x.why

/-- A lane's pending load takes the number of the access that now fetches it. -/
def Thread.renumber (t : Thread) (pc : Dword) (id : Nat) : Thread :=
  { t with pends := t.pends.map fun p => if !p.committed && p.pc == pc then { p with id := id } else p }

/-- Data captured in the log. -/
def LogEntry.value (e : LogEntry) : PVal :=
  ⟨natOfBytes (e.data.map fun w => w.v.setWidth 8), e.data.any PWord.p⟩

/-- The lane of a logged boundary instruction leaves it as it ends. -/
def State.leaveLogged (s : State) (id : WarpId) (e : LogEntry) (end_ : LaneEnd) : State :=
  let t : ThreadId := ⟨id, e.lane⟩
  let next := e.pc + BitVec.ofNat 64 (4 * e.i.words)
  let mates := match (s.thread t).wait with
    | .logged _ mates _ => mates
    | _ => []
  (s.modThread t fun th => { th with wait := .ready }.leave end_ s.clk e.no mates e.pc next).endFault id e.pc (e.lane, end_)

/-- A logged lane of an ATOM, CAS or RED is performed; the flag says it leaves the log. -/
def State.replayAtomic (s : State) (id : WarpId) (e : LogEntry) : State × Bool :=
  let next := e.pc + BitVec.ofNat 64 (4 * e.i.words)
  match s.atomicAt ⟨id, e.lane⟩ e.i e.va e.data next with
  | (s1, end_) => if end_.isLog then (s1, false) else if end_.performed then (s1.leaveLogged id e end_, true) else (s, false)

/-- The logged lanes of a COPY, all of which are one command, are checked again and take their entry of the queue together; the flag says
they leave the log. -/
def State.replayCopy (s : State) (id : WarpId) (x : Ext) (here : Dword) (es : List LogEntry) : State × Bool :=
  let (s1, plan) := s.copyPlan id x here (es.map fun e => (e.lane, e.data))
  if copyEnds plan LaneEnd.isLog then (s1, false)
  else if copyEnds plan (fun e => !e.performed) || (!(copyPassed plan).isEmpty && (s1.core (s1.coreOf id)).full 0) then (s, false)
  else
    (es.foldl
      (fun acc e =>
        match tbGet plan e.lane with
        | some (.ok _) => acc.leaveLogged id e .go
        | some (.error end_) => acc.leaveLogged id e end_
        | none => acc.modThread ⟨id, e.lane⟩ fun th => { th with wait := .ready }) (s1.copySend id x (copyPassed plan)), true)

/-- One logged lane of a span is performed with its captured operands; the flag says it leaves the log. -/
def State.replaySpan (s : State) (id : WarpId) (e : LogEntry) : State × Bool :=
  let t : ThreadId := ⟨id, e.lane⟩
  let x := e.i.ext
  let both := fun (a : State) (f : Thread → Thread) => a.modWarp id fun w =>
    { w with lanes := tbModify w.lanes e.lane f, shadow := w.shadow.map fun sh => tbModify sh e.lane f }
  let finish := fun (r : State × MemEnd) (load : Bool) =>
    match r.2 with
    | .done upd => (both r.1 (if load then fun th => th.renumber e.pc s.nextId else upd), true)
    | .fault f => (both r.1 (fun th => th.noteFault f e.index e.pc), true)
    | .log why va _ _ => (s.askAt t why va e.pc, false)
    | .hold => (s, false)
    | .broken =>
      (r.1.gangFault id.gang 0x1B
        { thread := some t, pc := e.pc.toNat, entry := (s.entryOf t).toNat, addr := e.va, core := s.coreOf id }, true)
  let load := fun (acquire : Option Nat) =>
    finish (s.tryLoad t { va := e.va, size := accSize x, regs := accRegs x x.d, signed := x.modB.getLsbD 3, acquire := acquire,
                          index := e.index, pc := e.pc, window := 0 }) true
  match e.i with
  | .st _ => finish (s.tryStore t { va := e.va, size := accSize x, release := Ext.accScope x, index := e.index } e.value) false
  | .ldparam _ => load none
  | _ => load (Ext.accScope x)

/-- A logged lane is performed, with the others of its instruction where they are one command; the flag says that they leave the log. -/
def State.replayEntry (s : State) (id : WarpId) (e : LogEntry) : State × Bool :=
  match e.i with
  | .copy x => s.replayCopy id x e.pc ((s.warp id).log.filter fun o => o.no == e.no)
  | .atom _ => s.replayAtomic id e
  | .cas _ => s.replayAtomic id e
  | .red _ => s.replayAtomic id e
  | _ => s.replaySpan id e

/-- The entries that go with one: those of its command. -/
def LogEntry.goesWith (e o : LogEntry) : Bool :=
  match e.i with
  | .copy _ => o.no == e.no
  | _ => o == e

/-- A logged lane can be performed: its pages, or those of its command, are settled, and no lower lane of its instruction is still logged
(R128). -/
def State.canReplay (s : State) (id : WarpId) (e : LogEntry) : Bool :=
  let log := (s.warp id).log
  log.contains e && (log.all fun o => !e.goesWith o || s.settledFor id.gang.part o.va) &&
    !log.any fun o => o.no == e.no && decide (o.lane < e.lane)

/-- The logged lanes whose pages are settled, in order (R128). -/
def State.replayLog (s : State) (id : WarpId) : State :=
  ((s.warp id).log.foldl
    (fun acc e =>
      if acc.canReplay id e then
        let (s1, gone) := acc.replayEntry id e
        if gone then s1.modWarp id fun w => { w with log := w.log.filter fun o => !e.goesWith o } else s1
      else acc) s).modWarp id Warp.regroup

/-- OPERAND_LOG_REPLAY: due while a logged lane's page is settled (R128). -/
def execOperandLogReplay (w : WarpId) (s : State) : Host.Outcome State Fault Refusal := .next (s.replayLog w)

end Sys2Proof.Machine
end

