-- ==== Sys2Proof/Machine/Dispatch.lean ====
section
/-! DEFINITION. One arm per step of spec/opcode_table.json. -/

namespace Sys2Proof.Machine

/-- What an instruction, or a step of another agent, does. -/
def exec (i : Instr) (s : State) : Host.Outcome State Fault Refusal :=
  match i with
  | .iaddBase d b lit => Sys2Proof.Machine.execIaddBase d b lit s
  | .isubBase d b lit => Sys2Proof.Machine.execIsubBase d b lit s
  | .iaddcBase d b lit => Sys2Proof.Machine.execIaddcBase d b lit s
  | .iminBase d b lit => Sys2Proof.Machine.execIminBase d b lit s
  | .imaxBase d b lit => Sys2Proof.Machine.execImaxBase d b lit s
  | .iabsBase d => Sys2Proof.Machine.execIabsBase d s
  | .inegBase d => Sys2Proof.Machine.execInegBase d s
  | .iaminBase d b lit => Sys2Proof.Machine.execIaminBase d b lit s
  | .iamaxBase d b lit => Sys2Proof.Machine.execIamaxBase d b lit s
  | .isadBase d b lit => Sys2Proof.Machine.execIsadBase d b lit s
  | .iadd64Base d b lit => Sys2Proof.Machine.execIadd64Base d b lit s
  | .isub64Base d b lit => Sys2Proof.Machine.execIsub64Base d b lit s
  | .shlBase d b lit => Sys2Proof.Machine.execShlBase d b lit s
  | .shrBase d b lit => Sys2Proof.Machine.execShrBase d b lit s
  | .sarBase d b lit => Sys2Proof.Machine.execSarBase d b lit s
  | .rotlBase d b lit => Sys2Proof.Machine.execRotlBase d b lit s
  | .bandBase d b lit => Sys2Proof.Machine.execBandBase d b lit s
  | .borBase d b lit => Sys2Proof.Machine.execBorBase d b lit s
  | .bxorBase d b lit => Sys2Proof.Machine.execBxorBase d b lit s
  | .bnotBase d => Sys2Proof.Machine.execBnotBase d s
  | .bool3Base d b lit => Sys2Proof.Machine.execBool3Base d b lit s
  | .popcBase d => Sys2Proof.Machine.execPopcBase d s
  | .clzBase d => Sys2Proof.Machine.execClzBase d s
  | .ctzBase d => Sys2Proof.Machine.execCtzBase d s
  | .brevBase d => Sys2Proof.Machine.execBrevBase d s
  | .bfeBase d b lit => Sys2Proof.Machine.execBfeBase d b lit s
  | .bfiBase d b lit => Sys2Proof.Machine.execBfiBase d b lit s
  | .funnelBase d b lit => Sys2Proof.Machine.execFunnelBase d b lit s
  | .shl64Base d b lit => Sys2Proof.Machine.execShl64Base d b lit s
  | .shr64Base d b lit => Sys2Proof.Machine.execShr64Base d b lit s
  | .sar64Base d b lit => Sys2Proof.Machine.execSar64Base d b lit s
  | .faddBase d b lit => Sys2Proof.Machine.execFaddBase d b lit s
  | .fsubBase d b lit => Sys2Proof.Machine.execFsubBase d b lit s
  | .fmulBase d b lit => Sys2Proof.Machine.execFmulBase d b lit s
  | .ffmaBase d b lit => Sys2Proof.Machine.execFfmaBase d b lit s
  | .fminBase d b lit => Sys2Proof.Machine.execFminBase d b lit s
  | .fmaxBase d b lit => Sys2Proof.Machine.execFmaxBase d b lit s
  | .movBase d b lit => Sys2Proof.Machine.execMovBase d b lit s
  | .addi d imm lit => Sys2Proof.Machine.execAddi d imm lit s
  | .moviBase d imm lit => Sys2Proof.Machine.execMoviBase d imm lit s
  | .andi d imm lit => Sys2Proof.Machine.execAndi d imm lit s
  | .shli d imm lit => Sys2Proof.Machine.execShli d imm lit s
  | .shri d imm lit => Sys2Proof.Machine.execShri d imm lit s
  | .sari d imm lit => Sys2Proof.Machine.execSari d imm lit s
  | .braBase cond off => Sys2Proof.Machine.execBraBase cond off s
  | .rjmarkBase j => Sys2Proof.Machine.execRjmarkBase j s
  | .rjwaitBase j => Sys2Proof.Machine.execRjwaitBase j s
  | .sealBase s1 s2 => Sys2Proof.Machine.execSealBase s1 s2 s
  | .yieldBase live dexp => Sys2Proof.Machine.execYieldBase live dexp s
  | .tailBase => Sys2Proof.Machine.execTailBase s
  | .exitBase => Sys2Proof.Machine.execExitBase s
  | .trapBase code => Sys2Proof.Machine.execTrapBase code s
  | .brkBase code => Sys2Proof.Machine.execBrkBase code s
  | .iadd x => Sys2Proof.Machine.execIadd x s
  | .isub x => Sys2Proof.Machine.execIsub x s
  | .iaddc x => Sys2Proof.Machine.execIaddc x s
  | .imin x => Sys2Proof.Machine.execImin x s
  | .imax x => Sys2Proof.Machine.execImax x s
  | .iabs x => Sys2Proof.Machine.execIabs x s
  | .ineg x => Sys2Proof.Machine.execIneg x s
  | .iamin x => Sys2Proof.Machine.execIamin x s
  | .iamax x => Sys2Proof.Machine.execIamax x s
  | .isad x => Sys2Proof.Machine.execIsad x s
  | .iadd64 x => Sys2Proof.Machine.execIadd64 x s
  | .isub64 x => Sys2Proof.Machine.execIsub64 x s
  | .lea x => Sys2Proof.Machine.execLea x s
  | .lea64 x => Sys2Proof.Machine.execLea64 x s
  | .imul x => Sys2Proof.Machine.execImul x s
  | .imulh x => Sys2Proof.Machine.execImulh x s
  | .imad x => Sys2Proof.Machine.execImad x s
  | .imulw x => Sys2Proof.Machine.execImulw x s
  | .imadw x => Sys2Proof.Machine.execImadw x s
  | .idiv x => Sys2Proof.Machine.execIdiv x s
  | .irem x => Sys2Proof.Machine.execIrem x s
  | .shl x => Sys2Proof.Machine.execShl x s
  | .shr x => Sys2Proof.Machine.execShr x s
  | .sar x => Sys2Proof.Machine.execSar x s
  | .rotl x => Sys2Proof.Machine.execRotl x s
  | .band x => Sys2Proof.Machine.execBand x s
  | .bor x => Sys2Proof.Machine.execBor x s
  | .bxor x => Sys2Proof.Machine.execBxor x s
  | .bnot x => Sys2Proof.Machine.execBnot x s
  | .bool3 x => Sys2Proof.Machine.execBool3 x s
  | .popc x => Sys2Proof.Machine.execPopc x s
  | .clz x => Sys2Proof.Machine.execClz x s
  | .ctz x => Sys2Proof.Machine.execCtz x s
  | .brev x => Sys2Proof.Machine.execBrev x s
  | .bfe x => Sys2Proof.Machine.execBfe x s
  | .bfi x => Sys2Proof.Machine.execBfi x s
  | .funnel x => Sys2Proof.Machine.execFunnel x s
  | .shl64 x => Sys2Proof.Machine.execShl64 x s
  | .shr64 x => Sys2Proof.Machine.execShr64 x s
  | .sar64 x => Sys2Proof.Machine.execSar64 x s
  | .iset x => Sys2Proof.Machine.execIset x s
  | .iset64 x => Sys2Proof.Machine.execIset64 x s
  | .fset x => Sys2Proof.Machine.execFset x s
  | .fset64 x => Sys2Proof.Machine.execFset64 x s
  | .pset x => Sys2Proof.Machine.execPset x s
  | .sel x => Sys2Proof.Machine.execSel x s
  | .pmovGet x => Sys2Proof.Machine.execPmovGet x s
  | .pmovPut x => Sys2Proof.Machine.execPmovPut x s
  | .fadd x => Sys2Proof.Machine.execFadd x s
  | .fsub x => Sys2Proof.Machine.execFsub x s
  | .fmul x => Sys2Proof.Machine.execFmul x s
  | .ffma x => Sys2Proof.Machine.execFfma x s
  | .fmin x => Sys2Proof.Machine.execFmin x s
  | .fmax x => Sys2Proof.Machine.execFmax x s
  | .fdiv x => Sys2Proof.Machine.execFdiv x s
  | .fsqrt x => Sys2Proof.Machine.execFsqrt x s
  | .fscale x => Sys2Proof.Machine.execFscale x s
  | .frnd x => Sys2Proof.Machine.execFrnd x s
  | .fadd64 x => Sys2Proof.Machine.execFadd64 x s
  | .fsub64 x => Sys2Proof.Machine.execFsub64 x s
  | .fmul64 x => Sys2Proof.Machine.execFmul64 x s
  | .ffma64 x => Sys2Proof.Machine.execFfma64 x s
  | .fmin64 x => Sys2Proof.Machine.execFmin64 x s
  | .fmax64 x => Sys2Proof.Machine.execFmax64 x s
  | .fdiv64 x => Sys2Proof.Machine.execFdiv64 x s
  | .fsqrt64 x => Sys2Proof.Machine.execFsqrt64 x s
  | .fscale64 x => Sys2Proof.Machine.execFscale64 x s
  | .frnd64 x => Sys2Proof.Machine.execFrnd64 x s
  | .hadd2 x => Sys2Proof.Machine.execHadd2 x s
  | .hmul2 x => Sys2Proof.Machine.execHmul2 x s
  | .hfma2 x => Sys2Proof.Machine.execHfma2 x s
  | .hmin2 x => Sys2Proof.Machine.execHmin2 x s
  | .hmax2 x => Sys2Proof.Machine.execHmax2 x s
  | .cvt x => Sys2Proof.Machine.execCvt x s
  | .cvtpk x => Sys2Proof.Machine.execCvtpk x s
  | .cvtx x => Sys2Proof.Machine.execCvtx x s
  | .rcp x => Sys2Proof.Machine.execRcp x s
  | .rsq x => Sys2Proof.Machine.execRsq x s
  | .ex2 x => Sys2Proof.Machine.execEx2 x s
  | .lg2 x => Sys2Proof.Machine.execLg2 x s
  | .sin x => Sys2Proof.Machine.execSin x s
  | .cos x => Sys2Proof.Machine.execCos x s
  | .tanh x => Sys2Proof.Machine.execTanh x s
  | .rand x => Sys2Proof.Machine.execRand x s
  | .shfl x => Sys2Proof.Machine.execShfl x s
  | .shflx x => Sys2Proof.Machine.execShflx x s
  | .lsh x => Sys2Proof.Machine.execLsh x s
  | .vote x => Sys2Proof.Machine.execVote x s
  | .ballot x => Sys2Proof.Machine.execBallot x s
  | .matchKey x => Sys2Proof.Machine.execMatchKey x s
  | .reduce x => Sys2Proof.Machine.execReduce x s
  | .scan x => Sys2Proof.Machine.execScan x s
  | .had32 x => Sys2Proof.Machine.execHad32 x s
  | .qblk x => Sys2Proof.Machine.execQblk x s
  | .dqblk x => Sys2Proof.Machine.execDqblk x s
  | .mov x => Sys2Proof.Machine.execMov x s
  | .movi x => Sys2Proof.Machine.execMovi x s
  | .sread x => Sys2Proof.Machine.execSread x s
  | .swrite x => Sys2Proof.Machine.execSwrite x s
  | .wid x => Sys2Proof.Machine.execWid x s
  | .kset x => Sys2Proof.Machine.execKset x s
  | .ld x => Sys2Proof.Machine.execLd x s
  | .ldparam x => Sys2Proof.Machine.execLdparam x s
  | .prefetch x => Sys2Proof.Machine.execPrefetch x s
  | .st x => Sys2Proof.Machine.execSt x s
  | .atom x => Sys2Proof.Machine.execAtom x s
  | .cas x => Sys2Proof.Machine.execCas x s
  | .red x => Sys2Proof.Machine.execRed x s
  | .join x => Sys2Proof.Machine.execJoin x s
  | .jinc x => Sys2Proof.Machine.execJinc x s
  | .ldlt x => Sys2Proof.Machine.execLdlt x s
  | .ldltn x => Sys2Proof.Machine.execLdltn x s
  | .xflush x => Sys2Proof.Machine.execXflush x s
  | .fence x => Sys2Proof.Machine.execFence x s
  | .qfence x => Sys2Proof.Machine.execQfence x s
  | .copy x => Sys2Proof.Machine.execCopy x s
  | .bulkIn x => Sys2Proof.Machine.execBulkIn x s
  | .bulkOut x => Sys2Proof.Machine.execBulkOut x s
  | .mcast x => Sys2Proof.Machine.execMcast x s
  | .mcrecv x => Sys2Proof.Machine.execMcrecv x s
  | .tiledef x => Sys2Proof.Machine.execTiledef x s
  | .tilefree x => Sys2Proof.Machine.execTilefree x s
  | .tileq x => Sys2Proof.Machine.execTileq x s
  | .barinit x => Sys2Proof.Machine.execBarinit x s
  | .bararr x => Sys2Proof.Machine.execBararr x s
  | .barwait x => Sys2Proof.Machine.execBarwait x s
  | .bartest x => Sys2Proof.Machine.execBartest x s
  | .bardrop x => Sys2Proof.Machine.execBardrop x s
  | .wsync x => Sys2Proof.Machine.execWsync x s
  | .gsync x => Sys2Proof.Machine.execGsync x s
  | .sclaim x => Sys2Proof.Machine.execSclaim x s
  | .srel x => Sys2Proof.Machine.execSrel x s
  | .sldt x => Sys2Proof.Machine.execSldt x s
  | .sstt x => Sys2Proof.Machine.execSstt x s
  | .pack x => Sys2Proof.Machine.execPack x s
  | .unpack x => Sys2Proof.Machine.execUnpack x s
  | .azero x => Sys2Proof.Machine.execAzero x s
  | .mma x => Sys2Proof.Machine.execMma x s
  | .kread x => Sys2Proof.Machine.execKread x s
  | .dtctx x => Sys2Proof.Machine.execDtctx x s
  | .dt2 x => Sys2Proof.Machine.execDt2 x s
  | .dt1 x => Sys2Proof.Machine.execDt1 x s
  | .dtcmp x => Sys2Proof.Machine.execDtcmp x s
  | .dteval x => Sys2Proof.Machine.execDteval x s
  | .dtstat x => Sys2Proof.Machine.execDtstat x s
  | .bra x => Sys2Proof.Machine.execBra x s
  | .brx x => Sys2Proof.Machine.execBrx x s
  | .brv x => Sys2Proof.Machine.execBrv x s
  | .call x => Sys2Proof.Machine.execCall x s
  | .callx x => Sys2Proof.Machine.execCallx x s
  | .ret x => Sys2Proof.Machine.execRet x s
  | .rjmark x => Sys2Proof.Machine.execRjmark x s
  | .rjwait x => Sys2Proof.Machine.execRjwait x s
  | .rjdrop x => Sys2Proof.Machine.execRjdrop x s
  | .rjread x => Sys2Proof.Machine.execRjread x s
  | .sealExt x => Sys2Proof.Machine.execSeal x s
  | .yield x => Sys2Proof.Machine.execYield x s
  | .tail x => Sys2Proof.Machine.execTail x s
  | .exit x => Sys2Proof.Machine.execExit x s
  | .nap x => Sys2Proof.Machine.execNap x s
  | .trap x => Sys2Proof.Machine.execTrap x s
  | .brk x => Sys2Proof.Machine.execBrk x s
  | .eret x => Sys2Proof.Machine.execEret x s
  | .launch x => Sys2Proof.Machine.execLaunch x s
  | .spill x => Sys2Proof.Machine.execSpill x s
  | .fill x => Sys2Proof.Machine.execFill x s
  | .tlbinv x => Sys2Proof.Machine.execTlbinv x s
  | .rgnset x => Sys2Proof.Machine.execRgnset x s
  | .smap x => Sys2Proof.Machine.execSmap x s
  | .ctxsave x => Sys2Proof.Machine.execCtxsave x s
  | .ctxload x => Sys2Proof.Machine.execCtxload x s
  | .pmctlRead x => Sys2Proof.Machine.execPmctlRead x s
  | .pmctlSel x => Sys2Proof.Machine.execPmctlSel x s
  | .pmctlStart x => Sys2Proof.Machine.execPmctlStart x s
  | .pmctlStop x => Sys2Proof.Machine.execPmctlStop x s
  | .pmctlClr x => Sys2Proof.Machine.execPmctlClr x s
  | .pgpin x => Sys2Proof.Machine.execPgpin x s
  | .spanSeal w => Sys2Proof.Machine.execSpanSeal w s
  | .slowGear w => Sys2Proof.Machine.execSlowGear w s
  | .slowGearComplete w => Sys2Proof.Machine.execSlowGearComplete w s
  | .loadDataReturn t n => Sys2Proof.Machine.execLoadDataReturn t n s
  | .memoryAccessPerform id => Sys2Proof.Machine.execMemoryAccessPerform id s
  | .badgerSettle part va => Sys2Proof.Machine.execBadgerSettle part va s
  | .operandLogReplay w => Sys2Proof.Machine.execOperandLogReplay w s
  | .evictionWritebackComplete part va ok => Sys2Proof.Machine.execEvictionWritebackComplete part va ok s
  | .faultReply fn va addr => Sys2Proof.Machine.execFaultReply fn va addr s
  | .faultQueueTimeout fn seq => Sys2Proof.Machine.execFaultQueueTimeout fn seq s
  | .watchdogFault t => Sys2Proof.Machine.execWatchdogFault t s
  | .napEnd t => Sys2Proof.Machine.execNapEnd t s
  | .ldltTimeout t => Sys2Proof.Machine.execLdltTimeout t s
  | .copyComplete core => Sys2Proof.Machine.execCopyComplete core s
  | .walkTileComplete core => Sys2Proof.Machine.execWalkTileComplete core s
  | .bulkComplete core => Sys2Proof.Machine.execBulkComplete core s
  | .mcastParked core => Sys2Proof.Machine.execMcastParked core s
  | .mcrecvComplete core => Sys2Proof.Machine.execMcrecvComplete core s
  | .matrixEntryStart core => Sys2Proof.Machine.execMatrixEntryStart core s
  | .matrixEntryComplete core => Sys2Proof.Machine.execMatrixEntryComplete core s
  | .exitComplete t => Sys2Proof.Machine.execExitComplete t s
  | .trackerEntryFree core entry => Sys2Proof.Machine.execTrackerEntryFree core entry s
  | .owlRound part entry => Sys2Proof.Machine.execOwlRound part entry s
  | .owlMerge id => Sys2Proof.Machine.execOwlMerge id s
  | .latticeWindowWrite fn off width value => Sys2Proof.Machine.execLatticeWindowWrite fn off width value s
  | .commandCellWrite fn value => Sys2Proof.Machine.execCommandCellWrite fn value s
  | .create fn => Sys2Proof.Machine.execCreate fn s
  | .destroy fn => Sys2Proof.Machine.execDestroy fn s
  | .setreg fn => Sys2Proof.Machine.execSetreg fn s
  | .getreg fn => Sys2Proof.Machine.execGetreg fn s
  | .suspend fn => Sys2Proof.Machine.execSuspend fn s
  | .resume fn => Sys2Proof.Machine.execResume fn s
  | .fencedie fn => Sys2Proof.Machine.execFencedie fn s
  | .gangRangeHandout part die => Sys2Proof.Machine.execGangRangeHandout part die s
  | .gangPlace die => Sys2Proof.Machine.execGangPlace die s
  | .placementComplete g => Sys2Proof.Machine.execPlacementComplete g s
  | .gangRetire g => Sys2Proof.Machine.execGangRetire g s
  | .launchEnd part launch => Sys2Proof.Machine.execLaunchEnd part launch s
  | .replayGateTimeout id => Sys2Proof.Machine.execReplayGateTimeout id s
  | .replayStuckAdmit part launch => Sys2Proof.Machine.execReplayStuckAdmit part launch s
  | .launchMerge part launch => Sys2Proof.Machine.execLaunchMerge part launch s
  | .preemptionStart part => Sys2Proof.Machine.execPreemptionStart part s
  | .drainComplete g => Sys2Proof.Machine.execDrainComplete g s
  | .saveComplete g => Sys2Proof.Machine.execSaveComplete g s
  | .gangResume g => Sys2Proof.Machine.execGangResume g s
  | .resumeComplete g => Sys2Proof.Machine.execResumeComplete g s
  | .gangLevelFault g kind => Sys2Proof.Machine.execGangLevelFault g kind s
  | .dieFence die => Sys2Proof.Machine.execDieFence die s
  | .powerGood => Sys2Proof.Machine.execPowerGood s
  | .functionStartupComplete bit => Sys2Proof.Machine.execFunctionStartupComplete bit s
  | .startupBoundExpiry bit => Sys2Proof.Machine.execStartupBoundExpiry bit s
  | .linkRetryFailure link => Sys2Proof.Machine.execLinkRetryFailure link s
  | .peerUnreachableTimeout device => Sys2Proof.Machine.execPeerUnreachableTimeout device s
  | .peerRequestReceive req => Sys2Proof.Machine.execPeerRequestReceive req s
  | .ethernetRetransmit port => Sys2Proof.Machine.execEthernetRetransmit port s
  | .engineSliceStart engine => Sys2Proof.Machine.execEngineSliceStart engine s
  | .budgetRefill => Sys2Proof.Machine.execBudgetRefill s
  | .thermalThrottle => Sys2Proof.Machine.execThermalThrottle s
  | .thermalPowerOff => Sys2Proof.Machine.execThermalPowerOff s
  | .powercapWrite value => Sys2Proof.Machine.execPowercapWrite value s
  | .peerRouteWrite device entry => Sys2Proof.Machine.execPeerRouteWrite device entry s
  | .barRegisterWrite fn off width value => Sys2Proof.Machine.execBarRegisterWrite fn off width value s
  | .getVersion fn => Sys2Proof.Machine.execGetVersion fn s
  | .getCapabilities fn => Sys2Proof.Machine.execGetCapabilities fn s
  | .negotiateAlgorithms fn => Sys2Proof.Machine.execNegotiateAlgorithms fn s
  | .getDigests fn => Sys2Proof.Machine.execGetDigests fn s
  | .getCertificate fn => Sys2Proof.Machine.execGetCertificate fn s
  | .challenge fn => Sys2Proof.Machine.execChallenge fn s
  | .getMeasurements fn => Sys2Proof.Machine.execGetMeasurements fn s
  | .keyExchange fn => Sys2Proof.Machine.execKeyExchange fn s
  | .finish fn => Sys2Proof.Machine.execFinish fn s
  | .ideKm fn => Sys2Proof.Machine.execIdeKm fn s
  | .lockInterface fn => Sys2Proof.Machine.execLockInterface fn s
  | .stopInterface fn => Sys2Proof.Machine.execStopInterface fn s
  | .tdispBreach fn => Sys2Proof.Machine.execTdispBreach fn s
  | .functionFailure bit => Sys2Proof.Machine.execFunctionFailure bit s
  | .startInterface fn => Sys2Proof.Machine.execStartInterface fn s
  | .powerAboveCap => Sys2Proof.Machine.execPowerAboveCap s

end Sys2Proof.Machine
end

