-- ==== Sys2Proof/Machine/Turn.lean ====
section
/-! DEFINITION. Who moves next: the turns the state lists, else the default order of log entry 1; and what a warp does in its turn:
the instruction its group issues, or what stands before it (spec/05 R79 to R82; spec/14 R277, R278; spec/15 R293 to R296). -/

namespace Sys2Proof.Machine

/-- The instruction after the open span belongs to the next one: the span seals, its results land, and the slot is free (R79, R82;
log entry 64). -/
def State.nextSpan (s : State) (id : WarpId) (g : Issue) : State × Option Instr :=
  let w := s.warp id
  if g.phase = .sealed then (if w.landed g.lanes then (s.setWarp id { w with cur := none }, none) else (s, none))
  else if w.slowBusy g then (s, none)
  else ({ s with focus := some id }, some (if g.phase.isSlow then .slowGearComplete id else .spanSeal id))

/-- The boundary instruction a group has come to: after the seal of its span, once what it waits for has landed (R45, R79, R82). A
SEAL waits itself for what it does not name. -/
def State.issueBoundary (s : State) (id : WarpId) (g : Issue) (i : Instr) : State × Option Instr :=
  let w := s.warp id
  let lands := match i with
    | .sealExt _ => true
    | .sealBase _ _ => true
    | _ => w.landed g.lanes
  if g.phase ≠ .sealed ∧ g.count ≠ 0 then s.nextSpan id g
  else if w.scoreboard g i || s.nancBusy id i || !lands then (s, none)
  else ({ s with focus := some id }, some i)

/-- The instruction decode finds for a group is kept until it has issued: a boundary one behind the seal, another unless it starts the
next span, once the scoreboard lets it (R45, R79). -/
def State.issueDecoded (s : State) (id : WarpId) (g : Issue) (i : Instr) : State × Option Instr :=
  let w := s.warp id
  let g1 := { g with held := some i }
  let s1 := s.setWarp id { w with cur := some g1 }
  if i.form.boundary then s1.issueBoundary id g1 i
  else if g.phase = .sealed ∨ 24 ≤ g.count then s.nextSpan id g
  else if w.slowBusy g || w.scoreboard g i || s.nancBusy id i then (s1, none)
  else ({ s1 with focus := some id }, some i)

/-- A fault decode finds for a group (R51): of the next span's first instruction it is met there (log entry 64); after a recorded span
fault it is left to the slow gear (R294), whose record it may then be (R296). -/
def State.issueFault (s : State) (id : WarpId) (g : Issue) (lane : Nat) (f : FaultInfo) (boundary : Bool) : State × Option Instr :=
  if g.phase = .sealed ∨ (24 ≤ g.count ∧ !boundary) then s.nextSpan id g
  else if g.phase.isSlow then ({ s.setPhase id (g.phase.find (lane, f)) with focus := some id }, some (.slowGearComplete id))
  else if ((s.warp id).firstRecorded g).isSome then ({ s with focus := some id }, some (.spanSeal id))
  else (s.decodeFault id lane f, none)

/-- The group at work in a warp moves. -/
def State.issueGroup (s : State) (id : WarpId) (g : Issue) : State × Option Instr :=
  match g.overrun, g.phase, g.held with
  | some l, _, _ => ({ s with focus := some id }, some (.watchdogFault ⟨id, l⟩))
  | none, .reported _ _ _, _ => (s, none)
  | none, .mismatch, _ => (s, none)
  | none, .slow _ _ _ _ (some _), _ => ({ s with focus := some id }, some (.slowGearComplete id))
  | none, _, some i => if i.form.boundary then s.issueBoundary id g i else s.issueDecoded id g i
  | none, _, none =>
    match s.decodeAt id g with
    | (s1, .instr i) => s1.issueDecoded id g i
    | (s1, .fault l f boundary) => s1.issueFault id g l f boundary
    | (s1, .wait) => (s1, none)
    | (s1, .broken) =>
      if g.phase = .sealed ∨ 24 ≤ g.count then s1.nextSpan id g
      else
        (s1.gangFault id.gang 0x1B { thread := some ⟨id, g.lanes.headD 0⟩, pc := g.pc.toNat, entry := g.entry.toNat, core := s1.coreOf id }, none)

/-- A warp's turn. -/
def State.issueWarp (s : State) (id : WarpId) : State × Option Instr :=
  let w := s.warp id
  if !s.issues id.gang then (s, none)
  else if (s.launch id.gang.part id.gang.launch).ending.isSome ∧ w.spanOpen.isNone then (s.endLanes id.gang, none)
  else
    match w.cur with
    | some g => s.issueGroup id g
    | none => (s, none)

/-! ### Issue slots (R277, R278) -/

/-- What a group makes of a lane when it comes to its instruction once more: the lane stays there, and nothing of it or of its partition's
settlements changes. -/
def sameAgain (a b : State) (t : ThreadId) : Bool :=
  a.thread t == b.thread t && (a.part t.gang.part).settles == (b.part t.gang.part).settles

/-- The group at a PC cannot issue: it was held at its instruction, and this would hold it again (R276). -/
def State.groupHeld (s : State) (id : WarpId) (pc : Dword) : Bool :=
  let lanes := (s.warp id).lanesAt pc
  (lanes.all fun l => ((s.warp id).thread l).stalled) &&
    (let s1 := { s.formGroup id pc with focus := some id }
     match (s1.warp id).cur with
     | none => false
     | some g =>
       match (s1.decodeAt id g).2 with
       | .instr i =>
         (match exec i s1 with
          | .next r => lanes.all fun l => sameAgain r s1 ⟨id, l⟩
          | _ => false)
       | _ => false)

/-- The ready lanes of a warp whose groups can issue (R276). -/
def State.canIssue (s : State) (w : WarpId × Warp) : List (Nat × Thread) :=
  let ready := w.2.lanes.filter fun l => l.2.wait == .ready
  let held := (distinct ((ready.filter fun l => l.2.stalled).map fun l => l.2.pc)).filter (s.groupHeld w.1)
  ready.filter fun l => !(l.2.stalled && held.contains l.2.pc)

/-- The PC whose ready lanes have waited longest since they last issued, the lowest lane first of equals (R277). -/
def State.nextPc (s : State) (w : WarpId × Warp) : Option Dword :=
  (leastBy (fun a b => decide (a.2.lastIssue < b.2.lastIssue)) (s.canIssue w)).map fun l => l.2.pc

/-- When the ready group of a warp that has waited longest last issued. -/
def State.lastMove (s : State) (w : WarpId × Warp) : Nat :=
  match (s.canIssue w).map fun l => l.2.lastIssue with
  | [] => s.clk
  | a :: l => l.foldl min a

/-- One warp comes before another in R278; each stands beside the clk of its last move. -/
def State.issuesBefore (s : State) (a b : WarpId × Nat) : Bool :=
  let wa := s.clk - a.2
  let wb := s.clk - b.2
  let pa := (s.header a.1.gang).prio
  let pb := (s.header b.1.gang).prio
  let sa := (s.wg a.1.wg).slot
  let sb := (s.wg b.1.wg).slot
  let longer := if wa ≠ wb then decide (wb < wa) else if sa ≠ sb then decide (sa < sb) else decide (a.1.warp < b.1.warp)
  if 4096 ≤ wa ∨ 4096 ≤ wb then longer else if pa ≠ pb then decide (pb < pa) else longer

/-- The launch of a warp ends: its lanes start no further span (R98). -/
def State.warpEnds (s : State) (id : WarpId) : Bool := (s.launch id.gang.part id.gang.launch).ending.isSome

/-- A warp with a ready group waits for an issue slot. -/
def State.seeksSlot (s : State) (w : WarpId × Warp) : Bool :=
  w.2.cur.isNone && s.issues w.1.gang && !s.warpEnds w.1 && s.canIssue w != []

/-- The warps that hold a core's issue slots. -/
def State.slotsHeld (s : State) (core : Nat) : Nat := (s.warps.filter fun w => w.2.cur.isSome && s.coreOf w.1 == core).length

/-- The warps of a core that wait for an issue slot, each with the clk of its last move. -/
def State.seekers (s : State) (core : Nat) : List (WarpId × Nat) :=
  (s.warps.filter fun w => s.coreOf w.1 == core && s.seeksSlot w).map fun w => (w.1, s.lastMove w)

/-- n free issue slots of a core are given, each to the first warp of R278; its group forms. -/
def State.giveSlots (s : State) (core : Nat) : Nat → State
  | 0 => s
  | n + 1 =>
    match leastBy s.issuesBefore (s.seekers core) with
    | none => s
    | some w =>
      match s.nextPc (w.1, s.warp w.1) with
      | none => s
      | some pc => (s.formGroup w.1 pc).giveSlots core n

/-- Every core gives its free issue slots (R278). -/
def State.grantSlots (s : State) : State :=
  (distinct ((s.warps.filter s.seeksSlot).map fun w => s.coreOf w.1)).foldl
    (fun acc c => acc.giveSlots c (Config.issueSlots - acc.slotsHeld c)) s

/-- n clk pass; the free issue slots are given in the first of them, after which none is left to give. -/
def State.passTurn (s : State) (n : Nat) : State := if n = 0 then s else (s.watchHeads.pass 1).grantSlots.pass (n - 1)

/-- A warp's turn would come after one of the same clk on its core that it has to stand before: groups of one clk move in ascending
warp order, then in ascending workgroup slot order (R190, R253; log entry 65). -/
def State.outOfTurn (s : State) (id : WarpId) : Bool :=
  match tbGet s.lastTurns (s.coreOf id) with
  | none => false
  | some l =>
    l.clk == s.clk && (decide (id.warp < l.warp) || (id.warp == l.warp && decide ((s.wg id.wg).slot < l.slot)))

/-- The turn of a warp is noted at its core. -/
def State.noteTurn (s : State) (id : WarpId) : State :=
  { s with lastTurns := tbSet s.lastTurns (s.coreOf id) ⟨s.clk, id.warp, (s.wg id.wg).slot⟩ }

/-! ### What may come next -/

/-- What a turn of the default order does: an event's effect, or a warp's turn. -/
abbrev Move := State → State × Option Instr

/-- An event's effect as a turn. -/
def eventMove (f : State → State) : Move := fun s => (f { s with focus := none }, none)

/-- The accesses that can move to their next stage: those whose bytes have not to wait for an engine (R350). -/
def State.dueAccesses (s : State) : List Move :=
  let moves := fun (a : Access) =>
    s.canPerform a && (s.accessSlices a).all fun x =>
      (s.part a.gang.part).sliced x.owner || !(s.part a.gang.part).slices.any fun y => y.owner == x.owner
  ((s.dieQ.filter moves) ++ s.coreQ.filter s.canStage).map fun a => eventMove fun s => s.stepAccess a.id

/-- The result that can land in a lane. -/
def Thread.dueLanding (th : Thread) (t : ThreadId) : List Move :=
  match th.landable with
  | some p => [eventMove fun s => s.give (.thread t) fun th => th.landOne p.id]
  | none => []

/-- What a waiting lane's event would be. -/
def Wait.due (w : Wait) (t : ThreadId) : List Move :=
  match w with
  | .nap _ _ _ => [eventMove fun s => s.napEnd t]
  | .napTurn _ _ => [eventMove fun s => s.napEnd t]
  | .ldlt _ _ _ _ (some _) _ _ => [eventMove fun s => s.ldltTimeout t]
  | .exitWait => [eventMove fun s => s.exitComplete t]
  | _ => []

/-- The slow gear a warp waits for. -/
def Warp.waitsSlow (w : Warp) : Bool :=
  match w.cur with
  | none => false
  | some g =>
    match g.phase with
    | .reported _ _ _ => true
    | .mismatch => true
    | _ => false

/-- The events of a warp: results that land, its slow gear, its operand log, its waiting lanes. -/
def State.dueWarpEvents (s : State) (id : WarpId) (w : Warp) : List Move :=
  (if w.waitsSlow && s.issues id.gang then [eventMove fun s => s.startSlow id] else []) ++
    (if w.log = [] then [] else [eventMove fun s => s.replayLog id]) ++
    w.lanes.flatMap fun l => l.2.dueLanding ⟨id, l.1⟩ ++ l.2.wait.due ⟨id, l.1⟩

/-- The events of a core's queues, tracker and matrix FIFO. -/
def Core.dueEvents (c : Core) (n : Nat) : List Move :=
  (if c.copyQ.isEmpty then [] else [eventMove fun s => s.copyComplete n]) ++
    (if c.bulkQ.isEmpty then [] else [eventMove fun s => s.walkTileComplete n, eventMove fun s => s.bulkComplete n]) ++
    (if c.mcastQ.isEmpty then [] else [eventMove fun s => s.mcastParked n, eventMove fun s => s.mcrecvComplete n]) ++
    (if c.matQ.isEmpty then [] else [eventMove fun s => s.matrixStart n, eventMove fun s => s.matrixComplete n]) ++
    c.tracker.map fun e => eventMove fun s => s.trackerFree n e.1

/-- The events of a gang's state (Table 14-1). -/
def Gang.dueEvents (q : Gang) (g : GangId) : List Move :=
  (if q.parked = [] then [] else [eventMove fun s => s.mcastParked q.topCore]) ++
  (match q.state with
   | .placing => [eventMove fun s => s.placementDone g]
   | .running => [eventMove fun s => s.gangRetire g]
   | .retiring => [eventMove fun s => s.gangRetire g]
   | .draining => [eventMove fun s => s.drainComplete g, eventMove fun s => s.gangRetire g]
   | .saving => [eventMove fun s => s.saveComplete g]
   | .saved => [eventMove fun s => s.gangResume g]
   | .resuming => [eventMove fun s => s.resumeComplete g]
   | _ => [])

/-- The events of a launch. -/
def Launch.dueEvents (p n mode : Nat) : List Move :=
  if n = 0 then []
  else
    [eventMove fun s => s.launchMerge p n, eventMove fun s => s.launchEnd p n] ++
      (if mode = 3 then [eventMove fun s => s.stuckAdmit p n] else [])

/-- The events of a partition: Badger, its queues, its launches, its regions. -/
def State.duePart (s : State) (p : Nat) (q : Part) : List Move :=
  (q.settles.map fun x => eventMove fun s => s.badger p x.va) ++
    (q.evicts.map fun x => eventMove fun s => s.evictDone p x.va true) ++
    (q.hostEntries.map fun e => eventMove fun s => s.faultTimeout (fnOf p) e.seq) ++
    (q.regions.map fun r => eventMove fun s => s.owlRound p r.1) ++
    (if q.queue = [] && !s.dies.any (fun d => d.2.reserved.any fun r => r.1 == p) then []
     else (s.diesOf p).map fun d => eventMove fun s => s.handOut p d) ++
    (if q.deadlineBudget = 0 then [] else [eventMove fun s => s.preemptStart p]) ++
    q.launches.flatMap fun l => Launch.dueEvents p l.1 q.mode

/-- The command a function's ring holds next. -/
def State.dueCommand (s : State) (fn : Nat) : List Move :=
  if s.hasCmd fn then [eventMove fun s => s.nightjar fn] else []

/-- The engines of R350 that have bytes to move. -/
def State.dueSlices (s : State) : List Move :=
  ((natsFrom 0 3).filter fun e => (s.nextSlice e).isSome).map fun e => eventMove fun s => s.sliceStart e

/-- The start-up functions that can finish, or have missed their bound. -/
def State.dueStart (s : State) : List Move :=
  ((natsFrom 0 78).filter s.starting).map fun b => eventMove fun s => if s.boundPassed b then s.startMissed b else s.startUp b

/-- The warps that move: those that hold an issue slot, and those whose launch ends. -/
def State.dueWarps (s : State) : List WarpId :=
  (s.warps.filter fun w => s.issues w.1.gang && (w.2.cur.isSome || (w.2.readyLanes != [] && s.warpEnds w.1))).map Prod.fst

/-- All that may come next: the warps that move, and the events that may be due; one that is not leaves the state as it is. -/
def State.dueMoves (s : State) : List Move :=
  (s.dueWarps.map fun id => fun (a : State) => a.issueWarp id) ++ s.dueAccesses ++
    (s.warps.flatMap fun w => s.dueWarpEvents w.1 w.2) ++ (s.cores.flatMap fun c => c.2.dueEvents c.1) ++
    (s.gangs.flatMap fun g => g.2.dueEvents g.1) ++ (s.parts.flatMap fun q => s.duePart q.1 q.2) ++
    (s.deltas.map fun d => eventMove fun s => s.owlMerge d.id) ++
    ((s.dies.filter fun d => d.2.handed != []).map fun d => eventMove fun s => s.placeNext d.1) ++
    (s.gateQ.map fun a => eventMove fun s => s.gateTimeout a.id) ++ (natsFrom 0 17).flatMap s.dueCommand ++ s.dueSlices ++ s.dueStart

/-- The default order: one clk passes, and what may come next takes its turn by the clk; a grant of R351 comes first (log entry 1). -/
def State.defaultTurn (s : State) : State × Option Instr :=
  let due := s.dueMoves
  let s1 := (s.passTurn 1).budgetRefill
  match due[s.clk % due.length]? with
  | some f => f s1
  | none => (s1, none)

/-- A turn the state lists: the errors that strike memory, then a warp's turn or an event. -/
def State.listedTurn (s : State) (t : Turn) : State × Option Instr :=
  let s1 := t.upsets.foldl State.strike (s.passTurn t.clk)
  match t.act with
  | .warp id => if s1.outOfTurn id then (s1, none) else (s1.noteTurn id).issueWarp id
  | .event i => if i.form.ok ∨ i.words ≠ 0 then (s1, none) else ({ s1 with focus := none }, some i)

/-- The instruction or the event the next turn brings, none where it only changes the state it returns: the turn the state lists first,
else the default order's. -/
def State.turnOf (s : State) : State × Option Instr :=
  match s.turns with
  | t :: rest => { s with turns := rest }.listedTurn t
  | [] => s.defaultTurn

end Sys2Proof.Machine
end

