-- ==== Sys2Proof/Machine/Step.lean ====
section
/-! DEFINITION. One step, and the placing of one instruction where the next step fetches. -/

namespace Sys2Proof.Machine

/-- One step: what the next turn brings (log entry 1). -/
def step (s : State) : Host.Outcome State Fault Refusal :=
  match s.turnOf with
  | (s1, some i) => exec i s1
  | (s1, none) => .next s1

/-- The state with one instruction stored at the entry of partition 0's root gang and that gang's warp to move next: it stands for
a CREATE whose image holds the instruction (log entry 9). -/
def State.withFetchWord (s : State) (nbits w : Nat) : State := s.placeProgram (natBytes 20 (w % 2 ^ nbits))

end Sys2Proof.Machine
end

