-- ==== Sys2Proof/Laws/Encoding.lean ====
section
/-! SUPPORT. The decoder reads what the encoder writes: words, fields and the three layouts (spec/02 R35, Tables 2-2, 2-4, 2-5). -/

namespace Sys2Proof.Laws

theorem wordsOfBytes_bytesOfWord (w : Word) (bs : List Byte) :
    wordsOfBytes (bytesOfWord w ++ bs) = w :: wordsOfBytes bs := by
  have h : (field w 24 8 ++ field w 16 8 ++ field w 8 8 ++ field w 0 8 : BitVec 32) = w := by
    apply BitVec.eq_of_getLsbD_eq
    intro i hi
    simp only [field, BitVec.getLsbD_append, BitVec.getLsbD_extractLsb']
    grind
  simp only [bytesOfWord, List.cons_append, List.nil_append, wordsOfBytes, h]

theorem wordsOfBytes_bytesOfWords (ws : List Word) (bs : List Byte) :
    wordsOfBytes (bytesOfWords ws ++ bs) = ws ++ wordsOfBytes bs := by
  induction ws with
  | nil => rfl
  | cons w ws ih => rw [bytesOfWords, List.append_assoc, wordsOfBytes_bytesOfWord, ih, List.cons_append]

theorem pairOf_split (v : Dword) : pairOf (lowHalf v) (v.extractLsb' 32 32) = v := by
  apply BitVec.eq_of_getLsbD_eq
  intro i hi
  simp only [pairOf, lowHalf, BitVec.getLsbD_append, BitVec.getLsbD_extractLsb', BitVec.getLsbD_setWidth]
  grind

/-- Two bit vectors agree when their bits do, for the fields of an appended word. -/
theorem field_eq {n : Nat} (w : Word) (lo : Nat) (v : BitVec n) (h : ∀ i, i < n → w.getLsbD (lo + i) = v.getLsbD i) :
    field w lo n = v := by
  apply BitVec.eq_of_getLsbD_eq
  intro i hi
  simp only [field, BitVec.getLsbD_extractLsb', hi, decide_true, Bool.true_and]
  exact h i hi

section fields
variable (modA : BitVec 6) (retain len : BitVec 2) (la guard : BitVec 4) (minor : BitVec 8) (major : BitVec 6)

/-- Word 0 of the extended form. -/
def extWord0 : Word := modA ++ retain ++ la ++ guard ++ minor ++ major ++ len

theorem ext_len : field (extWord0 modA retain len la guard minor major) 0 2 = len := by
  apply field_eq; intro i hi; simp only [extWord0, BitVec.getLsbD_append]; grind
theorem ext_major : field (extWord0 modA retain len la guard minor major) 2 6 = major := by
  apply field_eq; intro i hi; simp only [extWord0, BitVec.getLsbD_append]; grind
theorem ext_minor : field (extWord0 modA retain len la guard minor major) 8 8 = minor := by
  apply field_eq; intro i hi; simp only [extWord0, BitVec.getLsbD_append]; grind
theorem ext_guard : field (extWord0 modA retain len la guard minor major) 16 4 = guard := by
  apply field_eq; intro i hi; simp only [extWord0, BitVec.getLsbD_append]; grind
theorem ext_la : field (extWord0 modA retain len la guard minor major) 20 4 = la := by
  apply field_eq; intro i hi; simp only [extWord0, BitVec.getLsbD_append]; grind
theorem ext_retain : field (extWord0 modA retain len la guard minor major) 24 2 = retain := by
  apply field_eq; intro i hi; simp only [extWord0, BitVec.getLsbD_append]; grind
theorem ext_modA : field (extWord0 modA retain len la guard minor major) 26 6 = modA := by
  apply field_eq; intro i hi; simp only [extWord0, BitVec.getLsbD_append]; grind
end fields

section operands
variable (modB : BitVec 5) (a b c d : RegIdx) (imm : BitVec 23)

/-- Word 1 of the extended form. -/
def extWord1 : Word := modB ++ b ++ a ++ d
/-- Word 2 of the extended form. -/
def extWord2 : Word := imm ++ c

theorem ext_modB : field (extWord1 modB a b d) 27 5 = modB := by
  apply field_eq; intro i hi; simp only [extWord1, BitVec.getLsbD_append]; grind
theorem ext_d : field (extWord1 modB a b d) 0 9 = d := by
  apply field_eq; intro i hi; simp only [extWord1, BitVec.getLsbD_append]; grind
theorem ext_a : field (extWord1 modB a b d) 9 9 = a := by
  apply field_eq; intro i hi; simp only [extWord1, BitVec.getLsbD_append]; grind
theorem ext_b : field (extWord1 modB a b d) 18 9 = b := by
  apply field_eq; intro i hi; simp only [extWord1, BitVec.getLsbD_append]; grind
theorem ext_c : field (extWord2 c imm) 0 9 = c := by
  apply field_eq; intro i hi; simp only [extWord2, BitVec.getLsbD_append]; grind
theorem ext_imm : field (extWord2 c imm) 9 23 = imm := by
  apply field_eq; intro i hi; simp only [extWord2, BitVec.getLsbD_append]; grind
end operands

/-- The words of an extended instruction, by name. -/
theorem encodeExt_eq (major : BitVec 6) (minor : BitVec 8) (x : Ext) :
    encodeExt major minor x =
      extWord0 x.modA x.retain (if x.lit.isSome then 3 else 1) x.la x.guard minor major ::
        extWord1 x.modB x.a x.b x.d :: extWord2 x.c x.imm :: litWords x.lit := rfl

/-- Accepting a well-formed instruction. -/
theorem accept_ok {i : Instr} (h : i.wf = true) : accept (some i) = .ok i := by simp [accept, h]

/-- The decoder reads an extended instruction back from its words. -/
theorem decodeWords_ext {major : BitVec 6} {minor : BitVec 8} {x : Ext} {i : Instr} (rest : List Word)
    (hi : extInstr major.toNat minor.toNat x = some i) (hw : i.wf = true) :
    decodeWords (encodeExt major minor x ++ rest) = .ok i := by
  obtain ⟨guard, la, retain, modA, modB, d, a, b, c, imm, lit⟩ := x
  rw [encodeExt_eq]
  cases lit with
  | none =>
    simp only [Option.isSome_none, Bool.false_eq_true, if_false, litWords, List.cons_append, List.nil_append, decodeWords, ext_len]
    simp only [show (1 : BitVec 2).toNat = 1 from rfl, extWords, extFields, ext_major, ext_minor, ext_guard, ext_la, ext_retain,
      ext_modA, ext_modB, ext_d, ext_a, ext_b, ext_c, ext_imm, hi]
    exact accept_ok hw
  | some v =>
    simp only [Option.isSome_some, if_true, litWords, List.cons_append, List.nil_append, decodeWords, ext_len]
    simp only [show (3 : BitVec 2).toNat = 3 from rfl, extWords, extFields, ext_major, ext_minor, ext_guard, ext_la, ext_retain,
      ext_modA, ext_modB, ext_d, ext_a, ext_b, ext_c, ext_imm, pairOf_split, hi]
    exact accept_ok hw

section base
variable (len : BitVec 2) (major minor : BitVec 6) (d b : RegIdx) (imm : BitVec 15) (payload : BitVec 24)

/-- A base RR word. -/
def rrWord : Word := minor ++ b ++ d ++ major ++ len
/-- A base RI word. -/
def riWord : Word := imm ++ d ++ major ++ len
/-- A base SY word. -/
def syWord : Word := payload ++ major ++ (0 : BitVec 2)

theorem rr_len : field (rrWord len major minor d b) 0 2 = len := by
  apply field_eq; intro i hi; simp only [rrWord, BitVec.getLsbD_append]; grind
theorem rr_major : field (rrWord len major minor d b) 2 6 = major := by
  apply field_eq; intro i hi; simp only [rrWord, BitVec.getLsbD_append]; grind
theorem rr_minor : field (rrWord len major minor d b) 26 6 = minor := by
  apply field_eq; intro i hi; simp only [rrWord, BitVec.getLsbD_append]; grind
theorem rr_d : field (rrWord len major minor d b) 8 9 = d := by
  apply field_eq; intro i hi; simp only [rrWord, BitVec.getLsbD_append]; grind
theorem rr_b : field (rrWord len major minor d b) 17 9 = b := by
  apply field_eq; intro i hi; simp only [rrWord, BitVec.getLsbD_append]; grind
theorem ri_len : field (riWord len major d imm) 0 2 = len := by
  apply field_eq; intro i hi; simp only [riWord, BitVec.getLsbD_append]; grind
theorem ri_major : field (riWord len major d imm) 2 6 = major := by
  apply field_eq; intro i hi; simp only [riWord, BitVec.getLsbD_append]; grind
theorem ri_d : field (riWord len major d imm) 8 9 = d := by
  apply field_eq; intro i hi; simp only [riWord, BitVec.getLsbD_append]; grind
theorem ri_imm : field (riWord len major d imm) 17 15 = imm := by
  apply field_eq; intro i hi; simp only [riWord, BitVec.getLsbD_append]; grind
theorem sy_len : field (syWord major payload) 0 2 = 0 := by
  apply field_eq; intro i hi; simp only [syWord, BitVec.getLsbD_append]; grind
theorem sy_major : field (syWord major payload) 2 6 = major := by
  apply field_eq; intro i hi; simp only [syWord, BitVec.getLsbD_append]; grind
/-- A field of the payload of a SY word. -/
theorem sy_field (lo n : Nat) (_h : lo + n ≤ 24) : field (syWord major payload) (8 + lo) n = payload.extractLsb' lo n := by
  apply field_eq
  intro i hi
  simp only [syWord, BitVec.getLsbD_append, BitVec.getLsbD_extractLsb']
  grind
end base

/-- The decoder reads a base RR instruction back, where it is one of the four RR majors. -/
theorem decodeWords_rr {major minor : BitVec 6} {d b : RegIdx} {lit : Option Dword} {i : Instr} (rest : List Word)
    (hi : baseInstr (rrWord (if lit.isSome then 2 else 0) major minor d b) lit = some i) (hw : i.wf = true) :
    decodeWords (encodeRR major minor d b lit ++ rest) = .ok i := by
  change decodeWords ((rrWord (if lit.isSome then 2 else 0) major minor d b :: litWords lit) ++ rest) = .ok i
  cases lit with
  | none =>
    simp only [Option.isSome_none, Bool.false_eq_true, if_false] at hi ⊢
    simp only [litWords, List.cons_append, List.nil_append, decodeWords, rr_len]
    simp only [show (0 : BitVec 2).toNat = 0 from rfl, hi]
    exact accept_ok hw
  | some v =>
    simp only [Option.isSome_some, if_true] at hi ⊢
    simp only [litWords, List.cons_append, List.nil_append, decodeWords, rr_len]
    simp only [show (2 : BitVec 2).toNat = 2 from rfl, pairOf_split, hi]
    exact accept_ok hw

/-- The decoder reads a base RI instruction back. -/
theorem decodeWords_ri {major : BitVec 6} {d : RegIdx} {imm : BitVec 15} {lit : Option Dword} {i : Instr} (rest : List Word)
    (hi : baseInstr (riWord (if lit.isSome then 2 else 0) major d imm) lit = some i) (hw : i.wf = true) :
    decodeWords (encodeRI major d imm lit ++ rest) = .ok i := by
  change decodeWords ((riWord (if lit.isSome then 2 else 0) major d imm :: litWords lit) ++ rest) = .ok i
  cases lit with
  | none =>
    simp only [Option.isSome_none, Bool.false_eq_true, if_false] at hi ⊢
    simp only [litWords, List.cons_append, List.nil_append, decodeWords, ri_len]
    simp only [show (0 : BitVec 2).toNat = 0 from rfl, hi]
    exact accept_ok hw
  | some v =>
    simp only [Option.isSome_some, if_true] at hi ⊢
    simp only [litWords, List.cons_append, List.nil_append, decodeWords, ri_len]
    simp only [show (2 : BitVec 2).toNat = 2 from rfl, pairOf_split, hi]
    exact accept_ok hw

/-- The decoder reads a base SY instruction back. -/
theorem decodeWords_sy {major : BitVec 6} {payload : BitVec 24} {i : Instr} (rest : List Word)
    (hi : baseInstr (syWord major payload) none = some i) (hw : i.wf = true) :
    decodeWords (encodeSY major payload ++ rest) = .ok i := by
  change decodeWords ([syWord major payload] ++ rest) = .ok i
  simp only [List.cons_append, List.nil_append, decodeWords, sy_len]
  simp only [show (0 : BitVec 2).toNat = 0 from rfl, hi]
  exact accept_ok hw

/-- A base RR word of major 0x01. -/
theorem baseInstr_int (len : BitVec 2) (minor : BitVec 6) (d b : RegIdx) (lit : Option Dword) :
    baseInstr (rrWord len 1 minor d b) lit = baseInt minor.toNat d b lit := by
  simp only [baseInstr, rr_major, rr_minor, rr_d, rr_b]; rfl

/-- A base RR word of major 0x02. -/
theorem baseInstr_bit (len : BitVec 2) (minor : BitVec 6) (d b : RegIdx) (lit : Option Dword) :
    baseInstr (rrWord len 2 minor d b) lit = baseBit minor.toNat d b lit := by
  simp only [baseInstr, rr_major, rr_minor, rr_d, rr_b]; rfl

/-- A base RR word of major 0x03. -/
theorem baseInstr_fp32 (len : BitVec 2) (minor : BitVec 6) (d b : RegIdx) (lit : Option Dword) :
    baseInstr (rrWord len 3 minor d b) lit = baseFp32 minor.toNat d b lit := by
  simp only [baseInstr, rr_major, rr_minor, rr_d, rr_b]; rfl

/-- A base RR word of major 0x04. -/
theorem baseInstr_mov (len : BitVec 2) (minor : BitVec 6) (d b : RegIdx) (lit : Option Dword) :
    baseInstr (rrWord len 4 minor d b) lit = baseMov minor.toNat d b lit := by
  simp only [baseInstr, rr_major, rr_minor, rr_d, rr_b]; rfl

end Sys2Proof.Laws
end

