-- ==== Sys2Proof/Laws/PerInstr.lean ====
section
/-! SUPPORT. Decode and encode agree, one lemma per constructor of Instr (spec/02 R35 to R48). -/

namespace Sys2Proof.Laws.EncodeRoundTrip

/-- The decoder reads a well-formed instruction back from its bytes, whatever follows them. -/
def Statement (i : Instr) : Prop := i.wf = true → ∀ rest : List Byte, decode (encode i ++ rest) = .ok i

theorem of_words {i : Instr} (h : i.wf = true → ∀ rest : List Word, decodeWords (encodeWords i ++ rest) = .ok i) : Statement i := by
  intro hw rest
  rw [encode, decode, wordsOfBytes_bytesOfWords]
  exact h hw _

theorem ext {major : BitVec 6} {minor : BitVec 8} {x : Ext} {i : Instr} (he : encodeWords i = encodeExt major minor x)
    (hi : i.wf = true → extInstr major.toNat minor.toNat x = some i) : Statement i :=
  of_words fun hw rest => by rw [he]; exact decodeWords_ext rest (hi hw) hw

theorem rr {major minor : BitVec 6} {d b : RegIdx} {lit : Option Dword} {i : Instr} (he : encodeWords i = encodeRR major minor d b lit)
    (hi : ∀ len, baseInstr (rrWord len major minor d b) lit = some i) : Statement i :=
  of_words fun hw rest => by rw [he]; exact decodeWords_rr rest (hi _) hw

theorem ri {major : BitVec 6} {d : RegIdx} {imm : BitVec 15} {lit : Option Dword} {i : Instr}
    (he : encodeWords i = encodeRI major d imm lit)
    (hi : ∀ len, baseInstr (riWord len major d imm) lit = some i) : Statement i :=
  of_words fun hw rest => by rw [he]; exact decodeWords_ri rest (hi _) hw

theorem sy {major : BitVec 6} {payload : BitVec 24} {i : Instr} (he : encodeWords i = encodeSY major payload)
    (hi : baseInstr (syWord major payload) none = some i) : Statement i :=
  of_words fun hw rest => by rw [he]; exact decodeWords_sy rest hi hw

/-- A step without a well-formed encoding. -/
theorem stepOnly {i : Instr} (h : i.wf = false) : Statement i := fun hw => by rw [h] at hw; cases hw

theorem iaddBase (d : RegIdx) (b : RegIdx) (lit : Option Dword) : Statement (.iaddBase d b lit) := rr rfl fun _ => baseInstr_int _ _ _ _ _
theorem isubBase (d : RegIdx) (b : RegIdx) (lit : Option Dword) : Statement (.isubBase d b lit) := rr rfl fun _ => baseInstr_int _ _ _ _ _
theorem iaddcBase (d : RegIdx) (b : RegIdx) (lit : Option Dword) : Statement (.iaddcBase d b lit) := rr rfl fun _ => baseInstr_int _ _ _ _ _
theorem iminBase (d : RegIdx) (b : RegIdx) (lit : Option Dword) : Statement (.iminBase d b lit) := rr rfl fun _ => baseInstr_int _ _ _ _ _
theorem imaxBase (d : RegIdx) (b : RegIdx) (lit : Option Dword) : Statement (.imaxBase d b lit) := rr rfl fun _ => baseInstr_int _ _ _ _ _
theorem iabsBase (d : RegIdx) : Statement (.iabsBase d) := rr rfl fun _ => baseInstr_int _ _ _ _ _
theorem inegBase (d : RegIdx) : Statement (.inegBase d) := rr rfl fun _ => baseInstr_int _ _ _ _ _
theorem iaminBase (d : RegIdx) (b : RegIdx) (lit : Option Dword) : Statement (.iaminBase d b lit) := rr rfl fun _ => baseInstr_int _ _ _ _ _
theorem iamaxBase (d : RegIdx) (b : RegIdx) (lit : Option Dword) : Statement (.iamaxBase d b lit) := rr rfl fun _ => baseInstr_int _ _ _ _ _
theorem isadBase (d : RegIdx) (b : RegIdx) (lit : Option Dword) : Statement (.isadBase d b lit) := rr rfl fun _ => baseInstr_int _ _ _ _ _
theorem iadd64Base (d : RegIdx) (b : RegIdx) (lit : Option Dword) : Statement (.iadd64Base d b lit) := rr rfl fun _ => baseInstr_int _ _ _ _ _
theorem isub64Base (d : RegIdx) (b : RegIdx) (lit : Option Dword) : Statement (.isub64Base d b lit) := rr rfl fun _ => baseInstr_int _ _ _ _ _
theorem shlBase (d : RegIdx) (b : RegIdx) (lit : Option Dword) : Statement (.shlBase d b lit) := rr rfl fun _ => baseInstr_bit _ _ _ _ _
theorem shrBase (d : RegIdx) (b : RegIdx) (lit : Option Dword) : Statement (.shrBase d b lit) := rr rfl fun _ => baseInstr_bit _ _ _ _ _
theorem sarBase (d : RegIdx) (b : RegIdx) (lit : Option Dword) : Statement (.sarBase d b lit) := rr rfl fun _ => baseInstr_bit _ _ _ _ _
theorem rotlBase (d : RegIdx) (b : RegIdx) (lit : Option Dword) : Statement (.rotlBase d b lit) := rr rfl fun _ => baseInstr_bit _ _ _ _ _
theorem bandBase (d : RegIdx) (b : RegIdx) (lit : Option Dword) : Statement (.bandBase d b lit) := rr rfl fun _ => baseInstr_bit _ _ _ _ _
theorem borBase (d : RegIdx) (b : RegIdx) (lit : Option Dword) : Statement (.borBase d b lit) := rr rfl fun _ => baseInstr_bit _ _ _ _ _
theorem bxorBase (d : RegIdx) (b : RegIdx) (lit : Option Dword) : Statement (.bxorBase d b lit) := rr rfl fun _ => baseInstr_bit _ _ _ _ _
theorem bnotBase (d : RegIdx) : Statement (.bnotBase d) := rr rfl fun _ => baseInstr_bit _ _ _ _ _
theorem bool3Base (d : RegIdx) (b : RegIdx) (lit : Option Dword) : Statement (.bool3Base d b lit) := rr rfl fun _ => baseInstr_bit _ _ _ _ _
theorem popcBase (d : RegIdx) : Statement (.popcBase d) := rr rfl fun _ => baseInstr_bit _ _ _ _ _
theorem clzBase (d : RegIdx) : Statement (.clzBase d) := rr rfl fun _ => baseInstr_bit _ _ _ _ _
theorem ctzBase (d : RegIdx) : Statement (.ctzBase d) := rr rfl fun _ => baseInstr_bit _ _ _ _ _
theorem brevBase (d : RegIdx) : Statement (.brevBase d) := rr rfl fun _ => baseInstr_bit _ _ _ _ _
theorem bfeBase (d : RegIdx) (b : RegIdx) (lit : Option Dword) : Statement (.bfeBase d b lit) := rr rfl fun _ => baseInstr_bit _ _ _ _ _
theorem bfiBase (d : RegIdx) (b : RegIdx) (lit : Option Dword) : Statement (.bfiBase d b lit) := rr rfl fun _ => baseInstr_bit _ _ _ _ _
theorem funnelBase (d : RegIdx) (b : RegIdx) (lit : Option Dword) : Statement (.funnelBase d b lit) := rr rfl fun _ => baseInstr_bit _ _ _ _ _
theorem shl64Base (d : RegIdx) (b : RegIdx) (lit : Option Dword) : Statement (.shl64Base d b lit) := rr rfl fun _ => baseInstr_bit _ _ _ _ _
theorem shr64Base (d : RegIdx) (b : RegIdx) (lit : Option Dword) : Statement (.shr64Base d b lit) := rr rfl fun _ => baseInstr_bit _ _ _ _ _
theorem sar64Base (d : RegIdx) (b : RegIdx) (lit : Option Dword) : Statement (.sar64Base d b lit) := rr rfl fun _ => baseInstr_bit _ _ _ _ _
theorem faddBase (d : RegIdx) (b : RegIdx) (lit : Option Dword) : Statement (.faddBase d b lit) := rr rfl fun _ => baseInstr_fp32 _ _ _ _ _
theorem fsubBase (d : RegIdx) (b : RegIdx) (lit : Option Dword) : Statement (.fsubBase d b lit) := rr rfl fun _ => baseInstr_fp32 _ _ _ _ _
theorem fmulBase (d : RegIdx) (b : RegIdx) (lit : Option Dword) : Statement (.fmulBase d b lit) := rr rfl fun _ => baseInstr_fp32 _ _ _ _ _
theorem ffmaBase (d : RegIdx) (b : RegIdx) (lit : Option Dword) : Statement (.ffmaBase d b lit) := rr rfl fun _ => baseInstr_fp32 _ _ _ _ _
theorem fminBase (d : RegIdx) (b : RegIdx) (lit : Option Dword) : Statement (.fminBase d b lit) := rr rfl fun _ => baseInstr_fp32 _ _ _ _ _
theorem fmaxBase (d : RegIdx) (b : RegIdx) (lit : Option Dword) : Statement (.fmaxBase d b lit) := rr rfl fun _ => baseInstr_fp32 _ _ _ _ _
theorem movBase (d : RegIdx) (b : RegIdx) (lit : Option Dword) : Statement (.movBase d b lit) := rr rfl fun _ => baseInstr_mov _ _ _ _ _
theorem addi (d : RegIdx) (imm : BitVec 15) (lit : Option Dword) : Statement (.addi d imm lit) := ri rfl fun _ => by simp only [baseInstr, ri_major, ri_d, ri_imm]; rfl
theorem moviBase (d : RegIdx) (imm : BitVec 15) (lit : Option Dword) : Statement (.moviBase d imm lit) := ri rfl fun _ => by simp only [baseInstr, ri_major, ri_d, ri_imm]; rfl
theorem andi (d : RegIdx) (imm : BitVec 15) (lit : Option Dword) : Statement (.andi d imm lit) := ri rfl fun _ => by simp only [baseInstr, ri_major, ri_d, ri_imm]; rfl
theorem shli (d : RegIdx) (imm : BitVec 15) (lit : Option Dword) : Statement (.shli d imm lit) := ri rfl fun _ => by simp only [baseInstr, ri_major, ri_d, ri_imm]; rfl
theorem shri (d : RegIdx) (imm : BitVec 15) (lit : Option Dword) : Statement (.shri d imm lit) := ri rfl fun _ => by simp only [baseInstr, ri_major, ri_d, ri_imm]; rfl
theorem sari (d : RegIdx) (imm : BitVec 15) (lit : Option Dword) : Statement (.sari d imm lit) := ri rfl fun _ => by simp only [baseInstr, ri_major, ri_d, ri_imm]; rfl
theorem braBase (cond : BitVec 4) (off : BitVec 20) : Statement (.braBase cond off) := sy rfl (by
  have h0 : field (syWord 0x20 (off ++ cond)) 8 4 = cond := by apply field_eq; intro i hi; simp only [syWord, BitVec.getLsbD_append]; grind
  have h1 : field (syWord 0x20 (off ++ cond)) 12 20 = off := by apply field_eq; intro i hi; simp only [syWord, BitVec.getLsbD_append]; grind
  simp only [baseInstr, sy_major, show (0x20 : BitVec 6).toNat = 32 from rfl, unlessLit, h0, h1]; rfl)
theorem rjmarkBase (j : BitVec 3) : Statement (.rjmarkBase j) := sy rfl (by
  have h0 : field (syWord 0x22 ((0 : BitVec 20) ++ (0 : BitVec 1) ++ j)) 12 20 = 0 := by apply field_eq; intro i hi; simp only [syWord, BitVec.getLsbD_append]; grind
  have h1 : field (syWord 0x22 ((0 : BitVec 20) ++ (0 : BitVec 1) ++ j)) 11 1 = 0 := by apply field_eq; intro i hi; simp only [syWord, BitVec.getLsbD_append]; grind
  have h2 : field (syWord 0x22 ((0 : BitVec 20) ++ (0 : BitVec 1) ++ j)) 8 3 = j := by apply field_eq; intro i hi; simp only [syWord, BitVec.getLsbD_append]; grind
  simp only [baseInstr, sy_major, show (0x22 : BitVec 6).toNat = 34 from rfl, unlessLit, baseRejoin, h0, h1, h2]; rfl)
theorem rjwaitBase (j : BitVec 3) : Statement (.rjwaitBase j) := sy rfl (by
  have h0 : field (syWord 0x22 ((0 : BitVec 20) ++ (1 : BitVec 1) ++ j)) 12 20 = 0 := by apply field_eq; intro i hi; simp only [syWord, BitVec.getLsbD_append]; grind
  have h1 : field (syWord 0x22 ((0 : BitVec 20) ++ (1 : BitVec 1) ++ j)) 11 1 = 1 := by apply field_eq; intro i hi; simp only [syWord, BitVec.getLsbD_append]; grind
  have h2 : field (syWord 0x22 ((0 : BitVec 20) ++ (1 : BitVec 1) ++ j)) 8 3 = j := by apply field_eq; intro i hi; simp only [syWord, BitVec.getLsbD_append]; grind
  simp only [baseInstr, sy_major, show (0x22 : BitVec 6).toNat = 34 from rfl, unlessLit, baseRejoin, h0, h1, h2]; rfl)
theorem sealBase (s1 : RegIdx) (s2 : RegIdx) : Statement (.sealBase s1 s2) := sy rfl (by
  have h0 : field (syWord 0x23 ((0 : BitVec 6) ++ s2 ++ s1)) 26 6 = 0 := by apply field_eq; intro i hi; simp only [syWord, BitVec.getLsbD_append]; grind
  have h1 : field (syWord 0x23 ((0 : BitVec 6) ++ s2 ++ s1)) 8 9 = s1 := by apply field_eq; intro i hi; simp only [syWord, BitVec.getLsbD_append]; grind
  have h2 : field (syWord 0x23 ((0 : BitVec 6) ++ s2 ++ s1)) 17 9 = s2 := by apply field_eq; intro i hi; simp only [syWord, BitVec.getLsbD_append]; grind
  simp only [baseInstr, sy_major, show (0x23 : BitVec 6).toNat = 35 from rfl, unlessLit, baseSeal, h0, h1, h2]; rfl)
theorem yieldBase (live : BitVec 5) (dexp : BitVec 4) : Statement (.yieldBase live dexp) := sy rfl (by
  have h0 : field (syWord 0x24 ((0 : BitVec 13) ++ live ++ dexp ++ (0 : BitVec 2))) 8 2 = 0 := by apply field_eq; intro i hi; simp only [syWord, BitVec.getLsbD_append]; grind
  have h1 : field (syWord 0x24 ((0 : BitVec 13) ++ live ++ dexp ++ (0 : BitVec 2))) 19 13 = 0 := by apply field_eq; intro i hi; simp only [syWord, BitVec.getLsbD_append]; grind
  have h2 : field (syWord 0x24 ((0 : BitVec 13) ++ live ++ dexp ++ (0 : BitVec 2))) 14 5 = live := by apply field_eq; intro i hi; simp only [syWord, BitVec.getLsbD_append]; grind
  have h3 : field (syWord 0x24 ((0 : BitVec 13) ++ live ++ dexp ++ (0 : BitVec 2))) 10 4 = dexp := by apply field_eq; intro i hi; simp only [syWord, BitVec.getLsbD_append]; grind
  simp only [baseInstr, sy_major, show (0x24 : BitVec 6).toNat = 36 from rfl, unlessLit, baseFlow, h0, h1, h2, h3]; rfl)
theorem tailBase : Statement (.tailBase) := sy rfl (by
  have h0 : field (syWord 0x24 ((0 : BitVec 22) ++ (1 : BitVec 2))) 8 2 = 1 := by apply field_eq; intro i hi; simp only [syWord, BitVec.getLsbD_append]; grind
  have h1 : field (syWord 0x24 ((0 : BitVec 22) ++ (1 : BitVec 2))) 10 22 = 0 := by apply field_eq; intro i hi; simp only [syWord, BitVec.getLsbD_append]; grind
  simp only [baseInstr, sy_major, show (0x24 : BitVec 6).toNat = 36 from rfl, unlessLit, baseFlow, h0, h1]; rfl)
theorem exitBase : Statement (.exitBase) := sy rfl (by
  have h0 : field (syWord 0x24 ((0 : BitVec 22) ++ (2 : BitVec 2))) 8 2 = 2 := by apply field_eq; intro i hi; simp only [syWord, BitVec.getLsbD_append]; grind
  have h1 : field (syWord 0x24 ((0 : BitVec 22) ++ (2 : BitVec 2))) 10 22 = 0 := by apply field_eq; intro i hi; simp only [syWord, BitVec.getLsbD_append]; grind
  simp only [baseInstr, sy_major, show (0x24 : BitVec 6).toNat = 36 from rfl, unlessLit, baseFlow, h0, h1]; rfl)
theorem trapBase (code : BitVec 16) : Statement (.trapBase code) := sy rfl (by
  have h0 : field (syWord 0x25 ((0 : BitVec 7) ++ code ++ (0 : BitVec 1))) 25 7 = 0 := by apply field_eq; intro i hi; simp only [syWord, BitVec.getLsbD_append]; grind
  have h1 : field (syWord 0x25 ((0 : BitVec 7) ++ code ++ (0 : BitVec 1))) 8 1 = 0 := by apply field_eq; intro i hi; simp only [syWord, BitVec.getLsbD_append]; grind
  have h2 : field (syWord 0x25 ((0 : BitVec 7) ++ code ++ (0 : BitVec 1))) 9 16 = code := by apply field_eq; intro i hi; simp only [syWord, BitVec.getLsbD_append]; grind
  simp only [baseInstr, sy_major, show (0x25 : BitVec 6).toNat = 37 from rfl, unlessLit, baseTrap, h0, h1, h2]; rfl)
theorem brkBase (code : BitVec 16) : Statement (.brkBase code) := sy rfl (by
  have h0 : field (syWord 0x25 ((0 : BitVec 7) ++ code ++ (1 : BitVec 1))) 25 7 = 0 := by apply field_eq; intro i hi; simp only [syWord, BitVec.getLsbD_append]; grind
  have h1 : field (syWord 0x25 ((0 : BitVec 7) ++ code ++ (1 : BitVec 1))) 8 1 = 1 := by apply field_eq; intro i hi; simp only [syWord, BitVec.getLsbD_append]; grind
  have h2 : field (syWord 0x25 ((0 : BitVec 7) ++ code ++ (1 : BitVec 1))) 9 16 = code := by apply field_eq; intro i hi; simp only [syWord, BitVec.getLsbD_append]; grind
  simp only [baseInstr, sy_major, show (0x25 : BitVec 6).toNat = 37 from rfl, unlessLit, baseTrap, h0, h1, h2]; rfl)
theorem iadd (x : Ext) : Statement (.iadd x) := ext rfl fun _ => rfl
theorem isub (x : Ext) : Statement (.isub x) := ext rfl fun _ => rfl
theorem iaddc (x : Ext) : Statement (.iaddc x) := ext rfl fun _ => rfl
theorem imin (x : Ext) : Statement (.imin x) := ext rfl fun _ => rfl
theorem imax (x : Ext) : Statement (.imax x) := ext rfl fun _ => rfl
theorem iabs (x : Ext) : Statement (.iabs x) := ext rfl fun _ => rfl
theorem ineg (x : Ext) : Statement (.ineg x) := ext rfl fun _ => rfl
theorem iamin (x : Ext) : Statement (.iamin x) := ext rfl fun _ => rfl
theorem iamax (x : Ext) : Statement (.iamax x) := ext rfl fun _ => rfl
theorem isad (x : Ext) : Statement (.isad x) := ext rfl fun _ => rfl
theorem iadd64 (x : Ext) : Statement (.iadd64 x) := ext rfl fun _ => rfl
theorem isub64 (x : Ext) : Statement (.isub64 x) := ext rfl fun _ => rfl
theorem lea (x : Ext) : Statement (.lea x) := ext rfl fun _ => rfl
theorem lea64 (x : Ext) : Statement (.lea64 x) := ext rfl fun _ => rfl
theorem imul (x : Ext) : Statement (.imul x) := ext rfl fun _ => rfl
theorem imulh (x : Ext) : Statement (.imulh x) := ext rfl fun _ => rfl
theorem imad (x : Ext) : Statement (.imad x) := ext rfl fun _ => rfl
theorem imulw (x : Ext) : Statement (.imulw x) := ext rfl fun _ => rfl
theorem imadw (x : Ext) : Statement (.imadw x) := ext rfl fun _ => rfl
theorem idiv (x : Ext) : Statement (.idiv x) := ext rfl fun _ => rfl
theorem irem (x : Ext) : Statement (.irem x) := ext rfl fun _ => rfl
theorem shl (x : Ext) : Statement (.shl x) := ext rfl fun _ => rfl
theorem shr (x : Ext) : Statement (.shr x) := ext rfl fun _ => rfl
theorem sar (x : Ext) : Statement (.sar x) := ext rfl fun _ => rfl
theorem rotl (x : Ext) : Statement (.rotl x) := ext rfl fun _ => rfl
theorem band (x : Ext) : Statement (.band x) := ext rfl fun _ => rfl
theorem bor (x : Ext) : Statement (.bor x) := ext rfl fun _ => rfl
theorem bxor (x : Ext) : Statement (.bxor x) := ext rfl fun _ => rfl
theorem bnot (x : Ext) : Statement (.bnot x) := ext rfl fun _ => rfl
theorem bool3 (x : Ext) : Statement (.bool3 x) := ext rfl fun _ => rfl
theorem popc (x : Ext) : Statement (.popc x) := ext rfl fun _ => rfl
theorem clz (x : Ext) : Statement (.clz x) := ext rfl fun _ => rfl
theorem ctz (x : Ext) : Statement (.ctz x) := ext rfl fun _ => rfl
theorem brev (x : Ext) : Statement (.brev x) := ext rfl fun _ => rfl
theorem bfe (x : Ext) : Statement (.bfe x) := ext rfl fun _ => rfl
theorem bfi (x : Ext) : Statement (.bfi x) := ext rfl fun _ => rfl
theorem funnel (x : Ext) : Statement (.funnel x) := ext rfl fun _ => rfl
theorem shl64 (x : Ext) : Statement (.shl64 x) := ext rfl fun _ => rfl
theorem shr64 (x : Ext) : Statement (.shr64 x) := ext rfl fun _ => rfl
theorem sar64 (x : Ext) : Statement (.sar64 x) := ext rfl fun _ => rfl
theorem iset (x : Ext) : Statement (.iset x) := ext rfl fun _ => rfl
theorem iset64 (x : Ext) : Statement (.iset64 x) := ext rfl fun _ => rfl
theorem fset (x : Ext) : Statement (.fset x) := ext rfl fun _ => rfl
theorem fset64 (x : Ext) : Statement (.fset64 x) := ext rfl fun _ => rfl
theorem pset (x : Ext) : Statement (.pset x) := ext rfl fun _ => rfl
theorem sel (x : Ext) : Statement (.sel x) := ext rfl fun _ => rfl
theorem pmovGet (x : Ext) : Statement (.pmovGet x) := ext rfl fun hw => by
  have h : x.modA = 0 := by simp_all [Instr.wf, Instr.form, Instr.ext, Ext.fits, Ext.plain]
  simp [extInstr, extCmp, h]
theorem pmovPut (x : Ext) : Statement (.pmovPut x) := ext rfl fun hw => by
  have h : x.modA = 1 := by simp_all [Instr.wf, Instr.form, Instr.ext, Ext.fits]
  simp [extInstr, extCmp, h]
theorem fadd (x : Ext) : Statement (.fadd x) := ext rfl fun _ => rfl
theorem fsub (x : Ext) : Statement (.fsub x) := ext rfl fun _ => rfl
theorem fmul (x : Ext) : Statement (.fmul x) := ext rfl fun _ => rfl
theorem ffma (x : Ext) : Statement (.ffma x) := ext rfl fun _ => rfl
theorem fmin (x : Ext) : Statement (.fmin x) := ext rfl fun _ => rfl
theorem fmax (x : Ext) : Statement (.fmax x) := ext rfl fun _ => rfl
theorem fdiv (x : Ext) : Statement (.fdiv x) := ext rfl fun _ => rfl
theorem fsqrt (x : Ext) : Statement (.fsqrt x) := ext rfl fun _ => rfl
theorem fscale (x : Ext) : Statement (.fscale x) := ext rfl fun _ => rfl
theorem frnd (x : Ext) : Statement (.frnd x) := ext rfl fun _ => rfl
theorem fadd64 (x : Ext) : Statement (.fadd64 x) := ext rfl fun _ => rfl
theorem fsub64 (x : Ext) : Statement (.fsub64 x) := ext rfl fun _ => rfl
theorem fmul64 (x : Ext) : Statement (.fmul64 x) := ext rfl fun _ => rfl
theorem ffma64 (x : Ext) : Statement (.ffma64 x) := ext rfl fun _ => rfl
theorem fmin64 (x : Ext) : Statement (.fmin64 x) := ext rfl fun _ => rfl
theorem fmax64 (x : Ext) : Statement (.fmax64 x) := ext rfl fun _ => rfl
theorem fdiv64 (x : Ext) : Statement (.fdiv64 x) := ext rfl fun _ => rfl
theorem fsqrt64 (x : Ext) : Statement (.fsqrt64 x) := ext rfl fun _ => rfl
theorem fscale64 (x : Ext) : Statement (.fscale64 x) := ext rfl fun _ => rfl
theorem frnd64 (x : Ext) : Statement (.frnd64 x) := ext rfl fun _ => rfl
theorem hadd2 (x : Ext) : Statement (.hadd2 x) := ext rfl fun _ => rfl
theorem hmul2 (x : Ext) : Statement (.hmul2 x) := ext rfl fun _ => rfl
theorem hfma2 (x : Ext) : Statement (.hfma2 x) := ext rfl fun _ => rfl
theorem hmin2 (x : Ext) : Statement (.hmin2 x) := ext rfl fun _ => rfl
theorem hmax2 (x : Ext) : Statement (.hmax2 x) := ext rfl fun _ => rfl
theorem cvt (x : Ext) : Statement (.cvt x) := ext rfl fun _ => rfl
theorem cvtpk (x : Ext) : Statement (.cvtpk x) := ext rfl fun _ => rfl
theorem cvtx (x : Ext) : Statement (.cvtx x) := ext rfl fun _ => rfl
theorem rcp (x : Ext) : Statement (.rcp x) := ext rfl fun _ => rfl
theorem rsq (x : Ext) : Statement (.rsq x) := ext rfl fun _ => rfl
theorem ex2 (x : Ext) : Statement (.ex2 x) := ext rfl fun _ => rfl
theorem lg2 (x : Ext) : Statement (.lg2 x) := ext rfl fun _ => rfl
theorem sin (x : Ext) : Statement (.sin x) := ext rfl fun _ => rfl
theorem cos (x : Ext) : Statement (.cos x) := ext rfl fun _ => rfl
theorem tanh (x : Ext) : Statement (.tanh x) := ext rfl fun _ => rfl
theorem rand (x : Ext) : Statement (.rand x) := ext rfl fun _ => rfl
theorem shfl (x : Ext) : Statement (.shfl x) := ext rfl fun _ => rfl
theorem shflx (x : Ext) : Statement (.shflx x) := ext rfl fun _ => rfl
theorem lsh (x : Ext) : Statement (.lsh x) := ext rfl fun _ => rfl
theorem vote (x : Ext) : Statement (.vote x) := ext rfl fun _ => rfl
theorem ballot (x : Ext) : Statement (.ballot x) := ext rfl fun _ => rfl
theorem matchKey (x : Ext) : Statement (.matchKey x) := ext rfl fun _ => rfl
theorem reduce (x : Ext) : Statement (.reduce x) := ext rfl fun _ => rfl
theorem scan (x : Ext) : Statement (.scan x) := ext rfl fun _ => rfl
theorem had32 (x : Ext) : Statement (.had32 x) := ext rfl fun _ => rfl
theorem qblk (x : Ext) : Statement (.qblk x) := ext rfl fun _ => rfl
theorem dqblk (x : Ext) : Statement (.dqblk x) := ext rfl fun _ => rfl
theorem mov (x : Ext) : Statement (.mov x) := ext rfl fun _ => rfl
theorem movi (x : Ext) : Statement (.movi x) := ext rfl fun _ => rfl
theorem sread (x : Ext) : Statement (.sread x) := ext rfl fun _ => rfl
theorem swrite (x : Ext) : Statement (.swrite x) := ext rfl fun _ => rfl
theorem wid (x : Ext) : Statement (.wid x) := ext rfl fun _ => rfl
theorem kset (x : Ext) : Statement (.kset x) := ext rfl fun _ => rfl
theorem ld (x : Ext) : Statement (.ld x) := ext rfl fun _ => rfl
theorem ldparam (x : Ext) : Statement (.ldparam x) := ext rfl fun _ => rfl
theorem prefetch (x : Ext) : Statement (.prefetch x) := ext rfl fun _ => rfl
theorem st (x : Ext) : Statement (.st x) := ext rfl fun _ => rfl
theorem atom (x : Ext) : Statement (.atom x) := ext rfl fun _ => rfl
theorem cas (x : Ext) : Statement (.cas x) := ext rfl fun _ => rfl
theorem red (x : Ext) : Statement (.red x) := ext rfl fun _ => rfl
theorem join (x : Ext) : Statement (.join x) := ext rfl fun _ => rfl
theorem jinc (x : Ext) : Statement (.jinc x) := ext rfl fun _ => rfl
theorem ldlt (x : Ext) : Statement (.ldlt x) := ext rfl fun _ => rfl
theorem ldltn (x : Ext) : Statement (.ldltn x) := ext rfl fun _ => rfl
theorem xflush (x : Ext) : Statement (.xflush x) := ext rfl fun _ => rfl
theorem fence (x : Ext) : Statement (.fence x) := ext rfl fun _ => rfl
theorem qfence (x : Ext) : Statement (.qfence x) := ext rfl fun _ => rfl
theorem copy (x : Ext) : Statement (.copy x) := ext rfl fun _ => rfl
theorem bulkIn (x : Ext) : Statement (.bulkIn x) := ext rfl fun hw => by
  have h : x.modB = 0 := by simp_all [Instr.wf, Instr.form, Instr.ext, Ext.fits]
  simp [extInstr, extEngine, h]
theorem bulkOut (x : Ext) : Statement (.bulkOut x) := ext rfl fun hw => by
  have h : x.modB = 1 := by simp_all [Instr.wf, Instr.form, Instr.ext, Ext.fits]
  simp [extInstr, extEngine, h]
theorem mcast (x : Ext) : Statement (.mcast x) := ext rfl fun _ => rfl
theorem mcrecv (x : Ext) : Statement (.mcrecv x) := ext rfl fun _ => rfl
theorem tiledef (x : Ext) : Statement (.tiledef x) := ext rfl fun _ => rfl
theorem tilefree (x : Ext) : Statement (.tilefree x) := ext rfl fun _ => rfl
theorem tileq (x : Ext) : Statement (.tileq x) := ext rfl fun _ => rfl
theorem barinit (x : Ext) : Statement (.barinit x) := ext rfl fun _ => rfl
theorem bararr (x : Ext) : Statement (.bararr x) := ext rfl fun _ => rfl
theorem barwait (x : Ext) : Statement (.barwait x) := ext rfl fun _ => rfl
theorem bartest (x : Ext) : Statement (.bartest x) := ext rfl fun _ => rfl
theorem bardrop (x : Ext) : Statement (.bardrop x) := ext rfl fun _ => rfl
theorem wsync (x : Ext) : Statement (.wsync x) := ext rfl fun _ => rfl
theorem gsync (x : Ext) : Statement (.gsync x) := ext rfl fun _ => rfl
theorem sclaim (x : Ext) : Statement (.sclaim x) := ext rfl fun _ => rfl
theorem srel (x : Ext) : Statement (.srel x) := ext rfl fun _ => rfl
theorem sldt (x : Ext) : Statement (.sldt x) := ext rfl fun _ => rfl
theorem sstt (x : Ext) : Statement (.sstt x) := ext rfl fun _ => rfl
theorem pack (x : Ext) : Statement (.pack x) := ext rfl fun _ => rfl
theorem unpack (x : Ext) : Statement (.unpack x) := ext rfl fun _ => rfl
theorem azero (x : Ext) : Statement (.azero x) := ext rfl fun _ => rfl
theorem mma (x : Ext) : Statement (.mma x) := ext rfl fun _ => rfl
theorem kread (x : Ext) : Statement (.kread x) := ext rfl fun _ => rfl
theorem dtctx (x : Ext) : Statement (.dtctx x) := ext rfl fun _ => rfl
theorem dt2 (x : Ext) : Statement (.dt2 x) := ext rfl fun _ => rfl
theorem dt1 (x : Ext) : Statement (.dt1 x) := ext rfl fun _ => rfl
theorem dtcmp (x : Ext) : Statement (.dtcmp x) := ext rfl fun _ => rfl
theorem dteval (x : Ext) : Statement (.dteval x) := ext rfl fun _ => rfl
theorem dtstat (x : Ext) : Statement (.dtstat x) := ext rfl fun _ => rfl
theorem bra (x : Ext) : Statement (.bra x) := ext rfl fun _ => rfl
theorem brx (x : Ext) : Statement (.brx x) := ext rfl fun _ => rfl
theorem brv (x : Ext) : Statement (.brv x) := ext rfl fun _ => rfl
theorem call (x : Ext) : Statement (.call x) := ext rfl fun _ => rfl
theorem callx (x : Ext) : Statement (.callx x) := ext rfl fun _ => rfl
theorem ret (x : Ext) : Statement (.ret x) := ext rfl fun _ => rfl
theorem rjmark (x : Ext) : Statement (.rjmark x) := ext rfl fun _ => rfl
theorem rjwait (x : Ext) : Statement (.rjwait x) := ext rfl fun _ => rfl
theorem rjdrop (x : Ext) : Statement (.rjdrop x) := ext rfl fun _ => rfl
theorem rjread (x : Ext) : Statement (.rjread x) := ext rfl fun _ => rfl
theorem sealExt (x : Ext) : Statement (.sealExt x) := ext rfl fun _ => rfl
theorem yield (x : Ext) : Statement (.yield x) := ext rfl fun _ => rfl
theorem tail (x : Ext) : Statement (.tail x) := ext rfl fun _ => rfl
theorem exit (x : Ext) : Statement (.exit x) := ext rfl fun _ => rfl
theorem nap (x : Ext) : Statement (.nap x) := ext rfl fun _ => rfl
theorem trap (x : Ext) : Statement (.trap x) := ext rfl fun _ => rfl
theorem brk (x : Ext) : Statement (.brk x) := ext rfl fun _ => rfl
theorem eret (x : Ext) : Statement (.eret x) := ext rfl fun _ => rfl
theorem launch (x : Ext) : Statement (.launch x) := ext rfl fun _ => rfl
theorem spill (x : Ext) : Statement (.spill x) := ext rfl fun _ => rfl
theorem fill (x : Ext) : Statement (.fill x) := ext rfl fun _ => rfl
theorem tlbinv (x : Ext) : Statement (.tlbinv x) := ext rfl fun _ => rfl
theorem rgnset (x : Ext) : Statement (.rgnset x) := ext rfl fun _ => rfl
theorem smap (x : Ext) : Statement (.smap x) := ext rfl fun _ => rfl
theorem ctxsave (x : Ext) : Statement (.ctxsave x) := ext rfl fun _ => rfl
theorem ctxload (x : Ext) : Statement (.ctxload x) := ext rfl fun _ => rfl
theorem pmctlRead (x : Ext) : Statement (.pmctlRead x) := ext rfl fun hw => by
  have h : x.modA = 0 := by simp_all [Instr.wf, Instr.form, Instr.ext, Ext.fits]
  simp [extInstr, extSys, h]
theorem pmctlSel (x : Ext) : Statement (.pmctlSel x) := ext rfl fun hw => by
  have h : x.modA = 1 := by simp_all [Instr.wf, Instr.form, Instr.ext, Ext.fits]
  simp [extInstr, extSys, h]
theorem pmctlStart (x : Ext) : Statement (.pmctlStart x) := ext rfl fun hw => by
  have h : x.modA = 2 := by simp_all [Instr.wf, Instr.form, Instr.ext, Ext.fits]
  simp [extInstr, extSys, h]
theorem pmctlStop (x : Ext) : Statement (.pmctlStop x) := ext rfl fun hw => by
  have h : x.modA = 3 := by simp_all [Instr.wf, Instr.form, Instr.ext, Ext.fits]
  simp [extInstr, extSys, h]
theorem pmctlClr (x : Ext) : Statement (.pmctlClr x) := ext rfl fun hw => by
  have h : x.modA = 4 := by simp_all [Instr.wf, Instr.form, Instr.ext, Ext.fits]
  simp [extInstr, extSys, h]
theorem pgpin (x : Ext) : Statement (.pgpin x) := ext rfl fun _ => rfl
theorem spanSeal (w : WarpId) : Statement (.spanSeal w) := stepOnly rfl
theorem slowGear (w : WarpId) : Statement (.slowGear w) := stepOnly rfl
theorem slowGearComplete (w : WarpId) : Statement (.slowGearComplete w) := stepOnly rfl
theorem loadDataReturn (t : ThreadId) (n : Nat) : Statement (.loadDataReturn t n) := stepOnly rfl
theorem memoryAccessPerform (id : Nat) : Statement (.memoryAccessPerform id) := stepOnly rfl
theorem badgerSettle (part : Nat) (va : Dword) : Statement (.badgerSettle part va) := stepOnly rfl
theorem operandLogReplay (w : WarpId) : Statement (.operandLogReplay w) := stepOnly rfl
theorem evictionWritebackComplete (part : Nat) (va : Dword) (ok : Bool) : Statement (.evictionWritebackComplete part va ok) := stepOnly rfl
theorem faultReply (fn : Nat) (va : Dword) (addr : Dword) : Statement (.faultReply fn va addr) := stepOnly rfl
theorem faultQueueTimeout (fn : Nat) (seq : Nat) : Statement (.faultQueueTimeout fn seq) := stepOnly rfl
theorem watchdogFault (t : ThreadId) : Statement (.watchdogFault t) := stepOnly rfl
theorem napEnd (t : ThreadId) : Statement (.napEnd t) := stepOnly rfl
theorem ldltTimeout (t : ThreadId) : Statement (.ldltTimeout t) := stepOnly rfl
theorem copyComplete (core : Nat) : Statement (.copyComplete core) := stepOnly rfl
theorem walkTileComplete (core : Nat) : Statement (.walkTileComplete core) := stepOnly rfl
theorem bulkComplete (core : Nat) : Statement (.bulkComplete core) := stepOnly rfl
theorem mcastParked (core : Nat) : Statement (.mcastParked core) := stepOnly rfl
theorem mcrecvComplete (core : Nat) : Statement (.mcrecvComplete core) := stepOnly rfl
theorem matrixEntryStart (core : Nat) : Statement (.matrixEntryStart core) := stepOnly rfl
theorem matrixEntryComplete (core : Nat) : Statement (.matrixEntryComplete core) := stepOnly rfl
theorem exitComplete (t : ThreadId) : Statement (.exitComplete t) := stepOnly rfl
theorem trackerEntryFree (core : Nat) (entry : Nat) : Statement (.trackerEntryFree core entry) := stepOnly rfl
theorem owlRound (part : Nat) (entry : Nat) : Statement (.owlRound part entry) := stepOnly rfl
theorem owlMerge (id : Nat) : Statement (.owlMerge id) := stepOnly rfl
theorem latticeWindowWrite (fn : Nat) (off : Nat) (width : Nat) (value : BitVec 128) : Statement (.latticeWindowWrite fn off width value) := stepOnly rfl
theorem commandCellWrite (fn : Nat) (value : Dword) : Statement (.commandCellWrite fn value) := stepOnly rfl
theorem create (fn : Nat) : Statement (.create fn) := stepOnly rfl
theorem destroy (fn : Nat) : Statement (.destroy fn) := stepOnly rfl
theorem setreg (fn : Nat) : Statement (.setreg fn) := stepOnly rfl
theorem getreg (fn : Nat) : Statement (.getreg fn) := stepOnly rfl
theorem suspend (fn : Nat) : Statement (.suspend fn) := stepOnly rfl
theorem resume (fn : Nat) : Statement (.resume fn) := stepOnly rfl
theorem fencedie (fn : Nat) : Statement (.fencedie fn) := stepOnly rfl
theorem gangRangeHandout (part : Nat) (die : Nat) : Statement (.gangRangeHandout part die) := stepOnly rfl
theorem gangPlace (die : Nat) : Statement (.gangPlace die) := stepOnly rfl
theorem placementComplete (g : GangId) : Statement (.placementComplete g) := stepOnly rfl
theorem gangRetire (g : GangId) : Statement (.gangRetire g) := stepOnly rfl
theorem launchEnd (part : Nat) (launch : Nat) : Statement (.launchEnd part launch) := stepOnly rfl
theorem replayGateTimeout (id : Nat) : Statement (.replayGateTimeout id) := stepOnly rfl
theorem replayStuckAdmit (part : Nat) (launch : Nat) : Statement (.replayStuckAdmit part launch) := stepOnly rfl
theorem launchMerge (part : Nat) (launch : Nat) : Statement (.launchMerge part launch) := stepOnly rfl
theorem preemptionStart (part : Nat) : Statement (.preemptionStart part) := stepOnly rfl
theorem drainComplete (g : GangId) : Statement (.drainComplete g) := stepOnly rfl
theorem saveComplete (g : GangId) : Statement (.saveComplete g) := stepOnly rfl
theorem gangResume (g : GangId) : Statement (.gangResume g) := stepOnly rfl
theorem resumeComplete (g : GangId) : Statement (.resumeComplete g) := stepOnly rfl
theorem gangLevelFault (g : GangId) (kind : Byte) : Statement (.gangLevelFault g kind) := stepOnly rfl
theorem dieFence (die : Nat) : Statement (.dieFence die) := stepOnly rfl
theorem powerGood : Statement (.powerGood) := stepOnly rfl
theorem functionStartupComplete (bit : Nat) : Statement (.functionStartupComplete bit) := stepOnly rfl
theorem startupBoundExpiry (bit : Nat) : Statement (.startupBoundExpiry bit) := stepOnly rfl
theorem linkRetryFailure (link : Nat) : Statement (.linkRetryFailure link) := stepOnly rfl
theorem peerUnreachableTimeout (device : Nat) : Statement (.peerUnreachableTimeout device) := stepOnly rfl
theorem peerRequestReceive (req : PeerRequest) : Statement (.peerRequestReceive req) := stepOnly rfl
theorem ethernetRetransmit (port : Nat) : Statement (.ethernetRetransmit port) := stepOnly rfl
theorem engineSliceStart (engine : DmaEngine) : Statement (.engineSliceStart engine) := stepOnly rfl
theorem budgetRefill : Statement (.budgetRefill) := stepOnly rfl
theorem thermalThrottle : Statement (.thermalThrottle) := stepOnly rfl
theorem thermalPowerOff : Statement (.thermalPowerOff) := stepOnly rfl
theorem powercapWrite (value : Word) : Statement (.powercapWrite value) := stepOnly rfl
theorem peerRouteWrite (device : Nat) (entry : BitVec 256) : Statement (.peerRouteWrite device entry) := stepOnly rfl
theorem barRegisterWrite (fn : Nat) (off : Nat) (width : Nat) (value : BitVec 128) : Statement (.barRegisterWrite fn off width value) := stepOnly rfl
theorem getVersion (fn : Nat) : Statement (.getVersion fn) := stepOnly rfl
theorem getCapabilities (fn : Nat) : Statement (.getCapabilities fn) := stepOnly rfl
theorem negotiateAlgorithms (fn : Nat) : Statement (.negotiateAlgorithms fn) := stepOnly rfl
theorem getDigests (fn : Nat) : Statement (.getDigests fn) := stepOnly rfl
theorem getCertificate (fn : Nat) : Statement (.getCertificate fn) := stepOnly rfl
theorem challenge (fn : Nat) : Statement (.challenge fn) := stepOnly rfl
theorem getMeasurements (fn : Nat) : Statement (.getMeasurements fn) := stepOnly rfl
theorem keyExchange (fn : Nat) : Statement (.keyExchange fn) := stepOnly rfl
theorem finish (fn : Nat) : Statement (.finish fn) := stepOnly rfl
theorem ideKm (fn : Nat) : Statement (.ideKm fn) := stepOnly rfl
theorem lockInterface (fn : Nat) : Statement (.lockInterface fn) := stepOnly rfl
theorem stopInterface (fn : Nat) : Statement (.stopInterface fn) := stepOnly rfl
theorem tdispBreach (fn : Nat) : Statement (.tdispBreach fn) := stepOnly rfl
theorem functionFailure (bit : Nat) : Statement (.functionFailure bit) := stepOnly rfl
theorem startInterface (fn : Nat) : Statement (.startInterface fn) := stepOnly rfl
theorem powerAboveCap : Statement (.powerAboveCap) := stepOnly rfl

end Sys2Proof.Laws.EncodeRoundTrip
end

