-- ==== Sys2Proof/Safety.lean ====
section
/-! DEFINITION. What a safe run is: no step stops, and memory keeps its canonical form. -/

namespace Sys2Proof

/-- The outcome is a next state whose memory is in canonical form. -/
def SafeOutcome (o : Host.Outcome Machine.State Machine.Fault Machine.Refusal) : Prop :=
  match o with
  | .next s => Machine.Memory.wf s.mem = true
  | _ => False

/-- One step from a state is safe. -/
def SafeStep (s : Machine.State) : Prop := SafeOutcome (Machine.step s)

end Sys2Proof
end

