-- ==== Sys2Proof/Certificates/Slice0/Obligations.lean ====
section
/-! DEFINITION. The statements about the model, and the words they are said in. -/

/-! ### What a lane takes from a span instruction -/

namespace Sys2Proof.Claim

open Sys2Proof.Machine

/-- A lane of the group at work in the focused warp runs a span instruction in the first run of its span (R79, R80, R293), its guard
true and no lane's count at its deadline (R90); t is its thread. -/
structure InSpan (s : State) (i : Instr) (id : WarpId) (g : Issue) (l : Nat) (t : Thread) : Prop where
  focus : s.focus = some id
  cur : (s.warp id).cur = some g
  phase : g.phase = .run
  lane : l ∈ g.lanes
  thread : tbGet (s.warp id).lanes l = some t
  guard : t.guard i.ext.guard = true
  inTime : ∀ k ∈ g.lanes, ((s.warp id).thread k).wd + 1 < ((s.warp id).thread k).deadline

/-- The thread has issued one instruction at a clk (R45, R90, R277): the watchdog and the count of its issues go up by one, the clk is
its last issue, it is not held, its lookahead windows move on. -/
def counted (t : Thread) (now : Nat) : Thread :=
  { t with
      wd := t.wd + 1
      lastIssue := now
      issues := t.issues + 1
      stalled := false
      pends := t.pends.map fun p => { p with window := p.window - 1 } }

/-- The thread after a span instruction with these effects (R32, R45, R90): it has issued it, its flags have gathered; the writes are
made at once, or stand in a pending result while a lookahead window is open. -/
def took (t : Thread) (i : Instr) (now id : Nat) (pc : Dword) (regs : List (Nat × PWord)) (preds : List (Nat × Bool)) (fl : Flags) :
    Thread :=
  let u : Thread := { counted t now with fflags := t.fflags ||| fl }
  if i.ext.la = 0 then (u.writeRegs regs).writePreds preds
  else
    { u with
        pends := u.pends ++ [{ id := id, pc := pc, regs := regs.map Prod.fst, preds := preds.map Prod.fst, window := i.ext.la.toNat,
                               committed := false, sealing := false, ready := true, signed := false, words := regs.map Prod.snd,
                               bits := preds.map Prod.snd }] }

/-- exec answers a next state in which the lane has taken these writes and flags. -/
def Takes (s : State) (i : Instr) (id : WarpId) (g : Issue) (l : Nat) (t : Thread) (regs : List (Nat × PWord))
    (preds : List (Nat × Bool)) (fl : Flags) : Prop :=
  ∃ s', exec i s = .next s' ∧ s'.thread ⟨id, l⟩ = took t i s.clk s.nextId g.pc regs preds fl

/-- exec answers a next state in which the lane has recorded a fault at its place in the span and taken nothing else: its effects are
withheld, a fault recorded before stands, and the report's summary gains the kind (R34, R293). -/
def Notes (s : State) (i : Instr) (id : WarpId) (g : Issue) (l : Nat) (t : Thread) (f : FaultInfo) : Prop :=
  ∃ s', exec i s = .next s' ∧
    s'.thread ⟨id, l⟩ =
      { counted t s.clk with
          flt := match t.flt with
            | none => some ⟨g.count + 1, g.pc, f⟩
            | some old => if g.count + 1 < old.index then some ⟨g.count + 1, g.pc, f⟩ else some old
          kinds := t.kinds ||| 2 ^ f.kind }

/-- A word at a register; g0 discards it (R10). -/
def wordAt (d : RegIdx) (v : Word) (p : Bool) : List (Nat × PWord) := if d = 0 then [] else [(d.toNat, ⟨v, p⟩)]

/-- A 64-bit value at a pair, its low half first; index 0 discards it (R11). -/
def pairAt (d : RegIdx) (v : Dword) (p : Bool) : List (Nat × PWord) :=
  if d = 0 then [] else [(d.toNat, ⟨v.extractLsb' 0 32, p⟩), (d.toNat + 1, ⟨v.extractLsb' 32 32, p⟩)]

/-- A pair as 64 bits (R11). -/
def pairOf (t : Thread) (i : RegIdx) : Dword := BitVec.ofNat 64 (t.pair i).v

/-- Source B as 64 bits: its pair, or the literal (R47). -/
def pairB (t : Thread) (x : Ext) : Dword := BitVec.ofNat 64 (t.srcB64 x).v

/-! ### Values of the integer type an instruction names (R107, R108) -/

/-- A word in the type: .n32 where modA[0] is set, else .i32. -/
def typed (x : Ext) (v : Word) : Int := if x.modA.getLsbD 0 then v.toNat else v.toInt

/-- 64 bits in the type. -/
def typed64 (x : Ext) (v : Dword) : Int := if x.modA.getLsbD 0 then v.toNat else v.toInt

/-- A number clamped to the type of n bits. -/
def clamped (unsigned : Bool) (n : Nat) (v : Int) : Int :=
  if unsigned then max 0 (min v (2 ^ n - 1)) else max (-(2 ^ (n - 1))) (min v (2 ^ (n - 1) - 1))

/-- Res of R108 in 32 bits: wrapped, or clamped where modA[1] (.sat) is set. -/
def res32 (x : Ext) (v : Int) : Word := BitVec.ofInt 32 (if x.modA.getLsbD 1 then clamped (x.modA.getLsbD 0) 32 v else v)

/-- Res of R108 in 64 bits. -/
def res64 (x : Ext) (v : Int) : Dword := BitVec.ofInt 64 (if x.modA.getLsbD 1 then clamped (x.modA.getLsbD 0) 64 v else v)

/-! ### Shapes of results -/

/-- d := f A. -/
def Op1 (i : Instr) (x : Ext) (f : Word → Word) : Prop :=
  ∀ s id g l t, InSpan s i id g l t → Takes s i id g l t (wordAt x.d (f (t.reg x.a).v) (t.reg x.a).p) [] 0

/-- d := f A B. -/
def Op2 (i : Instr) (x : Ext) (f : Word → Word → Word) : Prop :=
  ∀ s id g l t, InSpan s i id g l t →
    Takes s i id g l t (wordAt x.d (f (t.reg x.a).v (t.srcB x).v) ((t.reg x.a).p || (t.srcB x).p)) [] 0

/-- d := f A B C. -/
def Op3 (i : Instr) (x : Ext) (f : Word → Word → Word → Word) : Prop :=
  ∀ s id g l t, InSpan s i id g l t →
    Takes s i id g l t
      (wordAt x.d (f (t.reg x.a).v (t.srcB x).v (t.reg x.c).v) ((t.reg x.a).p || (t.srcB x).p || (t.reg x.c).p)) [] 0

/-- d := f A B on pairs. -/
def Op64 (i : Instr) (x : Ext) (f : Dword → Dword → Dword) : Prop :=
  ∀ s id g l t, InSpan s i id g l t →
    Takes s i id g l t (pairAt x.d (f (pairOf t x.a) (pairB t x)) ((t.pair x.a).p || (t.srcB64 x).p)) [] 0

end Sys2Proof.Claim

open Sys2Proof Sys2Proof.Machine Sys2Proof.Claim

/-- Table 6-2, one-word results: the value in the type, wrapped or clamped; poison of any source passes; no flag. -/
def Sys2Proof.Claim.IntegerWordResults : Prop :=
  ∀ x : Ext,
    Op2 (.iadd x) x (fun a b => res32 x (typed x a + typed x b)) ∧
    Op2 (.isub x) x (fun a b => res32 x (typed x a - typed x b)) ∧
    Op3 (.iaddc x) x (fun a b c =>
      BitVec.ofNat 32 (if x.modA.getLsbD 2 then (a.toNat + b.toNat + c.toNat % 2) / 2 ^ 32 else a.toNat + b.toNat + c.toNat % 2)) ∧
    Op2 (.imin x) x (fun a b => if typed x a ≤ typed x b then a else b) ∧
    Op2 (.imax x) x (fun a b => if typed x a ≤ typed x b then b else a) ∧
    Op1 (.iabs x) x (fun a => if a = 0x80000000 then (if x.modA.getLsbD 1 then 0x7FFFFFFF else a) else if a.toInt < 0 then -a else a) ∧
    Op1 (.ineg x) x (fun a => res32 x (-typed x a)) ∧
    Op3 (.iamin x) x (fun a b c =>
      if typed x (res32 x (typed x a + typed x b)) ≤ typed x c then res32 x (typed x a + typed x b) else c) ∧
    Op3 (.iamax x) x (fun a b c =>
      if typed x (res32 x (typed x a + typed x b)) ≤ typed x c then c else res32 x (typed x a + typed x b)) ∧
    Op3 (.isad x) x (fun a b c => res32 x ((typed x a - typed x b).natAbs + typed x c)) ∧
    Op2 (.lea x) x (fun a b => a + b <<< x.imm.toNat)

/-- Table 6-2, products: IMUL, IMULH, IMAD in one word, IMULW and IMADW in a pair. -/
def Sys2Proof.Claim.IntegerProducts : Prop :=
  ∀ x : Ext,
    Op2 (.imul x) x (fun a b => res32 x (typed x a * typed x b)) ∧
    Op2 (.imulh x) x (fun a b => BitVec.ofInt 32 (typed x a * typed x b / 2 ^ 32)) ∧
    Op3 (.imad x) x (fun a b c => res32 x (typed x a * typed x b + typed x c)) ∧
    (∀ s id g l t, InSpan s (.imulw x) id g l t →
      Takes s (.imulw x) id g l t
        (pairAt x.d (BitVec.ofInt 64 (typed x (t.reg x.a).v * typed x (t.srcB x).v)) ((t.reg x.a).p || (t.srcB x).p)) [] 0) ∧
    ∀ s id g l t, InSpan s (.imadw x) id g l t →
      Takes s (.imadw x) id g l t
        (pairAt x.d (res64 x (typed x (t.reg x.a).v * typed x (t.srcB x).v + typed64 x (pairOf t x.c)))
          ((t.reg x.a).p || (t.srcB x).p || (t.pair x.c).p)) [] 0

/-- Table 6-2 and Table 6-3 on 64 bits: sums, LEA64 and the shifts of pairs. -/
def Sys2Proof.Claim.IntegerPairResults : Prop :=
  ∀ x : Ext,
    Op64 (.iadd64 x) x (fun a b => res64 x (typed64 x a + typed64 x b)) ∧
    Op64 (.isub64 x) x (fun a b => res64 x (typed64 x a - typed64 x b)) ∧
    Op64 (.shl64 x) x (fun a b => a <<< b.toNat) ∧
    Op64 (.shr64 x) x (fun a b => a >>> b.toNat) ∧
    Op64 (.sar64 x) x (fun a b => a.sshiftRight b.toNat) ∧
    ∀ s id g l t, InSpan s (.lea64 x) id g l t →
      Takes s (.lea64 x) id g l t
        (pairAt x.d (pairOf t x.a + BitVec.ofInt 64 (typed x (t.srcB x).v) <<< x.imm.toNat) ((t.pair x.a).p || (t.srcB x).p)) [] 0

/-- The integer instructions of products and of pairs: the two statements of those names. -/
def Obligations.IntegerProductAndPairResults : Prop := Claim.IntegerProducts ∧ Claim.IntegerPairResults

/-- R109 and Table 6-2: the quotient rounded toward zero and the remainder whose sign follows A; by zero, all ones and A, with DZ, which
faults 0x10 where %fmode.trapen[6] is set; a poisoned result sets no flag and takes no trap (R104); an IREM with .sat is no
instruction. -/
def Obligations.DivisionResults : Prop :=
  ∀ x s id g l t,
    (InSpan s (.idiv x) id g l t →
      let a := (t.reg x.a).v
      let b := (t.srcB x).v
      let p := (t.reg x.a).p || (t.srcB x).p
      (b ≠ 0 → Takes s (.idiv x) id g l t (wordAt x.d (res32 x ((typed x a).tdiv (typed x b))) p) [] 0) ∧
      (b = 0 → p = false → t.fmode.getLsbD 6 = false → Takes s (.idiv x) id g l t (wordAt x.d 0xFFFFFFFF p) [] flagDZ) ∧
      (b = 0 → p = false → t.fmode.getLsbD 6 = true → Notes s (.idiv x) id g l t ⟨0x10, 0, 256 * (g.count + 1)⟩) ∧
      (b = 0 → p = true → Takes s (.idiv x) id g l t (wordAt x.d 0xFFFFFFFF p) [] 0)) ∧
    (InSpan s (.irem x) id g l t →
      let a := (t.reg x.a).v
      let b := (t.srcB x).v
      let p := (t.reg x.a).p || (t.srcB x).p
      (b ≠ 0 → Takes s (.irem x) id g l t (wordAt x.d (BitVec.ofInt 32 ((typed x a).tmod (typed x b))) p) [] 0) ∧
      (b = 0 → p = false → t.fmode.getLsbD 6 = false → Takes s (.irem x) id g l t (wordAt x.d a p) [] flagDZ) ∧
      (b = 0 → p = false → t.fmode.getLsbD 6 = true → Notes s (.irem x) id g l t ⟨0x10, 0, 256 * (g.count + 1)⟩) ∧
      (b = 0 → p = true → Takes s (.irem x) id g l t (wordAt x.d a p) [] 0)) ∧
    (x.modA.getLsbD 1 = true → ∀ ws, decodeWords ws ≠ .ok (.irem x))

/-- Table 6-3 on words: shifts by the whole unsigned count, the rotation by n mod 32, logic, counts and the bit reversal. -/
def Sys2Proof.Claim.BitWordResults : Prop :=
  ∀ x : Ext,
    Op2 (.shl x) x (fun a b => a <<< b.toNat) ∧ Op2 (.shr x) x (fun a b => a >>> b.toNat) ∧
    Op2 (.sar x) x (fun a b => a.sshiftRight b.toNat) ∧ Op2 (.rotl x) x (fun a b => a.rotateLeft (b.toNat % 32)) ∧
    Op2 (.band x) x (fun a b => a &&& b) ∧ Op2 (.bor x) x (fun a b => a ||| b) ∧ Op2 (.bxor x) x (fun a b => a ^^^ b) ∧
    Op1 (.bnot x) x (fun a => ~~~a) ∧ Op1 (.popc x) x (fun a => a.cpop) ∧ Op1 (.clz x) x (fun a => a.clz) ∧
    Op1 (.ctz x) x (fun a => a.ctz) ∧ Op1 (.brev x) x (fun a => a.reverse)

/-- Table 6-3, bit by bit: BOOL3's table, BFE's field and its fill, BFI's mask, FUNNEL's window. -/
def Sys2Proof.Claim.BitFieldResults : Prop :=
  ∀ x s id g l t,
    let a := (t.reg x.a).v
    let b := (t.srcB x).v
    let c := (t.reg x.c).v
    let pos := b.toNat % 256
    let w := if 32 ≤ pos then 0 else min (b.toNat / 256 % 256) (32 - pos)
    let p2 := (t.reg x.a).p || (t.srcB x).p
    (InSpan s (.bool3 x) id g l t →
      ∃ v : Word, Takes s (.bool3 x) id g l t (wordAt x.d v (p2 || (t.reg x.c).p)) [] 0 ∧
        ∀ i < 32, v.getLsbD i = x.imm.getLsbD ((a.getLsbD i).toNat + 2 * (b.getLsbD i).toNat + 4 * (c.getLsbD i).toNat)) ∧
    (InSpan s (.bfe x) id g l t →
      ∃ v : Word, Takes s (.bfe x) id g l t (wordAt x.d v p2) [] 0 ∧
        ∀ i < 32, v.getLsbD i =
          if i < w then a.getLsbD (pos + i) else (!x.modA.getLsbD 0 && decide (0 < w) && a.getLsbD (pos + w - 1))) ∧
    (InSpan s (.bfi x) id g l t →
      ∃ v : Word, Takes s (.bfi x) id g l t (wordAt x.d v (p2 || (t.reg x.c).p)) [] 0 ∧
        ∀ i < 32, v.getLsbD i = if pos ≤ i ∧ i < pos + w then a.getLsbD (i - pos) else c.getLsbD i) ∧
    (InSpan s (.funnel x) id g l t →
      Takes s (.funnel x) id g l t
        (wordAt x.d (((b ++ a : BitVec 64) >>> (c.toNat % 32)).setWidth 32) (p2 || (t.reg x.c).p)) [] 0)

/-- The 32-bit results of the integer and bit instructions: the three statements of those names. -/
def Obligations.IntegerAndBitResults : Prop := Claim.IntegerWordResults ∧ Claim.BitWordResults ∧ Claim.BitFieldResults

namespace Sys2Proof.Claim

open Sys2Proof.Machine

/-- The fields of R38: guard 0x7, no modifier, a = d where the instruction reads A, c = g0. -/
def baseFields (d a b : RegIdx) (lit : Option Dword) : Ext := { Ext.zero with d := d, a := a, b := b, lit := lit }

/-- The base instruction's major is mb, the extended one's me, and they have the same minor. -/
def SamePlace (mb me : Nat) (base ext : Instr) : Prop :=
  let w := ((encodeWords base).headD 0).toNat
  let e := ((encodeWords ext).headD 0).toNat
  w / 4 % 64 = mb ∧ e / 4 % 64 = me ∧ w / 2 ^ 26 = e / 256 % 256

/-- In the first run of a span, no lane at its deadline, exec answers a next state for both, every thread of the device is the same in the two, and the base
instruction's group stands after its one word, or three with a literal. -/
def SameEffect (base ext : Instr) (lit : Option Dword) : Prop :=
  ∀ s id g, s.focus = some id → (s.warp id).cur = some g → g.phase = .run →
    (∀ k ∈ g.lanes, ((s.warp id).thread k).wd + 1 < ((s.warp id).thread k).deadline) →
    ∃ s1 s2 g1, exec base s = .next s1 ∧ exec ext s = .next s2 ∧ (∀ t, s1.thread t = s2.thread t) ∧
      (s1.warp id).cur = some g1 ∧ g1.pc = g.pc + (if lit.isSome then 12 else 4) ∧ g1.count = g.count + 1

/-- The base form of a binary instruction that reads A has the effect of the extended one. -/
def BaseOf (mb me : Nat) (base : RegIdx → RegIdx → Option Dword → Instr) (ext : Ext → Instr) : Prop :=
  ∀ d b lit, SamePlace mb me (base d b lit) (ext (baseFields d d b lit)) ∧ SameEffect (base d b lit) (ext (baseFields d d b lit)) lit

/-- The same for an instruction without B. -/
def BaseOf1 (mb me : Nat) (base : RegIdx → Instr) (ext : Ext → Instr) : Prop :=
  ∀ d, SamePlace mb me (base d) (ext (baseFields d d 0 none)) ∧ SameEffect (base d) (ext (baseFields d d 0 none)) none

end Sys2Proof.Claim

/-- R38: a base RR instruction has exactly the effect of the extended instruction with the same minor under the paired major; BOOL3 in base form
writes zero; words that name a B their minor does not read, or a minor of MOV other than 0, are no instruction. -/
def Obligations.BaseHasExtendedEffect : Prop :=
  (let Base := BaseOf 0x01 0x01
   let Base1 := BaseOf1 0x01 0x01
   Base .iaddBase .iadd ∧ Base .isubBase .isub ∧ Base .iaddcBase .iaddc ∧ Base .iminBase .imin ∧ Base .imaxBase .imax ∧
    Base1 .iabsBase .iabs ∧ Base1 .inegBase .ineg ∧ Base .iaminBase .iamin ∧ Base .iamaxBase .iamax ∧
    Base .isadBase .isad ∧ Base .iadd64Base .iadd64 ∧ Base .isub64Base .isub64) ∧
  (let Base := BaseOf 0x02 0x03
   let Base1 := BaseOf1 0x02 0x03
   Base .shlBase .shl ∧ Base .shrBase .shr ∧ Base .sarBase .sar ∧ Base .rotlBase .rotl ∧ Base .bandBase .band ∧
    Base .borBase .bor ∧ Base .bxorBase .bxor ∧ Base1 .bnotBase .bnot ∧ Base .bool3Base .bool3 ∧ Base1 .popcBase .popc ∧
    Base1 .clzBase .clz ∧ Base1 .ctzBase .ctz ∧ Base1 .brevBase .brev ∧ Base .bfeBase .bfe ∧ Base .bfiBase .bfi ∧
    Base .funnelBase .funnel ∧ Base .shl64Base .shl64 ∧ Base .shr64Base .shr64 ∧ Base .sar64Base .sar64) ∧
  (let Base := BaseOf 0x03 0x05
   Base .faddBase .fadd ∧ Base .fsubBase .fsub ∧ Base .fmulBase .fmul ∧ Base .ffmaBase .ffma ∧ Base .fminBase .fmin ∧
    Base .fmaxBase .fmax) ∧
  (∀ d b lit, SamePlace 0x04 0x0C (.movBase d b lit) (.mov (baseFields d 0 b lit)) ∧
    SameEffect (.movBase d b lit) (.mov (baseFields d 0 b lit)) lit) ∧
  (∀ (d b : RegIdx) s id g l t, InSpan s (.bool3Base d b none) id g l t →
    Takes s (.bool3Base d b none) id g l t (wordAt d 0 ((t.reg d).p || (t.reg b).p)) [] 0) ∧
  ∀ (w : Word) (rest : List Word),
    let major := w.toNat / 4 % 64
    let minor := w.toNat / 2 ^ 26
    (w.toNat % 4 = 0 ∨ w.toNat % 4 = 2) →
    (major = 0x01 ∧ (minor = 0x05 ∨ minor = 0x06) ∨ major = 0x02 ∧ (minor = 0x07 ∨ 0x09 ≤ minor ∧ minor ≤ 0x0C)) ∧
        (w.toNat / 2 ^ 17 % 512 ≠ 0 ∨ w.toNat % 4 = 2) ∨ major = 0x04 ∧ minor ≠ 0 →
      ∃ e, decodeWords (w :: rest) = .error e

/-- R39 and Table 2-3: with v the sign-extended immediate or the literal's low half, d := d + v, v, d AND v, d << v, d >> v filled with
zeros, d >> v filled with bit 31; the poison of d passes, MOVI clears it. A shift has v from 0 to 31;
words with another count are no instruction. -/
def Obligations.BaseImmediateResults : Prop :=
  ∀ (d : RegIdx) (imm : BitVec 15) (lit : Option Dword) s id g l t,
    let v : Word := match lit with
      | some w => w.setWidth 32
      | none => imm.signExtend 32
    let r := t.reg d
    (InSpan s (.addi d imm lit) id g l t → Takes s (.addi d imm lit) id g l t (wordAt d (r.v + v) r.p) [] 0) ∧
    (InSpan s (.moviBase d imm lit) id g l t → Takes s (.moviBase d imm lit) id g l t (wordAt d v false) [] 0) ∧
    (InSpan s (.andi d imm lit) id g l t → Takes s (.andi d imm lit) id g l t (wordAt d (r.v &&& v) r.p) [] 0) ∧
    (v.toNat < 32 → InSpan s (.shli d imm lit) id g l t →
      Takes s (.shli d imm lit) id g l t (wordAt d (r.v <<< v.toNat) r.p) [] 0) ∧
    (v.toNat < 32 → InSpan s (.shri d imm lit) id g l t →
      Takes s (.shri d imm lit) id g l t (wordAt d (r.v >>> v.toNat) r.p) [] 0) ∧
    (v.toNat < 32 → InSpan s (.sari d imm lit) id g l t →
      Takes s (.sari d imm lit) id g l t (wordAt d (r.v.sshiftRight v.toNat) r.p) [] 0) ∧
    (32 ≤ v.toNat → ∀ ws, decodeWords ws ≠ .ok (.shli d imm lit) ∧ decodeWords ws ≠ .ok (.shri d imm lit) ∧
      decodeWords ws ≠ .ok (.sari d imm lit))
namespace Sys2Proof.Claim

open Sys2Proof.Machine

/-- A predicate of the lane: p7 is true (R15). -/
def predOf (t : Thread) (n : Nat) : Bool := if n = 7 then true else t.preds.getLsbD n

/-- The number a predicate field holds. -/
def predField (i : RegIdx) : Nat := i.toNat % 8

/-- Relations 0 to 5 of Table 6-4 on integers: eq, ne, lt, le, gt, ge. -/
def relInt (rel : Nat) (a b : Int) : Bool :=
  match rel with
  | 0 => a == b
  | 1 => a != b
  | 2 => decide (a < b)
  | 3 => decide (a ≤ b)
  | 4 => decide (b < a)
  | _ => decide (b ≤ a)

/-- The combine of R111: modB[4:3] none, and, or, xor with the predicate of modB[2:0]. -/
def combined (t : Thread) (x : Ext) (r : Bool) : Bool :=
  let q := predOf t (x.modB.toNat % 8)
  match x.modB.toNat / 8 with
  | 0 => r
  | 1 => r && q
  | 2 => r || q
  | _ => r != q

/-- A comparison writes one predicate; a poisoned source is consumed, with access code 2 of Table 15-3 (R104). -/
def Compares (i : Instr) (x : Ext) (poison : Thread → Bool) (value : Thread → Bool) : Prop :=
  ∀ s id g l t, InSpan s i id g l t →
    (poison t = false → Takes s i id g l t [] [(predField x.d, value t)] 0) ∧
    (poison t = true → Notes s i id g l t ⟨0x11, 0, 32 + 256 * (g.count + 1)⟩)

end Sys2Proof.Claim

/-- R111 and Table 6-4: the integer comparisons, PSET's table, SEL with the poison of the selected source only, and both PMOVs.
That PMOV.put with an empty mask still consumes a poisoned a is the model's choice (log entry 77). -/
def Sys2Proof.Claim.PredicateResults : Prop :=
  ∀ x : Ext,
    Compares (.iset x) x (fun t => (t.reg x.a).p || (t.srcB x).p)
      (fun t =>
        let v := fun (w : Word) => if x.modA.getLsbD 3 then (w.toNat : Int) else w.toInt
        combined t x (relInt (x.modA.toNat % 8) (v (t.reg x.a).v) (v (t.srcB x).v))) ∧
    Compares (.iset64 x) x (fun t => (t.pair x.a).p || (t.srcB64 x).p)
      (fun t =>
        let v := fun (w : Dword) => if x.modA.getLsbD 3 then (w.toNat : Int) else w.toInt
        combined t x (relInt (x.modA.toNat % 8) (v (Claim.pairOf t x.a)) (v (pairB t x)))) ∧
    Compares (.pset x) x (fun _ => false)
      (fun t => x.imm.getLsbD
        ((predOf t (predField x.a)).toNat + 2 * (predOf t (predField x.b)).toNat + 4 * (predOf t (predField x.c)).toNat)) ∧
    (∀ s id g l t, InSpan s (.sel x) id g l t →
      let r := if predOf t (predField x.c) != x.c.getLsbD 3 then t.reg x.a else t.srcB x
      Takes s (.sel x) id g l t (wordAt x.d r.v r.p) [] 0) ∧
    (∀ s id g l t, InSpan s (.pmovGet x) id g l t →
      Takes s (.pmovGet x) id g l t (wordAt x.d (0#24 ++ 1#1 ++ t.preds) false) [] 0) ∧
    ∀ s id g l t, InSpan s (.pmovPut x) id g l t →
      ((t.reg x.a).p = false →
        Takes s (.pmovPut x) id g l t []
          (([0, 1, 2, 3, 4, 5, 6].filter fun n => x.imm.getLsbD n).map fun n => (n, (t.reg x.a).v.getLsbD n)) 0) ∧
      ((t.reg x.a).p = true → Notes s (.pmovPut x) id g l t ⟨0x11, 0, 32 + 256 * (g.count + 1)⟩)

namespace Sys2Proof.Claim

open Sys2Proof.Machine

/-- The rounding of R112: a code of 1 to 4, or Mode() from %fmode[1:0]. -/
def modeOf (t : Thread) (code : Nat) : Rnd :=
  match code with
  | 1 => .rne
  | 2 => .rtz
  | 3 => .rup
  | 4 => .rdn
  | _ => if t.fmode.getLsbD 1 then (if t.fmode.getLsbD 0 then .rdn else .rup) else if t.fmode.getLsbD 0 then .rtz else .rne

/-- The flush of R112: code 1 .ftz, 2 .noftz, or %fmode.ftz, bit 2. -/
def flushOf (t : Thread) (code : Nat) : Bool :=
  match code with
  | 1 => true
  | 2 => false
  | _ => t.fmode.getLsbD 2

/-- A float result of n words: written with its flags where no enabled trap is among them, else fault 0x0F at the lane with the enabled
flags in [20:16] (R105, Table 15-3); a poisoned result sets no flag and takes no trap (R104). -/
def Floats (i : Instr) (d : RegIdx) (words : Nat) (r : Thread → FRes) (poison : Thread → Bool) : Prop :=
  ∀ s id g l t, InSpan s i id g l t →
    let fl : Flags := if poison t then 0 else (r t).flags
    let hit := fl &&& t.fmode.extractLsb' 3 5
    (hit = 0 →
      Takes s i id g l t
        (if words = 2 then pairAt d (BitVec.ofNat 64 (r t).bits) (poison t) else wordAt d (BitVec.ofNat 32 (r t).bits) (poison t)) [] fl) ∧
    (hit ≠ 0 → Notes s i id g l t ⟨0x0F, 0, hit.toNat * 65536 + 256 * (g.count + 1)⟩)

/-- An operand A of one word or a pair, read in the format with the instruction's flush. -/
def floatA (f : Fmt) (t : Thread) (x : Ext) (words : Nat) (i : RegIdx) : FVal :=
  f.read (flushOf t (x.modA.toNat / 8 % 4)) (if words = 2 then (Claim.pairOf t i).toNat else (t.reg i).v.toNat)

/-- Operand B, or the literal in its place. -/
def floatB (f : Fmt) (t : Thread) (x : Ext) (words : Nat) : FVal :=
  f.read (flushOf t (x.modA.toNat / 8 % 4)) (if words = 2 then (pairB t x).toNat else (t.srcB x).v.toNat)

/-- The poison of A and B. -/
def poisonAB (t : Thread) (x : Ext) (words : Nat) : Bool :=
  if words = 2 then (t.pair x.a).p || (t.srcB64 x).p else (t.reg x.a).p || (t.srcB x).p

/-- The poison of A. -/
def poisonA (t : Thread) (words : Nat) (i : RegIdx) : Bool := if words = 2 then (t.pair i).p else (t.reg i).p

/-- The minors of Table 6-5 in one width. -/
def FloatMinors (f : Fmt) (words : Nat) (add sub mul fma min max div sqrt scale rnd : Ext → Instr) : Prop :=
  ∀ x : Ext,
    let m := fun t => modeOf t (x.modA.toNat % 8)
    let z := fun t => flushOf t (x.modA.toNat / 8 % 4)
    let a := fun t => floatA f t x words x.a
    let b := fun t => floatB f t x words
    let p := fun t => poisonAB t x words
    Floats (add x) x.d words (fun t => f.addV (m t) (z t) (a t) (b t)) p ∧
    Floats (sub x) x.d words (fun t => f.addV (m t) (z t) (a t) (b t).negate) p ∧
    Floats (mul x) x.d words (fun t => f.mulF (m t) (z t) (a t) (b t)) p ∧
    Floats (fma x) x.d words (fun t => f.fmaF (m t) (z t) (a t) (b t) (floatA f t x words x.c))
      (fun t => p t || poisonA t words x.c) ∧
    Floats (min x) x.d words (fun t => f.minmaxF false (a t) (b t)) p ∧
    Floats (max x) x.d words (fun t => f.minmaxF true (a t) (b t)) p ∧
    Floats (div x) x.d words (fun t => f.divF (m t) (z t) (a t) (b t)) p ∧
    Floats (sqrt x) x.d words (fun t => f.sqrtF (m t) (z t) (a t)) (fun t => poisonA t words x.a) ∧
    Floats (scale x) x.d words (fun t => f.scaleF (m t) (z t) (a t) (t.srcB x).v.toInt)
      (fun t => poisonA t words x.a || (t.srcB x).p) ∧
    Floats (rnd x) x.d words (fun t => f.integralF (m t) (a t)) (fun t => poisonA t words x.a)

/-- The sign, exponent field and fraction field of bits, as a magnitude: m * 2^e (R62). -/
def magnitude (f : Fmt) (bits : Nat) : ℚ :=
  let ex := bits / 2 ^ f.mb % 2 ^ f.eb
  let fr := bits % 2 ^ f.mb
  if ex = 0 then (fr : ℚ) * 2 ^ (2 - 2 ^ (f.eb - 1) - f.mb : ℤ) else (2 ^ f.mb + fr : ℚ) * 2 ^ (ex + 1 - 2 ^ (f.eb - 1) - f.mb : ℤ)

/-- The bits are a finite number. -/
def finite (f : Fmt) (bits : Nat) : Prop := bits / 2 ^ f.mb % 2 ^ f.eb ≠ 2 ^ f.eb - 1

/-- The number that finite bits stand for (R62). -/
def standsFor (f : Fmt) (bits : Nat) : ℚ := (if bits / 2 ^ (f.eb + f.mb) % 2 = 1 then -1 else 1) * magnitude f bits

/-- (-1)^n * m * 2^e. -/
def number (n : Bool) (m : Nat) (e : ℤ) : ℚ := (if n then -1 else 1) * (m : ℚ) * 2 ^ e

/-! Rounding (R63, R64), said of any real number -/

/-- The numbers with a fraction of the format and any exponent, and those of them whose last bit is 0. -/
def Wide (f : Fmt) (y : ℝ) : Prop := ∃ k e : ℤ, |k| < 2 ^ (f.mb + 1) ∧ y = (k : ℝ) * (2 : ℝ) ^ e
def WideEven (f : Fmt) (y : ℝ) : Prop :=
  ∃ k e : ℤ, 2 ^ f.mb ≤ |k| ∧ |k| < 2 ^ (f.mb + 1) ∧ k % 2 = 0 ∧ y = (k : ℝ) * (2 : ℝ) ^ e

/-- The finite numbers of the format, and those of them whose last bit is 0. -/
def Finite (f : Fmt) (y : ℝ) : Prop := ∃ b, finite f b ∧ y = (standsFor f b : ℝ)
def FiniteEven (f : Fmt) (y : ℝ) : Prop := ∃ b, finite f b ∧ b % 2 = 0 ∧ y = (standsFor f b : ℝ)

/-- The integers, and the even ones. -/
def Whole (y : ℝ) : Prop := ∃ k : ℤ, y = k
def WholeEven (y : ℝ) : Prop := ∃ k : ℤ, y = 2 * k

/-- y is x rounded into a set of numbers in a mode; a tie goes to the even one (R63). -/
def Rounded (S even : ℝ → Prop) (mode : Rnd) (x y : ℝ) : Prop :=
  S y ∧
    match mode with
    | .rne => ∀ z, S z → z ≠ y → |y - x| < |z - x| ∨ |y - x| = |z - x| ∧ even y
    | .rtz => 0 ≤ x * y ∧ |y| ≤ |x| ∧ ∀ z, S z → |z| ≤ |x| → |z| ≤ |y|
    | .rup => x ≤ y ∧ ∀ z, S z → x ≤ z → y ≤ z
    | .rdn => y ≤ x ∧ ∀ z, S z → z ≤ x → z ≤ y

/-- r is the nonzero number x delivered in a format (R63, R64, Table 4-3): u is x rounded with an unbounded exponent; past the largest
number it overflows, below the least normal one it is tiny and is rounded among the format's numbers, or flushed, else it is delivered. -/
def RoundsTo (f : Fmt) (mode : Rnd) (flush : Bool) (x : ℝ) (r : FRes) : Prop :=
  let minus := 2 ^ (f.eb + f.mb)
  let infinity := (2 ^ f.eb - 1) * 2 ^ f.mb
  let largest : ℝ := (standsFor f (infinity - 1) : ℝ)
  let least : ℝ := (2 : ℝ) ^ (2 - 2 ^ (f.eb - 1) : ℤ)
  r.bits < 2 * minus ∧ (minus ≤ r.bits ↔ x < 0) ∧
    ∃ u, Rounded (Wide f) (WideEven f) mode x u ∧
      (largest < |u| → r.flags = flagOF ||| flagNX ∧
        r.bits % minus = if mode = .rne ∨ mode = .rup ∧ r.bits < minus ∨ mode = .rdn ∧ minus ≤ r.bits then infinity else infinity - 1) ∧
      (|u| < least → flush = true → r.bits % minus = 0 ∧ r.flags = flagUF ||| flagNX) ∧
      (|u| < least → flush = false → finite f r.bits ∧ Rounded (Finite f) (FiniteEven f) mode x (standsFor f r.bits : ℝ) ∧
        ((standsFor f r.bits : ℝ) = x → r.flags = 0) ∧ ((standsFor f r.bits : ℝ) ≠ x → r.flags = flagUF ||| flagNX)) ∧
      (least ≤ |u| → |u| ≤ largest → finite f r.bits ∧ (standsFor f r.bits : ℝ) = u ∧ (u = x → r.flags = 0) ∧ (u ≠ x → r.flags = flagNX))

/-- r is the number x delivered, or, where it is 0, a zero of a sign with no flag. -/
def Delivers (f : Fmt) (mode : Rnd) (flush : Bool) (x : ℝ) (minus : Bool) (r : FRes) : Prop :=
  (x = 0 → r = ⟨if minus then 2 ^ (f.eb + f.mb) else 0, 0⟩) ∧ (x ≠ 0 → RoundsTo f mode flush x r)

end Sys2Proof.Claim

/-- R112, R113 and Table 6-5: every FP32 and FP64 minor reads its operands with the instruction's flush, delivers the operation of its name on
them in the instruction's mode, sets its flags and takes its trap; what the operations are is stated in ArithmeticIsExact. -/
def Sys2Proof.Claim.FloatResults : Prop :=
  FloatMinors f32 1 .fadd .fsub .fmul .ffma .fmin .fmax .fdiv .fsqrt .fscale .frnd ∧
  FloatMinors f64 2 .fadd64 .fsub64 .fmul64 .ffma64 .fmin64 .fmax64 .fdiv64 .fsqrt64 .fscale64 .frnd64

/-- R62, R64, R113 and Table 6-5, in each format: how bits are read; the sum, product, product and sum, quotient, root and scaling of finite
numbers are the exact ones, rounded once; a zero result has the sign R63 gives; infinities; FMIN and FMAX choose the smaller or larger
operand, the number where the other is a NaN; FRND rounds to an integer and keeps the sign. -/
def Sys2Proof.Claim.ArithmeticIsExact : Prop :=
  ∀ f ∈ [f16, bf16, f32, f64], ∀ (mode : Rnd) (flush : Bool),
    let minus := 2 ^ (f.eb + f.mb)
    let infinity := fun (n : Bool) => (if n then minus else 0) + (2 ^ f.eb - 1) * 2 ^ f.mb
    let nan := (2 ^ f.eb - 1) * 2 ^ f.mb + 2 ^ (f.mb - 1)
    let sign := fun (b : Nat) => decide (b / minus % 2 = 1)
    let flushed := fun (b : Nat) => if flush = true ∧ b / 2 ^ f.mb % 2 ^ f.eb = 0 then (if sign b then minus else 0) else b % (2 * minus)
    (∀ b, finite f b → ∃ m e, f.read flush b = .fin (sign b) m e ∧ m < 2 ^ (f.mb + 1) ∧ number (sign b) m e = standsFor f (flushed b)) ∧
    (∀ b, ¬finite f b → f.read flush b =
      if b % 2 ^ f.mb = 0 then .inf (sign b) else .nan (decide (b / 2 ^ (f.mb - 1) % 2 = 0))) ∧
    (∀ n1 m1 e1 n2 m2 e2 n3 m3 e3,
      let a : FVal := .fin n1 m1 e1
      let b : FVal := .fin n2 m2 e2
      let c : FVal := .fin n3 m3 e3
      let x : ℝ := (number n1 m1 e1 : ℝ)
      let y : ℝ := (number n2 m2 e2 : ℝ)
      let z : ℝ := (number n3 m3 e3 : ℝ)
      Delivers f mode flush (x + y) (if n1 = n2 then n1 else mode == .rdn) (f.addV mode flush a b) ∧
      Delivers f mode flush (x * y) (n1 != n2) (f.mulF mode flush a b) ∧
      Delivers f mode flush (x * y + z) (if (n1 != n2) = n3 then n3 else mode == .rdn) (f.fmaF mode flush a b c) ∧
      (m2 ≠ 0 → Delivers f mode flush (x / y) (n1 != n2) (f.divF mode flush a b)) ∧
      (n1 = false ∨ m1 = 0 → Delivers f mode flush (Real.sqrt x) n1 (f.sqrtF mode flush a)) ∧
      ∀ k : ℤ, Delivers f mode flush (x * (2 : ℝ) ^ k) n1 (f.scaleF mode flush a k)) ∧
    (∀ n k m e,
      f.addV mode flush (.inf n) (.fin k m e) = ⟨infinity n, 0⟩ ∧ f.addV mode flush (.fin k m e) (.inf n) = ⟨infinity n, 0⟩ ∧
      f.addV mode flush (.inf n) (.inf n) = ⟨infinity n, 0⟩ ∧ f.mulF mode flush (.inf n) (.inf k) = ⟨infinity (n != k), 0⟩ ∧
      (m ≠ 0 → f.mulF mode flush (.inf n) (.fin k m e) = ⟨infinity (n != k), 0⟩ ∧ f.mulF mode flush (.fin k m e) (.inf n) = ⟨infinity (n != k), 0⟩) ∧
      f.divF mode flush (.inf n) (.fin k m e) = ⟨infinity (n != k), 0⟩ ∧
      f.divF mode flush (.fin k m e) (.inf n) = ⟨if n != k then minus else 0, 0⟩ ∧
      f.sqrtF mode flush (.inf false) = ⟨infinity false, 0⟩) ∧
    (∀ b c, finite f b → finite f c →
      let lower := f.minmaxF false (f.read flush b) (f.read flush c)
      let upper := f.minmaxF true (f.read flush b) (f.read flush c)
      lower.flags = 0 ∧ upper.flags = 0 ∧ (lower.bits = flushed b ∨ lower.bits = flushed c) ∧ (upper.bits = flushed b ∨ upper.bits = flushed c) ∧
        standsFor f lower.bits = min (standsFor f (flushed b)) (standsFor f (flushed c)) ∧
        standsFor f upper.bits = max (standsFor f (flushed b)) (standsFor f (flushed c)) ∧
        (standsFor f (flushed b) = standsFor f (flushed c) →
          sign lower.bits = (sign b || sign c) ∧ sign upper.bits = (sign b && sign c))) ∧
    (∀ (s r big : Bool) b, finite f b →
      f.minmaxF big (.nan s) (f.read flush b) = ⟨flushed b, if s then flagNV else 0⟩ ∧
      f.minmaxF big (f.read flush b) (.nan s) = ⟨flushed b, if s then flagNV else 0⟩ ∧
      f.minmaxF big (.nan s) (.nan r) = ⟨nan, if s || r then flagNV else 0⟩) ∧
    ∀ b, finite f b →
      let x : ℝ := (standsFor f (flushed b) : ℝ)
      let r := f.integralF mode (f.read flush b)
      ∃ k : ℝ, Rounded Whole WholeEven mode x k ∧ finite f r.bits ∧ (standsFor f r.bits : ℝ) = k ∧ sign r.bits = sign b ∧
        (k = x → r.flags = 0) ∧ (k ≠ x → r.flags = flagNX)

/-- The floating-point instructions, and that their operations are the exact ones rounded once. -/
def Obligations.FloatResults : Prop := Claim.FloatResults ∧ Claim.ArithmeticIsExact

/-- R63, R64 and Table 4-3: the function that rounds delivers every exact number, in each format and mode, with and without flush: to the
nearest, ties to even, toward zero, up, down; overflow, tiny results, the flags. -/
def Obligations.RoundingPicksTheNumber : Prop :=
  ∀ f ∈ [f16, bf16, f32, f64], ∀ (mode : Rnd) (flush neg : Bool) (m : Nat) (e : ℤ),
    Delivers f mode flush ((number neg m e : ℚ) : ℝ) neg (f.round mode flush neg m e)

/-- R64, R65 and Table 6-5 in binary32, by bits: a NaN operand gives CanonNaN 0x7FC0_0000 and NV only where it signals, infinities of
opposite sign and 0 times infinity give CanonNaN with NV, a finite nonzero divided by zero gives infinity with DZ, the root of a negative
number NV, the root of -0 is -0. -/
def Obligations.FloatSpecialCases : Prop :=
  (∀ mode flush s v,
    f32.addV mode flush (.nan s) v = ⟨0x7FC00000, if s then flagNV else v.invalid⟩ ∧
    f32.mulF mode flush (.nan s) v = ⟨0x7FC00000, if s then flagNV else v.invalid⟩ ∧
    f32.divF mode flush (.nan s) v = ⟨0x7FC00000, if s then flagNV else v.invalid⟩ ∧
    f32.sqrtF mode flush (.nan s) = ⟨0x7FC00000, if s then flagNV else 0⟩) ∧
  (∀ mode flush n,
    f32.addV mode flush (.inf n) (.inf (!n)) = ⟨0x7FC00000, flagNV⟩ ∧
    (∀ k e, f32.mulF mode flush (.inf n) (.fin k 0 e) = ⟨0x7FC00000, flagNV⟩ ∧
      f32.divF mode flush (.fin n 0 e) (.fin k 0 e) = ⟨0x7FC00000, flagNV⟩ ∧
      f32.sqrtF mode flush (.fin n 0 e) = ⟨if n then 0x80000000 else 0, 0⟩ ∧
      ∀ m, m ≠ 0 →
        f32.divF mode flush (.fin n m e) (.fin k 0 e) = ⟨if n = k then 0x7F800000 else 0xFF800000, flagDZ⟩ ∧
        f32.sqrtF mode flush (.fin true m e) = ⟨0x7FC00000, flagNV⟩) ∧
    (∀ s, f32.fmaF mode flush (.inf n) (.fin n 0 0) (.nan s) = ⟨0x7FC00000, flagNV⟩))

/-- R114: each FP16 minor applies the rule to elements 0 and 1 on their own, in .f16 or, with modA[5], .bf16, and sets the OR of both
elements' flags. -/
def Obligations.HalfResults : Prop :=
  ∀ x : Ext,
    let f := if x.modA.getLsbD 5 then bf16 else f16
    let m := fun t => modeOf t (x.modA.toNat % 8)
    let z := fun t => flushOf t (x.modA.toNat / 8 % 4)
    let el := fun t (v : Word) (i : Nat) => f.read (z t) (v.extractLsb' (16 * i) 16).toNat
    let two := fun (r : Nat → FRes) => (⟨(r 0).bits + 65536 * (r 1).bits, (r 0).flags ||| (r 1).flags⟩ : FRes)
    let a := fun (t : Thread) i => el t (t.reg x.a).v i
    let b := fun (t : Thread) i => el t (t.srcB x).v i
    let c := fun (t : Thread) i => el t (t.reg x.c).v i
    let p := fun t => poisonAB t x 1
    Floats (.hadd2 x) x.d 1 (fun t => two fun i => f.addV (m t) (z t) (a t i) (b t i)) p ∧
    Floats (.hmul2 x) x.d 1 (fun t => two fun i => f.mulF (m t) (z t) (a t i) (b t i)) p ∧
    Floats (.hfma2 x) x.d 1 (fun t => two fun i => f.fmaF (m t) (z t) (a t i) (b t i) (c t i)) (fun t => p t || (t.reg x.c).p) ∧
    Floats (.hmin2 x) x.d 1 (fun t => two fun i => f.minmaxF false (a t i) (b t i)) p ∧
    Floats (.hmax2 x) x.d 1 (fun t => two fun i => f.minmaxF true (a t i) (b t i)) p

/-- R111: FSET and FSET64 compare values, a NaN makes every relation false but .ne and .nan; NV for a signalling NaN, under .sig for any. -/
def Sys2Proof.Claim.FloatCompareResults : Prop :=
  ∀ words ∈ [1, 2], ∀ (x : Ext) s id g l t,
    let i : Instr := if words = 2 then .fset64 x else .fset x
    let f := if words = 2 then f64 else f32
    let rd := fun v => f.read (t.fmode.getLsbD 2) v
    let a := rd (if words = 2 then (Claim.pairOf t x.a).toNat else (t.reg x.a).v.toNat)
    let b := rd (if words = 2 then (pairB t x).toNat else (t.srcB x).v.toNat)
    let r : Bool := match a.cmp b with
      | none => x.modA.toNat % 8 == 1 || x.modA.toNat % 8 == 7
      | some o =>
        match x.modA.toNat % 8 with
        | 0 => o == .eq
        | 1 => o != .eq
        | 2 => o == .lt
        | 3 => o != .gt
        | 4 => o == .gt
        | 5 => o != .lt
        | 6 => true
        | _ => false
    let nan := a.isNaN || b.isNaN
    let fl : Flags := if nan && (x.modA.getLsbD 3 || a == .nan true || b == .nan true) then flagNV else 0
    let hit := fl &&& t.fmode.extractLsb' 3 5
    InSpan s i id g l t →
      (poisonAB t x words = false → hit = 0 → Takes s i id g l t [] [(predField x.d, combined t x r)] fl) ∧
      (poisonAB t x words = false → hit ≠ 0 → Notes s i id g l t ⟨0x0F, 0, hit.toNat * 65536 + 256 * (g.count + 1)⟩) ∧
      (poisonAB t x words = true → Notes s i id g l t ⟨0x11, 0, 32 + 256 * (g.count + 1)⟩)

/-- Comparison and selection: integers, predicates, floats. -/
def Obligations.ComparisonResults : Prop := Claim.PredicateResults ∧ Claim.FloatCompareResults

/-- R115: CVT between its eight type codes, CVTPK's two elements, CVTX's widened element; rounding and flush by modB. -/
def Sys2Proof.Claim.ConversionResults : Prop :=
  ∀ x : Ext,
    let m := fun t => modeOf t (x.modB.toNat % 8)
    let z := fun t => flushOf t (x.modB.toNat / 8)
    let dst := x.modA.toNat % 8
    let src := x.modA.toNat / 8
    let wide := fun (c : Nat) => c == 2 || c == 3 || c == 7
    let half := if x.modA.getLsbD 0 then bf16 else f16
    Floats (.cvt x) x.d (if wide dst then 2 else 1)
      (fun t => convertCode dst src (m t) (z t) (if wide src then (Claim.pairOf t x.a).toNat else (t.reg x.a).v.toNat))
      (fun t => if wide src then (t.pair x.a).p else (t.reg x.a).p) ∧
    Floats (.cvtpk x) x.d 1
      (fun t =>
        let r0 := half.convert (m t) (z t) (f32.read (z t) (t.reg x.a).v.toNat)
        let r1 := half.convert (m t) (z t) (f32.read (z t) (t.srcB x).v.toNat)
        ⟨r0.bits + 65536 * r1.bits, r0.flags ||| r1.flags⟩)
      (fun t => (t.reg x.a).p || (t.srcB x).p) ∧
    Floats (.cvtx x) x.d 1
      (fun t => f32.convert .rne (z t)
        (half.read (z t) (if x.imm.getLsbD 0 then (t.reg x.a).v.toNat / 65536 else (t.reg x.a).v.toNat % 65536)))
      (fun t => (t.reg x.a).p)

/-- R67 and R115: what a conversion delivers between every pair of type codes. Float to integer: a NaN gives 0 with NV, an infinity its
bound with NV, a finite number is rounded to an integer first; outside the range its bound with NV, else NX where it changed. Integer to
integer: its bound with no flag. To a float: the number rounded; an infinity stays; a NaN gives CanonNaN, NV where it signals. That a
quiet NaN of the destination's own format gives CanonNaN too is the model's reading (log entry 31). -/
def Sys2Proof.Claim.ConversionSaturates : Prop :=
  ∀ (mode : Rnd) (flush : Bool) (dst src v : Nat), dst < 8 → src < 8 →
    let width := fun (c : Nat) => if c = 2 ∨ c = 3 ∨ c = 7 then 64 else if c = 4 ∨ c = 5 then 16 else 32
    let fmt := fun (c : Nat) => (([f16, bf16, f32, f64] : List Fmt)[c - 4]?).getD f64
    let lo : ℤ := if dst % 2 = 0 then -2 ^ (width dst - 1) else 0
    let hi : ℤ := if dst % 2 = 0 then 2 ^ (width dst - 1) - 1 else 2 ^ width dst - 1
    let int := fun (k : ℤ) => (BitVec.ofInt (width dst) k).toNat
    let raw := BitVec.ofNat (width src) v
    let given : ℤ := if src % 2 = 0 then raw.toInt else raw.toNat
    let value := (fmt src).read flush raw.toNat
    let r := convertCode dst src mode flush v
    (src < 4 → dst < 4 → r = ⟨int (max lo (min given hi)), 0⟩) ∧
    (4 ≤ src → dst < 4 →
      (∀ s, value = .nan s → r = ⟨0, flagNV⟩) ∧ (∀ n, value = .inf n → r = ⟨int (if n then lo else hi), flagNV⟩) ∧
      ∀ n m e, value = .fin n m e → ∃ k : ℤ, Rounded Whole WholeEven mode ((number n m e : ℚ) : ℝ) k ∧
        (k < lo → r = ⟨int lo, flagNV⟩) ∧ (hi < k → r = ⟨int hi, flagNV⟩) ∧
        (lo ≤ k → k ≤ hi → r = ⟨int k, if (k : ℚ) = number n m e then 0 else flagNX⟩)) ∧
    (src < 4 → 4 ≤ dst → Delivers (fmt dst) mode flush (given : ℝ) false r) ∧
    (4 ≤ src → 4 ≤ dst →
      let f := fmt dst
      (∀ s, value = .nan s → r = ⟨(2 ^ f.eb - 1) * 2 ^ f.mb + 2 ^ (f.mb - 1), if s then flagNV else 0⟩) ∧
      (∀ n, value = .inf n → r = ⟨(if n then 2 ^ (f.eb + f.mb) else 0) + (2 ^ f.eb - 1) * 2 ^ f.mb, 0⟩) ∧
      ∀ n m e, value = .fin n m e → Delivers f mode flush ((number n m e : ℚ) : ℝ) n r)

/-- Conversions: their values, and where they saturate. -/
def Obligations.ConversionResults : Prop := Claim.ConversionResults ∧ Claim.ConversionSaturates

/-- R116: each special function is one fixed mapping of the operand's bits, read with the instruction's flush, with its flags and its trap.
Which number within the bound it returns is left open (log entry 6). -/
def Sys2Proof.Claim.SpecialFunctionResults : Prop :=
  ∀ x : Ext,
    let z := fun t => flushOf t (x.modA.toNat / 8 % 4)
    let sfu := fun (i : Instr) (f : Word → Bool → FVal → FRes) =>
      Floats i x.d 1 (fun t => f (t.reg x.a).v (z t) (f32.read (z t) (t.reg x.a).v.toNat)) (fun t => (t.reg x.a).p)
    sfu (.rcp x) sfuRcp ∧ sfu (.rsq x) sfuRsq ∧ sfu (.ex2 x) sfuEx2 ∧ sfu (.lg2 x) sfuLg2 ∧ sfu (.sin x) (sfuTrig 4) ∧
    sfu (.cos x) (sfuTrig 5) ∧ sfu (.tanh x) sfuTanh

/-- Table 6-6, special values by bits, whatever the open choice: zeros, infinities, negative operands, NaNs and 1.0; RCP and RSQ come within
1 ulp of the exact number where their result is finite, SIN and COS beyond 2^16 lie in [-1, 1]. The bounds of the other functions are not
stated. That EX2 of +infinity sets no flag is the model's choice (log entry 76). -/
def Sys2Proof.Claim.SpecialFunctionValues : Prop :=
  ∀ (w : Word) (flush : Bool),
    (∀ f ∈ [sfuRcp, sfuRsq, sfuEx2, sfuLg2, sfuTrig 4, sfuTrig 5, sfuTanh], ∀ s,
      f w flush (.nan s) = ⟨0x7FC00000, if s then flagNV else 0⟩) ∧
    (∀ n e,
      sfuRcp w flush (.fin n 0 e) = ⟨if n then 0xFF800000 else 0x7F800000, flagDZ⟩ ∧
      sfuRcp w flush (.inf n) = ⟨if n then 0x80000000 else 0, 0⟩ ∧
      sfuRsq w flush (.fin n 0 e) = ⟨if n then 0xFF800000 else 0x7F800000, flagDZ⟩ ∧
      sfuLg2 w flush (.fin n 0 e) = ⟨0xFF800000, flagDZ⟩ ∧
      sfuTrig 4 w flush (.fin n 0 e) = ⟨if n then 0x80000000 else 0, 0⟩ ∧
      sfuTrig 5 w flush (.fin n 0 e) = ⟨0x3F800000, 0⟩ ∧
      sfuTanh w flush (.fin n 0 e) = ⟨if n then 0x80000000 else 0, 0⟩ ∧
      sfuTanh w flush (.inf n) = ⟨if n then 0xBF800000 else 0x3F800000, 0⟩ ∧
      sfuTrig 4 w flush (.inf n) = ⟨0x7FC00000, flagNV⟩ ∧ sfuTrig 5 w flush (.inf n) = ⟨0x7FC00000, flagNV⟩) ∧
    (sfuRsq w flush (.inf false) = ⟨0, 0⟩ ∧ sfuEx2 w flush (.inf true) = ⟨0, 0⟩ ∧ sfuEx2 w flush (.inf false) = ⟨0x7F800000, 0⟩ ∧
      sfuLg2 w flush (.inf false) = ⟨0x7F800000, 0⟩) ∧
    (∀ m e, m ≠ 0 → sfuRsq w flush (.fin true m e) = ⟨0x7FC00000, flagNV⟩ ∧ sfuLg2 w flush (.fin true m e) = ⟨0x7FC00000, flagNV⟩) ∧
    (sfuRcp w flush (f32.read flush 0x3F800000) = ⟨0x3F800000, 0⟩ ∧ sfuEx2 w flush (f32.read flush 0x3F800000) = ⟨0x40000000, 0⟩ ∧
      sfuLg2 w flush (f32.read flush 0x41000000) = ⟨0x40400000, 0⟩) ∧
    (∀ n m e, f32.read false w.toNat = .fin n m e → m ≠ 0 →
      let near := fun (x : ℝ) (bits : Nat) => finite f32 bits → ∀ k : ℤ, (2 : ℝ) ^ k ≤ |x| → |x| < (2 : ℝ) ^ (k + 1) →
        |(standsFor f32 bits : ℝ) - x| ≤ (2 : ℝ) ^ max (k - 23) (-149)
      near (1 / (number n m e : ℝ)) (sfuRcp w false (.fin n m e)).bits ∧
      (n = false → near (1 / Real.sqrt (number n m e : ℝ)) (sfuRsq w false (.fin n m e)).bits)) ∧
    ∀ n m e, f32.read flush w.toNat = .fin n m e → 65536 < number false m e →
      ∀ minor ∈ [4, 5], finite f32 (sfuTrig minor w flush (.fin n m e)).bits ∧ |standsFor f32 (sfuTrig minor w flush (.fin n m e)).bits| ≤ 1

/-- The special functions, and the values stated of them. -/
def Obligations.SpecialFunctionResults : Prop := Claim.SpecialFunctionResults ∧ Claim.SpecialFunctionValues

/-- R117: RAND's six rounds on the counter B with the key A; with modA[0] the top 24 bits of the result times 2^-24 as binary32;
no other modifier is an instruction. -/
def Obligations.RandResults : Prop :=
  ∀ x : Ext,
    let mix := fun (y : Word) => y ^^^ (y >>> 16)
    let round := fun (v k : Word) => mix ((v ^^^ k) * 0x9E3779B1)
    let gen := fun (key ctr : Word) =>
      [1, 2, 3, 4, 5].foldl (fun v i => round v (key + BitVec.ofNat 32 i * 0x7F4A7C15)) (round ctr key)
    (x.modA.getLsbD 0 = false → Op2 (.rand x) x fun key ctr => gen key ctr) ∧
    (x.modA.getLsbD 0 = true →
      ∀ s id g l t, InSpan s (.rand x) id g l t →
        ∃ v : Word,
          Takes s (.rand x) id g l t (wordAt x.d v ((t.reg x.a).p || (t.srcB x).p)) [] 0 ∧
            v.getLsbD 31 = false ∧ magnitude f32 v.toNat = ((gen (t.reg x.a).v (t.srcB x).v >>> 8).toNat : ℚ) * 2 ^ (-24 : ℤ)) ∧
    (x.modA.toNat / 2 ≠ 0 ∨ x.modB ≠ 0 → ∀ ws, decodeWords ws ≠ .ok (.rand x))

namespace Sys2Proof.Claim

open Sys2Proof.Machine

/-- A lane contributes (R121): it is in the group and its guard is true. -/
def contributes (s : State) (id : WarpId) (g : Issue) (i : Instr) (k : Nat) : Bool :=
  decide (k ∈ g.lanes) && ((s.warp id).thread k).guard i.ext.guard

/-- The contributing lanes of the lane's segment of 2^w lanes, ascending. -/
def voters (s : State) (id : WarpId) (g : Issue) (i : Instr) (w l : Nat) : List Nat :=
  ((List.range (2 ^ w)).map fun q => l / 2 ^ w * 2 ^ w + q).filter (contributes s id g i)

/-- Another lane's register, as it was before the instruction (R32). -/
def regOf (s : State) (id : WarpId) (k : Nat) (r : RegIdx) : PWord := ((s.warp id).thread k).reg r

/-- Bit k - base of a word for each lane k of a list (R123). -/
def maskFrom (base : Nat) (ls : List Nat) (v : Word) : Prop := ∀ n < 32, v.getLsbD n = decide (base + n ∈ ls)

/-- The offset SHFL names and whether it is inside the segment (R122): modes .lane, .rot, .flip, .rev. -/
def shuffled (mode w q k : Nat) : Nat × Bool :=
  match mode with
  | 0 => (k, decide (k < 2 ^ w))
  | 1 => ((q + k) % 2 ^ w, true)
  | 2 => (q ^^^ k, decide (k < 2 ^ w))
  | _ => ((2 ^ w - 1 - q) ^^^ k, decide (k < 2 ^ w))

/-- What SHFL and SHFLX do (R122): `value t` is the operand of a thread, `write` the destination's write. -/
def Shuffles (i : Instr) (x : Ext) (write : Thread → List (Nat × PWord)) : Prop :=
  ∀ s id g l t, InSpan s i id g l t →
    let const := x.imm.getLsbD 11
    let k := if const then x.imm.toNat / 64 % 32 else (t.reg x.b).v.toNat
    let w := x.imm.toNat / 8 % 8
    let base := l / 2 ^ w * 2 ^ w
    let o := shuffled (x.modA.toNat % 4) w (l - base) k
    let valid := fun (b : Bool) => if x.imm.toNat % 8 = 7 then [] else [(x.imm.toNat % 8, b)]
    (const = false → (t.reg x.b).p = true → Notes s i id g l t ⟨0x11, 0, 48 + 256 * (g.count + 1)⟩) ∧
    ((const = true ∨ (t.reg x.b).p = false) →
      (o.2 = true → contributes s id g i (base + o.1) = true →
        Takes s i id g l t (write ((s.warp id).thread (base + o.1))) (valid true) 0) ∧
      ((o.2 = false ∨ contributes s id g i (base + o.1) = false) → Takes s i id g l t (write t) (valid false) 0))

/-- The integer operators of Table 6-8 over a list of words. -/
def Folded (op : Nat) (vs : List Word) (v : Word) : Prop :=
  match op with
  | 0 => v = BitVec.ofNat 32 (vs.map BitVec.toNat).sum
  | 1 => v ∈ vs ∧ ∀ u ∈ vs, v.toInt ≤ u.toInt
  | 2 => v ∈ vs ∧ ∀ u ∈ vs, u.toInt ≤ v.toInt
  | 3 => v ∈ vs ∧ ∀ u ∈ vs, v.toNat ≤ u.toNat
  | 4 => v ∈ vs ∧ ∀ u ∈ vs, u.toNat ≤ v.toNat
  | 5 => ∀ n < 32, v.getLsbD n = vs.all fun u => u.getLsbD n
  | 6 => ∀ n < 32, v.getLsbD n = vs.any fun u => u.getLsbD n
  | _ => ∀ n < 32, v.getLsbD n = ((vs.filter fun u => u.getLsbD n).length % 2 == 1)

/-- The identities of Table 6-8. -/
def foldIdentity (op : Nat) : Word :=
  match op with
  | 1 => 0x7FFFFFFF
  | 2 => 0x80000000
  | 3 => 0xFFFFFFFF
  | 5 => 0xFFFFFFFF
  | 8 => 0x80000000
  | 9 => 0x7F800000
  | 10 => 0xFF800000
  | _ => 0

/-- A float operator of Table 6-8 on two results: the value and the flags of every operation behind it. -/
def floatStep (op : Nat) (a b : FRes) : FRes :=
  let u := f32.read false a.bits
  let v := f32.read false b.bits
  let r := if op = 8 then f32.addV .rne false u v else f32.minmaxF (op == 10) u v
  ⟨r.bits, a.flags ||| b.flags ||| r.flags⟩

/-- The tree of R124: position P after w stages; an absent side leaves the other as it is. -/
def floatTree (op : Nat) (leaf : Nat → Option FRes) : Nat → Nat → Option FRes
  | 0, p => leaf p
  | w + 1, p =>
    match floatTree op leaf w p, floatTree op leaf w (p + 2 ^ w) with
    | some a, some b => some (floatStep op a b)
    | some a, none => some a
    | none, r => r

/-- A combined value's write: poisoned when any input is, its flags then none (R104, R124). -/
def TakesWord (s : State) (i : Instr) (id : WarpId) (g : Issue) (l : Nat) (t : Thread) (d : RegIdx) (v : Word) (p : Bool) (fl : Flags) :
    Prop := Takes s i id g l t (wordAt d v p) [] (if p then 0 else fl)

end Sys2Proof.Claim

/-- R121 and R122: SHFL, SHFLX and LSH read the lane R122 names where it contributes, and no other lane is read. -/
def Obligations.CrossLaneMoves : Prop :=
  ∀ x : Ext,
    Shuffles (.shfl x) x (fun u => wordAt x.d (u.reg x.a).v (u.reg x.a).p) ∧
    Shuffles (.shflx x) x (fun u => pairAt x.d (Claim.pairOf u x.a) (u.pair x.a).p) ∧
    (∀ s id g l t, InSpan s (.lsh x) id g l t →
      let k := x.imm.toNat % 32
      let w := x.imm.toNat / 32 % 8
      let base := l / 2 ^ w * 2 ^ w
      let src := if x.modA.getLsbD 0 then l + k else l - k
      let inside := if x.modA.getLsbD 0 then l + k < base + 2 ^ w else base + k ≤ l
      let r := if inside ∧ contributes s id g (.lsh x) src = true then regOf s id src x.a else t.reg x.c
      Takes s (.lsh x) id g l t (wordAt x.d r.v r.p) [] 0)

/-- R123: VOTE's six votes, BALLOT's and MATCH's masks from the segment's base, MATCH.lead's count and leader, and its poison. -/
def Sys2Proof.Claim.VoteResults : Prop :=
  ∀ (x : Ext) s id g l t,
    let w := x.imm.toNat % 8
    let base := l / 2 ^ w * 2 ^ w
    (InSpan s (.vote x) id g l t →
      let vs := (voters s id g (.vote x) w l).map fun k => predOf ((s.warp id).thread k) (x.modA.toNat / 8) != x.modB.getLsbD 0
      let yes := (vs.filter (· == true)).length
      let r : Bool := match x.modA.toNat % 8 with
        | 0 => vs.any (· == true)
        | 1 => vs.all (· == true)
        | 2 => !vs.any (· == true)
        | 3 => vs.all (· == true) || !vs.any (· == true)
        | 4 => yes % 2 == 1
        | _ => decide (vs.length < 2 * yes)
      Takes s (.vote x) id g l t [] [(predField x.d, r)] 0) ∧
    (InSpan s (.ballot x) id g l t →
      ∃ v, Takes s (.ballot x) id g l t (wordAt x.d v false) [] 0 ∧
        maskFrom base ((voters s id g (.ballot x) w l).filter fun k =>
          predOf ((s.warp id).thread k) (x.modA.toNat % 8) != x.modA.getLsbD 3) v) ∧
    (InSpan s (.matchKey x) id g l t →
      let seg := voters s id g (.matchKey x) w l
      let key := fun k =>
        let u := (s.warp id).thread k
        if x.modA.getLsbD 0 then Claim.pairOf u x.a else (u.reg x.a).v.setWidth 64
      let bad := seg.any fun k =>
        let u := (s.warp id).thread k
        if x.modA.getLsbD 0 then (u.pair x.a).p else (u.reg x.a).p
      let same := seg.filter fun k => key k == key l
      ∃ v, Takes s (.matchKey x) id g l t (wordAt x.d v bad) [] 0 ∧
        (x.modA.getLsbD 1 = false → maskFrom base same v) ∧
        (x.modA.getLsbD 1 = true →
          ∃ lead ∈ same, (∀ k ∈ same, lead ≤ k) ∧ v = BitVec.ofNat 32 (256 * same.length + (lead - base))))

/-- R124: REDUCE combines the contributing lanes of the segment, integers in any order, floats by the fixed tree over positions; SCAN
combines serially up to the lane, or below it with .excl, and gives the operator's identity where nothing stands below.
That a NaN which alone contributes is delivered as it stands is the model's choice (log entry 75). -/
def Sys2Proof.Claim.ReduceAndScanResults : Prop :=
  ∀ (x : Ext) s id g l t,
    let w := x.imm.toNat % 8
    let op := x.modA.toNat % 16
    let seed := fun k => (⟨(regOf s id k x.a).v.toNat, 0⟩ : FRes)
    (InSpan s (.reduce x) id g l t →
      let ks := voters s id g (.reduce x) w l
      let bad := ks.any fun k => (regOf s id k x.a).p
      (op < 8 → ∃ v, TakesWord s (.reduce x) id g l t x.d v bad 0 ∧ Folded op (ks.map fun k => (regOf s id k x.a).v) v) ∧
      (op = 8 ∨ op = 9 ∨ op = 10 →
        ∃ r, floatTree op (fun k => if contributes s id g (.reduce x) k then some (seed k) else none) w (l / 2 ^ w * 2 ^ w) = some r ∧
          TakesWord s (.reduce x) id g l t x.d (BitVec.ofNat 32 r.bits) bad r.flags)) ∧
    (InSpan s (.scan x) id g l t →
      let excl := x.modA.getLsbD 4
      let ks := (voters s id g (.scan x) w l).filter fun k => if excl then decide (k < l) else decide (k ≤ l)
      let bad := ks.any fun k => (regOf s id k x.a).p
      (ks = [] → TakesWord s (.scan x) id g l t x.d (foldIdentity op) false 0) ∧
      (ks ≠ [] → op < 8 →
        ∃ v, TakesWord s (.scan x) id g l t x.d v bad 0 ∧ Folded op (ks.map fun k => (regOf s id k x.a).v) v) ∧
      ∀ k rest, ks = k :: rest → op = 8 ∨ op = 9 ∨ op = 10 →
        let r := rest.foldl (fun a n => floatStep op a (seed n)) (seed k)
        TakesWord s (.scan x) id g l t x.d (BitVec.ofNat 32 r.bits) bad r.flags)

/-- Votes, reductions and scans across the lanes. -/
def Obligations.VoteReduceScanResults : Prop := Claim.VoteResults ∧ Claim.ReduceAndScanResults

namespace Sys2Proof.Claim

open Sys2Proof.Machine

/-- What a lane brings to a block instruction: +0.0 where it does not contribute (R71, R73). -/
def blockInput (s : State) (id : WarpId) (g : Issue) (i : Instr) (x : Ext) (k : Nat) : Nat :=
  if contributes s id g i k then (regOf s id k x.a).v.toNat else 0

/-- Some contributing lane's input is poisoned. -/
def blockPoison (s : State) (id : WarpId) (g : Issue) (i : Instr) (x : Ext) : Prop :=
  ∃ k, contributes s id g i k = true ∧ (regOf s id k x.a).p = true

/-- The butterfly of R73 after n stages, lane k's value with the flags of what made it. -/
def butterfly (v : Nat → Nat) : Nat → Nat → FRes
  | 0, k => ⟨v k, 0⟩
  | n + 1, k =>
    let own := butterfly v n k
    let r :=
      if k.testBit n then f32.addV .rne false (f32.read false (butterfly v n (k - 2 ^ n)).bits) (f32.read false own.bits).negate
      else f32.addV .rne false (f32.read false own.bits) (f32.read false (butterfly v n (k + 2 ^ n)).bits)
    ⟨r.bits, own.flags ||| r.flags⟩

/-- The product by 2^(-5/2) in binary32, 0x3E35_04F3 (R73). -/
def scaledBy (r : FRes) : FRes :=
  let m := f32.mulF .rne false (f32.read false r.bits) (f32.read false 0x3E3504F3)
  ⟨m.bits, r.flags ||| m.flags⟩

/-- A number of steps of 2^e nearest to a magnitude, the even one of two as near (R71). -/
def NearestSteps (v : ℚ) (e : ℤ) (n : Nat) : Prop :=
  ∀ m : Nat, m ≠ n →
    |v - (n : ℚ) * 2 ^ e| < |v - (m : ℚ) * 2 ^ e| ∨ (|v - (n : ℚ) * 2 ^ e| = |v - (m : ℚ) * 2 ^ e| ∧ n % 2 = 0)

/-- R71 for the values of the 32 lanes: the exponents eh and el, and one lane's sel, m and flags for the finite or special value v k. -/
def Quantised (bq4 : Bool) (spacing : Nat) (v : Nat → Nat) (eh el k sel m : Nat) (fl : Flags) : Prop :=
  let mmax : Nat := if bq4 then 3 else 63
  let scale := fun (e : Nat) => ((e : ℤ) - (if bq4 then 128 else 132))
  let special := ∃ j < 32, ¬finite f32 (v j)
  let fits := fun (e : Nat) => ∀ j < 32, finite f32 (v j) → magnitude f32 (v j) ≤ (mmax : ℚ) * 2 ^ scale e
  ∃ e ≤ 254, (e < 254 → fits e) ∧ (∀ e' < e, ¬fits e') ∧
    (special → eh = 255 ∧ el = e) ∧ (¬special → eh = e ∧ el = e - spacing) ∧
    (¬finite f32 (v k) → sel = 1 ∧ fl = 0 ∧ m = (if v k % 2 ^ 23 = 0 then 0 else 1)) ∧
    (finite f32 (v k) →
      ∃ q : Nat, NearestSteps (magnitude f32 (v k)) (scale el) q ∧
        (q ≤ mmax → sel = 0 ∧ m = q) ∧
        (mmax < q → special → sel = 0 ∧ m = mmax) ∧
        (mmax < q → ¬special → sel = 1 ∧ ∃ h : Nat, NearestSteps (magnitude f32 (v k)) (scale eh) h ∧ m = min h mmax) ∧
        (fl &&& flagNX = 0 ↔ (m : ℚ) * 2 ^ scale (if sel = 1 then eh else el) = magnitude f32 (v k)) ∧
        (fl &&& ~~~(flagNX ||| flagOF) = 0) ∧
        (fl &&& flagOF ≠ 0 ↔ m = mmax ∧ ∃ h : Nat, mmax < h ∧ NearestSteps (magnitude f32 (v k)) (scale (if sel = 1 then eh else el)) h))

end Sys2Proof.Claim

/-- R71 to R73 and R125: QBLK's exponents, element and flags, DQBLK's exact value, HAD32's butterfly of five stages and its scaling.
Lanes are numbered 0 to 31 (R9). -/
def Obligations.BlockResults : Prop :=
  ∀ (x : Ext) s id g l t, l < 32 →
    (InSpan s (.qblk x) id g l t →
      let v := blockInput s id g (.qblk x) x
      let bq4 := x.modA.getLsbD 0
      let n := if bq4 then 2 else 6
      ∃ eh el sel m fl p, Quantised bq4 x.imm.toNat v eh el l sel m fl ∧ (p = true ↔ blockPoison s id g (.qblk x) x) ∧
        TakesWord s (.qblk x) id g l t x.d
          (BitVec.ofNat 32 (eh * 2 ^ 24 + el * 2 ^ 16 + sel * 2 ^ (n + 1) +
            (if v l % 2 ^ 31 > 0x7F800000 then 0 else v l / 2 ^ 31) * 2 ^ n + m)) p fl) ∧
    (InSpan s (.dqblk x) id g l t →
      let a := t.reg x.a
      let n := if x.modA.getLsbD 0 then 2 else 6
      let e : Nat := if a.v.getLsbD (n + 1) then a.v.toNat / 2 ^ 24 else a.v.toNat / 2 ^ 16 % 2 ^ 8
      let m := a.v.toNat % 2 ^ n
      ∃ v : Word, Takes s (.dqblk x) id g l t (wordAt x.d v a.p) [] 0 ∧
        (e = 255 → m ≠ 0 → v = 0x7FC00000) ∧
        (¬(e = 255 ∧ m ≠ 0) → v.getLsbD 31 = a.v.getLsbD n) ∧ (e = 255 → m = 0 → v.setWidth 31 = 0x7F800000#31) ∧
        (e ≠ 255 → finite f32 v.toNat ∧
          magnitude f32 (v.toNat % 2 ^ 31) = (m : ℚ) * 2 ^ ((e : ℤ) - (if x.modA.getLsbD 0 then 128 else 132)))) ∧
    (InSpan s (.had32 x) id g l t →
      let r := butterfly (blockInput s id g (.had32 x) x) 5 l
      let out := if x.modA.getLsbD 0 then r else scaledBy r
      ∃ p, (p = true ↔ blockPoison s id g (.had32 x) x) ∧ TakesWord s (.had32 x) id g l t x.d (BitVec.ofNat 32 out.bits) p out.flags)

namespace Sys2Proof.Claim

open Sys2Proof.Machine

/-- The number of words and the value of each special register of Table 1-4 in a lane. -/
def special (s : State) (id : WarpId) (l : Nat) (t : Thread) (x : Ext) : Nat × Nat :=
  let gang := id.wg.gang
  let q := s.part gang.part
  let h := s.header gang
  let wg := s.wg id.wg
  match x.imm.toNat % 256 with
  | 0x00 => (1, l)
  | 0x01 => (1, id.warp)
  | 0x02 => (1, wg.slot)
  | 0x03 => (1, id.wg.member)
  | 0x04 => (2, gang.gang)
  | 0x05 => (1, wg.core)
  | 0x06 => (1, wg.core / 64)
  | 0x08 => (1, 32 * id.warp + l)
  | 0x09 => (1, id.wg.member)
  | 0x0A => (2, gang.gang % h.e2)
  | 0x0B => (2, gang.gang / h.e2 % h.e3)
  | 0x0C => (2, gang.gang / (h.e2 * h.e3) % h.e4)
  | 0x0D => (2, gang.gang / (h.e2 * h.e3 * h.e4))
  | 0x0E => (2, h.wid (32 * id.warp + l) id.wg.member gang.gang)
  | 0x10 => (1, t.fmode.toNat)
  | 0x11 => (1, ((s.warp id).lanes.foldl (fun (a : Flags) u => a ||| u.2.fflags) 0).toNat)
  | 0x12 => (2, q.ticks)
  | 0x13 => (2, q.ticks * 20 / 21)
  | 0x14 => (1, t.vanish.toNat)
  | 0x18 => (1, t.fr.kind.toNat)
  | 0x19 => (2, t.fr.pc.toNat)
  | 0x1A => (2, t.fr.entry.toNat)
  | 0x1B => (1, t.fr.lane.toNat)
  | 0x1C => (2, t.fr.addr.toNat)
  | 0x1D => (1, t.fr.info.toNat)
  | _ =>
    (1, match tbGet (s.core wg.core).accs (x.imm.toNat / 256 % 8) with
      | some a => if a.owner = id.wg then a.nanc else 0
      | none => 0)

end Sys2Proof.Claim

/-- R118: MOV and MOVI in one word or a pair, SREAD of every register of Table 1-4, WID's fields right-aligned. -/
def Obligations.MoveResults : Prop :=
  ∀ (x : Ext) s id g l t,
    (InSpan s (.mov x) id g l t →
      Takes s (.mov x) id g l t
        (if x.modA.getLsbD 0 then pairAt x.d (pairB t x) (t.srcB64 x).p else wordAt x.d (t.srcB x).v (t.srcB x).p) [] 0) ∧
    (InSpan s (.movi x) id g l t →
      Takes s (.movi x) id g l t
        (if x.modA.getLsbD 0 then pairAt x.d (x.imm.signExtend 64) false else wordAt x.d (x.imm.signExtend 32) false) [] 0) ∧
    (InSpan s (.sread x) id g l t →
      let r := Claim.special s id l t x
      Takes s (.sread x) id g l t
        (if r.1 = 2 then pairAt x.d (BitVec.ofNat 64 r.2) false else wordAt x.d (BitVec.ofNat 32 r.2) false) [] 0) ∧
    (InSpan s (.wid x) id g l t →
      let h := s.header id.wg.gang
      let lo := ((List.range (x.imm.toNat % 8)).map h.width).sum
      let hi := ((List.range (x.imm.toNat / 8 % 8)).map h.width).sum + h.width (x.imm.toNat / 8 % 8)
      let v := h.wid (32 * id.warp + l) id.wg.member id.wg.gang.gang
      Takes s (.wid x) id g l t (pairAt x.d (BitVec.ofNat 64 (v / 2 ^ lo % 2 ^ (hi - lo))) false) [] 0)

namespace Sys2Proof.Claim

open Sys2Proof.Machine

/-- A span instruction other than LD, LDPARAM and ST. -/
def laneOnly (i : Instr) : Bool :=
  !i.form.boundary &&
    match i with
    | .ld _ => false
    | .ldparam _ => false
    | .st _ => false
    | _ => true

/-- What of a thread an instruction with these destinations keeps. -/
structure Keeps (t u : Thread) (regs preds : List Nat) : Prop where
  regs : ∀ r, r ∉ regs → smGet .zero u.regs r = smGet .zero t.regs r
  preds : ∀ n, n ∉ preds → u.preds.getLsbD n = t.preds.getLsbD n
  flags : t.fflags ||| u.fflags = u.fflags
  rest : u = { t with regs := u.regs, preds := u.preds, fflags := u.fflags, wd := t.wd + 1, pends := u.pends, flt := u.flt,
                      kinds := u.kinds }

end Sys2Proof.Claim

/-- R32, R79 and R90: in the first run of a span an instruction that names no memory answers a next state and writes only its destinations
in the guard-true lanes of its group: no memory, no other warp, no lane outside the group, no other register, predicate, mode or
fault register; a guard-false lane only issues. Where a lane's count would reach its deadline, none issues and the warp keeps that lane
for its watchdog. -/
def Obligations.SpanFrame : Prop :=
  ∀ (i : Instr) s id g, i.wf = true → laneOnly i = true → s.focus = some id → (s.warp id).cur = some g → g.phase = .run →
    let due := fun k => ((s.warp id).thread k).deadline ≤ ((s.warp id).thread k).wd + 1
    ((∃ k ∈ g.lanes, due k) → ∃ l ∈ g.lanes, due l ∧
      exec i s = .next (s.setWarp id { s.warp id with cur := some { g with overrun := some l } })) ∧
    ((∀ k ∈ g.lanes, ¬due k) → ∃ s', exec i s = .next s' ∧
      s' = { s with warps := s'.warps, wgs := (s.countIssue id).wgs, parts := (s.count id.gang.part 0x02 1).parts,
                    nextId := s.nextId + 1 } ∧
      (∀ id', id' ≠ id → s'.warp id' = s.warp id') ∧
      (∀ l, l ∉ g.lanes → s'.thread ⟨id, l⟩ = s.thread ⟨id, l⟩) ∧
      ∀ l t, l ∈ g.lanes → tbGet (s.warp id).lanes l = some t →
        Keeps t (s'.thread ⟨id, l⟩) (if t.guard i.ext.guard then i.writesRegs else [])
          (if t.guard i.ext.guard then i.writesPreds else []) ∧
        (t.guard i.ext.guard = false → (s'.thread ⟨id, l⟩).fflags = t.fflags ∧ (s'.thread ⟨id, l⟩).flt = t.flt ∧
          (s'.thread ⟨id, l⟩).kinds = t.kinds))

/-! ### What a lane alone in its group takes from a boundary instruction -/

namespace Sys2Proof.Claim

open Sys2Proof.Machine

/-- The focused warp's group is one lane, ready, its guard true, its count not at its deadline unless the instruction is a YIELD
(R80, R84, R90); t is its thread. -/
structure Alone (s : State) (i : Instr) (id : WarpId) (g : Issue) (l : Nat) (t : Thread) : Prop where
  focus : s.focus = some id
  cur : (s.warp id).cur = some g
  lanes : g.lanes = [l]
  thread : s.thread ⟨id, l⟩ = t
  ready : t.wait = .ready
  guard : t.guard i.ext.guard = true
  inTime : t.wd + 1 < t.deadline ∨ isYield i t = true

/-- It has issued a boundary instruction: a place it took on its memory's paths while it waited is used up (R214). -/
def stepped (t : Thread) (now : Nat) : Thread := { counted t now with arrived := none }

/-- The thread has taken a place on its memory's paths and waits there (R214). -/
def placed (s : State) (id : WarpId) (l : Nat) : State :=
  s.setThread ⟨id, l⟩ { s.thread ⟨id, l⟩ with arrived := some ((s.thread ⟨id, l⟩).arrived.getD s.nextId) }

/-- The lane does not wait for the other lanes of its group. -/
def loner (t : Thread) : Prop := ∀ mates here next, t.wait ≠ .together mates here next

/-- exec answers a next state that is s1 but for the lane, whose thread is u, and for the counters of what has issued: the span is over
with its part of the operand log, every other warp and every other lane is as in s1; a paired warp's shadow follows its leader (R307). -/
def After (s : State) (i : Instr) (id : WarpId) (l : Nat) (s1 : State) (u : Thread) : Prop :=
  ∃ s2, exec i s = .next s2 ∧ s2.thread ⟨id, l⟩ = u ∧ (∀ k, k ≠ l → loner (s1.thread ⟨id, k⟩) → s2.thread ⟨id, k⟩ = s1.thread ⟨id, k⟩) ∧
    (∀ id', id' ≠ id → s2.warp id' = s1.warp id') ∧
    s2.warp id = { s1.warp id with lanes := (s2.warp id).lanes, cur := none, log := (s1.warp id).log.filter LogEntry.boundary, shadow := (s2.warp id).shadow,
                                   shadowMasks := (s2.warp id).shadowMasks } ∧
    s2 = { s1 with warps := s2.warps, wgs := (s1.countIssue id).wgs, parts := (s1.count id.gang.part 0x02 1).parts }

/-- The lane goes on at a PC. -/
def Went (s : State) (i : Instr) (id : WarpId) (l : Nat) (s1 : State) (pc : Dword) : Prop :=
  After s i id l s1 { stepped (s1.thread ⟨id, l⟩) s.clk with pc := pc }

/-- The lane parks at the instruction. -/
def Parked (s : State) (i : Instr) (id : WarpId) (g : Issue) (l : Nat) (s1 : State) (w : Wait) : Prop :=
  After s i id l s1 { stepped (s1.thread ⟨id, l⟩) s.clk with wait := w, pc := g.pc }

/-- A thread as a fault leaves it where its launch has a handler (R94, R298). -/
def entered (t : Thread) (l : Nat) (f : FaultInfo) (entry frpc handler : Dword) : Thread :=
  { t with
      fr := { kind := BitVec.ofNat 8 f.kind, pc := frpc, entry := entry, lane := BitVec.ofNat 32 l, addr := BitVec.ofNat 64 f.addr,
              info := BitVec.ofNat 32 f.info }
      inHandler := true
      wait := .ready
      pc := handler }

/-- The lane takes a fault at the instruction and enters its launch's handler. -/
def Traps (s : State) (i : Instr) (id : WarpId) (g : Issue) (l : Nat) (s1 : State) (f : FaultInfo) (frpc : Dword) : Prop :=
  (s1.header id.gang).handler ≠ 0 → (s1.thread ⟨id, l⟩).inHandler = false →
    After s i id l s1
      (entered (stepped (s1.thread ⟨id, l⟩) s.clk) l f g.pc frpc (BitVec.ofNat 64 (s1.header id.gang).handler))

/-- The lane is held at the instruction: exec answers s1 with the span over and the lane standing there, nothing issued. -/
def Stands (s : State) (i : Instr) (id : WarpId) (g : Issue) (l : Nat) (s1 : State) : Prop :=
  ∃ s2, exec i s = .next s2 ∧ s2.thread ⟨id, l⟩ = { s1.thread ⟨id, l⟩ with pc := g.pc, stalled := true } ∧ (s2.warp id).cur = none ∧
    (∀ id', id' ≠ id → s2.warp id' = s1.warp id') ∧ s2 = { s1 with warps := s2.warps }

/-- The PC behind an extended instruction: 12 bytes, 20 with a literal (R35). -/
def behind (g : Issue) (x : Ext) : Dword := g.pc + (if x.lit.isSome then 20 else 12)

/-- The state with the lane's thread replaced. -/
def withThread (s : State) (id : WarpId) (l : Nat) (t : Thread) : State := s.setThread ⟨id, l⟩ t

/-- Canonical(va) of R6: bits 63 to 55 alike. -/
def canonicalVa (a : Dword) : Prop := a.toNat < 2 ^ 55 ∨ 2 ^ 64 - 2 ^ 55 ≤ a.toNat

/-- A transfer of a lane (R87): to a canonical target aligned to 4 with its link written, else a fault, a poisoned target first. -/
def Transfers (i : Instr) (s : State) (id : WarpId) (g : Issue) (l : Nat) (t : Thread) (tgt : Dword) (poison : Bool)
    (link : List (Nat × PWord)) : Prop :=
  (poison = true → Traps s i id g l s ⟨0x11, 0, 32⟩ g.pc) ∧
  (poison = false → ¬canonicalVa tgt → Traps s i id g l s ⟨0x04, tgt.toNat, 96⟩ g.pc) ∧
  (poison = false → canonicalVa tgt → tgt.toNat % 4 ≠ 0 → Traps s i id g l s ⟨0x06, tgt.toNat, 96⟩ g.pc) ∧
  (poison = false → canonicalVa tgt → tgt.toNat % 4 = 0 → Went s i id l (withThread s id l (t.writeRegs link)) tgt)

end Sys2Proof.Claim

/-- R40, R86 and R87: where each transfer of a lane goes, its link, its faults; a false condition of BRA_BASE falls through. -/
def Sys2Proof.Claim.TransferResults : Prop :=
  (∀ (x : Ext) s id g l t,
    let off := fun (n : Int) => g.pc + BitVec.ofInt 64 (4 * n)
    (Alone s (.bra x) id g l t → Transfers (.bra x) s id g l t (off x.imm.toInt) false []) ∧
    (Alone s (.brx x) id g l t → Transfers (.brx x) s id g l t (Claim.pairOf t x.a) (t.pair x.a).p []) ∧
    (Alone s (.ret x) id g l t → Transfers (.ret x) s id g l t (Claim.pairOf t x.a) (t.pair x.a).p []) ∧
    (Alone s (.call x) id g l t →
      Transfers (.call x) s id g l t (off x.imm.toInt) false (pairAt x.d (behind g x) false)) ∧
    (Alone s (.callx x) id g l t →
      Transfers (.callx x) s id g l t (Claim.pairOf t x.a) (t.pair x.a).p (pairAt x.d (behind g x) false))) ∧
  ∀ (cond : BitVec 4) (o : BitVec 20) s id g l t, Alone s (.braBase cond o) id g l t →
    ((predOf t (cond.toNat % 8) != cond.getLsbD 3) = true →
      Transfers (.braBase cond o) s id g l t (g.pc + BitVec.ofInt 64 (4 * o.toInt)) false []) ∧
    ((predOf t (cond.toNat % 8) != cond.getLsbD 3) = false → Went s (.braBase cond o) id l s (g.pc + 4))

/-- R87: BRV's vote is taken over the guard-true lanes of the whole group, .any, .all or .none of the predicate; where it is true the
group does what BRA does, where it is false a lane falls through. -/
def Sys2Proof.Claim.WarpBranchResults : Prop :=
  ∀ (x : Ext) s id g, s.focus = some id → (s.warp id).cur = some g →
    let on := g.lanes.filter fun k => (s.thread ⟨id, k⟩).guard x.guard
    let vote := fun k => predOf (s.thread ⟨id, k⟩) (x.modA.toNat % 8) != x.modA.getLsbD 3
    let taken : Bool := match x.modA.toNat / 16 with
      | 0 => on.any vote
      | 1 => on.all vote
      | _ => !on.any vote
    (taken = true → exec (.brv x) s = exec (.bra x) s) ∧
    (taken = false → ∀ l t, Alone s (.brv x) id g l t → Went s (.brv x) id l s (behind g x))

/-- R119: SWRITE of %fmode, %fflags and %frpc; values past the fields are an illegal instruction, a poisoned source is consumed. -/
def Obligations.SpecialRegisterWrites : Prop :=
  ∀ (x : Ext) s id g l t, Alone s (.swrite x) id g l t →
    let n := x.imm.toNat % 256
    let a := t.reg x.a
    (n = 0x10 → a.p = false → a.v.toNat < 256 →
      Went s (.swrite x) id l (withThread s id l { t with fmode := a.v }) (behind g x)) ∧
    (n = 0x11 → a.p = false → a.v.toNat < 32 →
      Went s (.swrite x) id l (withThread s id l { t with fflags := a.v.setWidth 5 }) (behind g x)) ∧
    (n = 0x19 → (t.pair x.a).p = false →
      Went s (.swrite x) id l (withThread s id l { t with fr := { t.fr with pc := Claim.pairOf t x.a } }) (behind g x)) ∧
    (n = 0x10 ∨ n = 0x11 → a.p = true → Traps s (.swrite x) id g l s ⟨0x11, 0, 48⟩ g.pc) ∧
    (n = 0x19 → (t.pair x.a).p = true → Traps s (.swrite x) id g l s ⟨0x11, 0, 48⟩ g.pc) ∧
    ((n = 0x10 ∧ 256 ≤ a.v.toNat) ∨ (n = 0x11 ∧ 32 ≤ a.v.toNat) → a.p = false →
      Traps s (.swrite x) id g l s ⟨0x01, g.pc.toNat, ((encodeWords (.swrite x)).headD 0).toNat⟩ g.pc)

namespace Sys2Proof.Claim

open Sys2Proof.Machine

/-- A rejoin mask of a warp (R9): clear until marked. -/
def maskOf (w : Warp) (j : Nat) : Word := (tbGet w.masks j).getD 0

/-- A lane of a mask does not hold it up (R89): it is parked at an RJWAIT on the mask or has exited. -/
def settled (t : Thread) (j : Nat) : Bool :=
  match t.wait with
  | .rejoin k _ => k == j
  | .exited => true
  | _ => false

/-- What a mask instruction makes of mask j, for any group none of whose lanes is at its deadline (R88, R90); the other masks stay. -/
def Marks (i : Instr) (j : Nat) (bit : Bool → Bool → Bool) : Prop :=
  ∀ s id g, s.focus = some id → (s.warp id).cur = some g →
    (∀ k ∈ g.lanes, ((s.warp id).thread k).wd + 1 < ((s.warp id).thread k).deadline) →
    ∃ s', exec i s = .next s' ∧
      (∀ k < 32, (maskOf (s'.warp id) j).getLsbD k = bit (decide (k ∈ g.lanes)) ((maskOf (s.warp id) j).getLsbD k)) ∧
      (∀ j', j' ≠ j → maskOf (s'.warp id) j' = maskOf (s.warp id) j') ∧
      (s'.warp id).spill = (s.warp id).spill ∧ (∀ id', id' ≠ id → s'.warp id' = s.warp id') ∧
      s' = { s with warps := s'.warps, wgs := (s.countIssue id).wgs, parts := s'.parts } ∧
      ∀ l t, Alone s i id g l t → s'.thread ⟨id, l⟩ = { stepped t s.clk with pc := g.pc + BitVec.ofNat 64 (4 * i.words) }

/-- RJWAIT of a lane alone on mask j (R88, R89). -/
def RejoinWaits (i : Instr) (j : Nat) : Prop :=
  ∀ s id g l t, Alone s i id g l t → l < 32 →
    let next := g.pc + BitVec.ofNat 64 (4 * i.words)
    let m := maskOf (s.warp id) j
    let others := ∀ k < 32, k ≠ l → m.getLsbD k = true → settled (s.thread ⟨id, k⟩) j = true
    ∃ s', exec i s = .next s' ∧ (s'.warp id).masks = (s.warp id).masks ∧
      (m.getLsbD l = false ∨ others → s'.thread ⟨id, l⟩ = { stepped t s.clk with pc := next }) ∧
      (m.getLsbD l = true → ¬others → s'.thread ⟨id, l⟩ = { stepped t s.clk with wait := .rejoin j next, pc := g.pc }) ∧
      (m.getLsbD l = true → others → ∀ k n, k ≠ l → (s.thread ⟨id, k⟩).wait = .rejoin j n →
        s'.thread ⟨id, k⟩ = { s.thread ⟨id, k⟩ with wait := .ready, pc := n })

end Sys2Proof.Claim

/-- R88: RJMARK makes the group the mask, or adds it with .join; RJDROP takes it out; the lanes go on. -/
def Sys2Proof.Claim.RejoinMaskResults : Prop :=
  (∀ x, Marks (.rjmark x) (x.modA.toNat % 8) fun mine old => mine || x.modA.getLsbD 3 && old) ∧
  (∀ j : BitVec 3, Marks (.rjmarkBase j) j.toNat fun mine _ => mine) ∧
  (∀ x, Marks (.rjdrop x) (x.modA.toNat % 8) fun mine old => old && !mine) ∧
  ∀ (x : Ext) s id g l t, Alone s (.rjread x) id g l t →
    Went s (.rjread x) id l (withThread s id l (t.writeRegs (wordAt x.d (maskOf (s.warp id) (x.modA.toNat % 8)) false))) (behind g x)

/-- R88 and R89: RJWAIT falls through where the lane's bit is clear; the last lane to arrive releases every lane parked on the mask,
each at its own next PC; till then the lane is parked. -/
def Sys2Proof.Claim.RejoinWaitResults : Prop :=
  (∀ x, RejoinWaits (.rjwait x) (x.modA.toNat % 8)) ∧ ∀ j : BitVec 3, RejoinWaits (.rjwaitBase j) j.toNat

/-- Transfers of control of a lane and of a warp; the rejoin masks and the wait at one. -/
def Obligations.BranchAndRejoinResults : Prop := Claim.TransferResults ∧ Claim.WarpBranchResults ∧ Claim.RejoinMaskResults ∧ Claim.RejoinWaitResults

namespace Sys2Proof.Claim

open Sys2Proof.Machine

/-- SEAL of a lane alone (R82, R85): the results it names, g0 naming none, may land after it; where every other result of the lane's
sealed span has landed it goes on, else it waits in place. -/
def Seals (i : Instr) (names : List RegIdx) : Prop :=
  ∀ s id g l t, Alone s i id g l t → tbGet (s.warp id).lanes l = some t →
    let named := fun (p : Pend) => decide (∃ r ∈ names, r ≠ 0 ∧ r.toNat ∈ p.regs)
    let t1 := { t with pends := t.pends.map fun p => if named p then { p with sealing := false } else p }
    let done := ∀ p ∈ t.pends, p.sealing = true → named p = true
    ∃ s', exec i s = .next s' ∧
      (done → s'.thread ⟨id, l⟩ = { stepped t1 s.clk with pc := g.pc + BitVec.ofNat 64 (4 * i.words) } ∧ (s'.warp id).cur = none) ∧
      (¬done → s'.thread ⟨id, l⟩ = t1 ∧ (s'.warp id).cur = some g)

/-- YIELD of a lane alone (R58, R90): the watchdog count is 0, the deadline 2^(8 + e), the registers above g(16 live) zero, to stay so
where a result is still to land; in a
draining gang the lane stops behind it (R286). -/
def Yields (i : Instr) (live dexp : Nat) : Prop :=
  ∀ s id g l t, Alone s i id g l t →
    let next := g.pc + BitVec.ofNat 64 (4 * i.words)
    let drains := (s.gang id.wg.gang).state = .draining
    ∃ s' u, exec i s = .next s' ∧ s'.thread ⟨id, l⟩ = u ∧
      u = { stepped t s.clk with
              wd := 0, deadline := 2 ^ (8 + dexp), live := some live, regs := u.regs, pends := u.pends, wait := u.wait, pc := u.pc } ∧
      u.pends = (stepped t s.clk).pends.map (fun p => { p with regs := p.regs.map fun r => if r ≤ 16 * live then r else 0 }) ∧
      (∀ r, smGet .zero u.regs r = if r ≤ 16 * live then smGet .zero t.regs r else .zero) ∧
      (¬drains → u.wait = .ready ∧ u.pc = next) ∧ (drains → u.wait = .drained next ∧ u.pc = g.pc)

/-- TAIL of a lane alone (R91, R280): it has exited, its loads are dropped unseen; what it leaves outstanding takes the first free entry
of its core's tracker, and where all 16 are taken it is held. -/
def Tails (i : Instr) : Prop :=
  ∀ s id g l t, Alone s i id g l t →
    let core := s.coreOf id
    let free := fun (n : Nat) => tbGet (s.core core).tracker n = none
    let ends := fun (s' : State) => exec i s = .next s' ∧ (s'.thread ⟨id, l⟩).wait = .exited ∧ (s'.thread ⟨id, l⟩).pends = [] ∧
      s'.coreQ = s.coreQ.filter (fun a => !(t.pends.map Pend.id).contains a.id) ∧ s'.mem = s.mem
    (s.outstanding ⟨id, l⟩ = false → ∃ s', ends s' ∧ (s'.core core).tracker = (s.core core).tracker) ∧
    (s.outstanding ⟨id, l⟩ = true → ∀ n < 16, free n → (∀ m < n, ¬free m) →
      ∃ s', ends s' ∧ (s'.core core).tracker = tbSet (s.core core).tracker n ⟨id.gang, [⟨id, l⟩]⟩) ∧
    (s.outstanding ⟨id, l⟩ = true → (∀ n < 16, ¬free n) → Stands s i id g l s)

/-- EXIT of a lane alone (R92, R273): it waits for its operations; a running gang whose other lanes have all ended, or wait so, is
RETIRING, but for a root gang. -/
def Exits (i : Instr) : Prop :=
  ∀ s id g l t, Alone s i id g l t →
    let gang := id.wg.gang
    let last := ∀ w ∈ s.warps, w.1.wg.gang = gang → ∀ k ∈ w.2.lanes, ⟨w.1, k.1⟩ ≠ (⟨id, l⟩ : ThreadId) →
      k.2.wait = .exited ∨ k.2.wait = .exitWait
    ∃ s', exec i s = .next s' ∧ s'.thread ⟨id, l⟩ = { stepped t s.clk with wait := .exitWait, pc := g.pc } ∧
      (∀ k, k ≠ l → loner (s.thread ⟨id, k⟩) → s'.thread ⟨id, k⟩ = s.thread ⟨id, k⟩) ∧ (∀ id', id' ≠ id → s'.warp id' = s.warp id') ∧
      s' = { s with warps := s'.warps, wgs := (s.countIssue id).wgs, gangs := s'.gangs, parts := (s.count id.gang.part 0x02 1).parts } ∧
      (∀ x, x ≠ gang → s'.gang x = s.gang x) ∧
      ((s.gang gang).state ≠ .running ∨ gang.launch = 0 → s'.gang gang = s.gang gang) ∧
      ((s.warps.map Prod.fst).Nodup → ((s.warp id).lanes.map Prod.fst).Nodup →
        (∀ w ∈ s.warps, w.1.wg.gang = gang → ∀ k ∈ w.2.lanes, loner k.2) →
        (s.gang gang).state = .running → gang.launch ≠ 0 →
          (last → s'.gang gang = { s.gang gang with state := .retiring }) ∧ (¬last → s'.gang gang = s.gang gang))

end Sys2Proof.Claim

/-- R85, R90 and R91: SEAL waits for the results it does not name, YIELD starts the count and the deadline anew, TAIL ends the lane;
the base forms have the fields of R41. -/
def Sys2Proof.Claim.SpanEndResults : Prop :=
  (∀ x : Ext, Seals (.sealExt x) [x.d, x.a, x.b, x.c]) ∧ (∀ a b, Seals (.sealBase a b) [a, b]) ∧
  (∀ x : Ext, Yields (.yield x) x.modB.toNat x.modA.toNat) ∧
  (∀ (live : BitVec 5) (e : BitVec 4), Yields (.yieldBase live e) live.toNat e.toNat) ∧
  (∀ x, Tails (.tail x)) ∧ Tails .tailBase

/-- R92 to R95: EXIT parks the lane till its operations are complete, NAP for its time or till the other ready lanes have issued (that the
lanes NAP 0 waits for are those ready as it issues is the model's choice, log entry 60), TRAP and BRK enter the handler with the next PC in %frpc, ERET leaves it at %frpc, and outside a handler is an illegal instruction. -/
def Sys2Proof.Claim.ThreadEndResults : Prop :=
  Exits .exitBase ∧ (∀ x, Exits (.exit x)) ∧
  (∀ (code : BitVec 16) s id g l t,
    (Alone s (.trapBase code) id g l t → Traps s (.trapBase code) id g l s ⟨0x13, 0, code.toNat⟩ (g.pc + 4)) ∧
    (Alone s (.brkBase code) id g l t → Traps s (.brkBase code) id g l s ⟨0x14, 0, code.toNat⟩ (g.pc + 4))) ∧
  ∀ (x : Ext) s id g l t,
    (Alone s (.trap x) id g l t → Traps s (.trap x) id g l s ⟨0x13, 0, x.imm.toNat % 65536⟩ (behind g x)) ∧
    (Alone s (.brk x) id g l t → Traps s (.brk x) id g l s ⟨0x14, 0, x.imm.toNat % 65536⟩ (behind g x)) ∧
    (Alone s (.nap x) id g l t →
      Parked s (.nap x) id g l s
        (if x.imm = 0 then
          .napTurn (((s.warp id).lanes.filter fun k => k.2.wait == .ready && !(k.1 == l)).map fun k => (k.1, (s.thread ⟨id, k.1⟩).issues))
            (behind g x)
        else .nap (s.clk + 64 * x.imm.toNat) (s.clk + 64 * x.imm.toNat + 1024) (behind g x))) ∧
    (Alone s (.eret x) id g l t →
      (t.inHandler = true → canonicalVa t.fr.pc → t.fr.pc.toNat % 4 = 0 →
        Went s (.eret x) id l (withThread s id l { t with inHandler := false, pc := t.fr.pc }) t.fr.pc) ∧
      (t.inHandler = false → Traps s (.eret x) id g l s ⟨0x01, g.pc.toNat, ((encodeWords (.eret x)).headD 0).toNat⟩ g.pc))

/-- The instructions that end a span and those that end a thread. -/
def Obligations.SpanAndThreadEndResults : Prop := Claim.SpanEndResults ∧ Claim.ThreadEndResults

namespace Sys2Proof.Claim

open Sys2Proof.Machine

/-- The address an instruction forms in a lane, by Table 7-1: its base is a register, zero-extended, or a pair, by modB[0]; modB[2:1] is
the mode, a 64-bit pointer, the scratch window or the gang window. -/
def formed (t : Thread) (x : Ext) (offset : Int) : Int :=
  (if x.modB.getLsbD 0 then ((Claim.pairOf t x.a).toNat : Int) else (t.reg x.a).v.toNat) + offset

/-- Its address register is clean, and its address is va: any sum for mode 0, a sum inside the window for modes 1 and 2 (R126). -/
def Forms (t : Thread) (x : Ext) (offset : Int) (va : Nat) : Prop :=
  (if x.modB.getLsbD 0 then (t.pair x.a).p else (t.reg x.a).p) = false ∧
    let o := formed t x offset
    match x.modB.toNat / 2 % 4 with
    | 0 => (va : Int) = o % 2 ^ 64
    | 1 => 0 ≤ o ∧ o < 2 ^ 28 ∧ (va : Int) = 0xFFFE000000000000 + o
    | _ => 0 ≤ o ∧ o < 2 ^ 48 ∧ (va : Int) = 0xFFFF000000000000 + o

/-- The registers of a load or a store of size code n: one word up to .b32, then a pair, then a quad; index 0 names none. -/
def sizeRegs (x : Ext) (d : RegIdx) : List Nat :=
  let n := if x.modA.toNat % 8 = 4 then 4 else if x.modA.toNat % 8 = 3 then 2 else 1
  (List.range n).map fun k => if d = 0 then 0 else d.toNat + k

/-- The pending result of a load (R45, R132). -/
def loadPend (x : Ext) (g : Issue) (id : Nat) : Pend :=
  { id := id, pc := g.pc, regs := sizeRegs x x.d, preds := [], window := x.la.toNat, committed := false, sealing := false, ready := false,
    signed := x.modB.getLsbD 3, words := [], bits := [] }

/-- A load of the lane that waits in the operand log for its page acquires, or reads the line of va (R128, R130, R203). -/
def loggedBefore (s : State) (id : WarpId) (l va : Nat) : Prop :=
  ∃ e ∈ (s.warp id).log, e.lane = l ∧
    ((∃ y, e.i = .ld y ∧ (y.modA.toNat / 8 ≠ 0 ∨ e.va / 64 = va / 64)) ∨ ∃ y, e.i = .ldparam y ∧ e.va / 64 = va / 64)

/-- A store of the lane's span before place n that covers the byte at a key. -/
def covers (n key : Nat) (st : StoreRec) : Prop := st.index < n ∧ st.key ≤ key ∧ key < st.key + st.bytes.length

/-- A load of a lane alone in its group from va (R132): its access stands in its core's request queue with the bytes of the lane's own
latest stores to forward, its result is pending, and memory stays; a fault of the checks is noted; a page to be settled is logged (R128);
the group is held while a logged load comes before. -/
def Loads (i : Instr) (x : Ext) (acquire : Option Nat) (va : Thread → State → GangId → Nat → Prop) : Prop :=
  ∀ s id g l t v, InSpan s i id g l t → g.lanes = [l] → va t s id.wg.gang v →
    let size := 2 ^ (x.modA.toNat % 8)
    let tid : ThreadId := ⟨id, l⟩
    (loggedBefore s id l v → exec i s = .next s) ∧
    (∀ s1 key snap rec region, ¬loggedBefore s id l v → s.translate (s.who tid) .load v size = (s1, .ok key snap rec region) →
      ∃ s' a, exec i s = .next s' ∧
        s'.thread tid = { counted t s.clk with pends := (counted t s.clk).pends ++ [loadPend x g s1.nextId] } ∧
        s'.coreQ = s1.coreQ ++ [a] ∧ s'.mem = s1.mem ∧
        a.id = s1.nextId ∧ a.src = .thread tid ∧ a.va = v ∧ a.key = key ∧ a.size = size ∧ a.acquire = acquire ∧
        a.release = none ∧ a.snap = snap ∧ a.region = region ∧
        ∃ own, a.op = .load own ∧
          (region = none → (s.warp id).log = [] → (t.stores.map StoreRec.index).Nodup → ∀ k < size,
            (∀ st ∈ t.stores, covers (g.count + 1) (key + k) st →
              (∀ st' ∈ t.stores, covers (g.count + 1) (key + k) st' → st'.index ≤ st.index) →
                tbGet own k = st.bytes[key + k - st.key]?) ∧
            ((∀ st ∈ t.stores, ¬covers (g.count + 1) (key + k) st) → tbGet own k = none))) ∧
    (∀ s1 f, ¬loggedBefore s id l v → s.translate (s.who tid) .load v size = (s1, .bad f) → Notes s i id g l t (f.atIndex (g.count + 1))) ∧
    (∀ s1 why, s.translate (s.who tid) .load v size = (s1, .resolve why) → (s.warp id).log = [] →
      ∃ s' n, exec i s = .next s' ∧ s'.thread tid = { counted t s.clk with pends := (counted t s.clk).pends ++ [loadPend x g n] } ∧
        ((s'.warp id).log.map fun e => (e.lane, e.va)) = [(l, v)] ∧ s'.coreQ = s1.coreQ)

end Sys2Proof.Claim

/-- R126, R132, R134, R135: the addresses of LD and LDPARAM and what a load does; a poisoned address register is consumed, an address
outside its window faults; LDPARAM without a parameter block faults; PREFETCH has no effect. -/
def Obligations.LoadResults : Prop :=
  ∀ x : Ext,
    Loads (.ld x) x (if x.modA.toNat / 8 = 0 then none else some (x.modA.toNat / 8 - 1)) (fun t _ _ v => Forms t x x.imm.toInt v) ∧
    Loads (.ldparam x) x none
      (fun _ s gang v => (s.header gang).params ≠ 0 ∧ v = ((s.header gang).params + x.imm.toNat) % 2 ^ 64) ∧
    (∀ s id g l t, InSpan s (.ldparam x) id g l t → g.lanes = [l] → (s.header id.wg.gang).params = 0 →
      Notes s (.ldparam x) id g l t ⟨0x04, x.imm.toNat, 4 + 256 * (g.count + 1)⟩) ∧
    (∀ s id g l t, InSpan s (.ld x) id g l t → g.lanes = [l] →
      let bad := if x.modB.getLsbD 0 then (t.pair x.a).p else (t.reg x.a).p
      let o := formed t x x.imm.toInt
      let mode := x.modB.toNat / 2 % 4
      let base : Int := if mode = 0 then 0 else if mode = 1 then 0xFFFE000000000000 else if mode = 2 then 0xFFFF000000000000 else 0
      (bad = true → Notes s (.ld x) id g l t ⟨0x11, ((base + o) % 2 ^ 64).toNat, 17 + 256 * (g.count + 1)⟩) ∧
      (bad = false → (mode = 1 ∧ (o < 0 ∨ 2 ^ 28 ≤ o) ∨ mode = 2 ∧ (o < 0 ∨ 2 ^ 48 ≤ o)) →
        Notes s (.ld x) id g l t ⟨0x07, ((base + o) % 2 ^ 64).toNat, 2 + 256 * (g.count + 1)⟩)) ∧
    ∀ s id g l t, InSpan s (.prefetch x) id g l t → Takes s (.prefetch x) id g l t [] [] 0

/-- R133, R142: a store of a lane alone in its group stands in its span store buffer at its place, memory and the queues stay; a cell of
a region takes the value where it is above the replica, once no access of the lane to it is on its way (R203); faults are noted. That
poison bound for a page off the device is consumed as the store is made is the model's choice (log entry 32). -/
def Obligations.StoreResults : Prop :=
  ∀ (x : Ext) s id g l t v, InSpan s (.st x) id g l t → g.lanes = [l] → Forms t x x.imm.toInt v →
    let size := 2 ^ (x.modA.toNat % 8)
    let tid : ThreadId := ⟨id, l⟩
    let value : PVal := match x.lit with
      | some w => ⟨w.toNat, false⟩
      | none => if x.modA.toNat % 8 = 4 then t.quad x.b else if x.modA.toNat % 8 = 3 then t.pair x.b
        else ⟨(t.reg x.b).v.toNat, (t.reg x.b).p⟩
    let release : Option Nat := if x.modA.toNat / 8 = 0 then none else some (x.modA.toNat / 8 - 1)
    let bytes := fun (n : Nat) => (List.range size).map fun k => (⟨BitVec.ofNat 8 (n / 2 ^ (8 * k)), value.p⟩ : PByte)
    let stores := fun (s1 : State) (key n : Nat) (snap : Bool) (region : Option Nat) =>
      ∃ s', exec (.st x) s = .next s' ∧
        s'.thread tid = { counted t s.clk with stores := t.stores ++ [⟨g.count + 1, v, key, bytes n, release, region, snap⟩] } ∧
        s'.mem = s1.mem ∧ s'.coreQ = s1.coreQ ∧ s'.dieQ = s1.dieQ
    (∀ s1 key snap rec, s.translate (s.who tid) .store v size = (s1, .ok key snap rec none) →
      let kept := value.p = true ∧ isRemote key = true ∧ isForeign key = false ∧ snap = false
      (kept → Notes s (.st x) id g l t ⟨0x11, 0, 88 + 256 * (g.count + 1)⟩) ∧
      (¬kept → stores s1 key (value.v % 2 ^ (8 * size)) snap none)) ∧
    (∀ s1 key snap rec e r, s.translate (s.who tid) .store v size = (s1, .ok key snap rec (some e)) → isRemote key = false →
      (s1.linePending tid key size = true → exec (.st x) s = .next s) ∧
      (s1.linePending tid key size = false → tbGet (s1.part id.wg.gang.part).regions e = some r →
      let n := cellOperand r.type (value.v % 2 ^ (8 * size))
      (aboveCell r.type n (s1.readNat key size) = true → stores s1 key n snap (some e)) ∧
      (aboveCell r.type n (s1.readNat key size) = false → Notes s (.st x) id g l t ⟨0x08, v, r.type⟩))) ∧
    ∀ s1 f, s.translate (s.who tid) .store v size = (s1, .bad f) → Notes s (.st x) id g l t (f.atIndex (g.count + 1))

namespace Sys2Proof.Claim

open Sys2Proof.Machine

/-- A word or pair operand by the width of an atomic. -/
def wideOf (t : Thread) (wide : Bool) (r : RegIdx) : PVal := if wide then t.pair r else ⟨(t.reg r).v.toNat, (t.reg r).p⟩

/-- The offset of an atomic or a join, SExt(imm23[15:0]). -/
def offset16 (x : Ext) : Int := (x.imm.setWidth 16).toInt

/-- The scope an ordering of R136 releases at: .rel, .acq_rel and .sc release, .acq does not. -/
def released (x : Ext) : Option Nat := if 2 ≤ x.imm.toNat / 2 ^ 17 % 8 ∧ x.imm.toNat / 2 ^ 17 % 8 ≤ 4 then some (x.imm.toNat / 2 ^ 20) else none

/-- The ordering acquires: .acq, .acq_rel and .sc. -/
def acquired (x : Ext) : Bool := x.imm.toNat / 2 ^ 17 % 8 == 1 || x.imm.toNat / 2 ^ 17 % 8 == 3 || x.imm.toNat / 2 ^ 17 % 8 == 4

/-- The words of a number, lowest first. -/
def wordsAt (t : Thread) (wide : Bool) (r : RegIdx) : List PWord := if wide then [t.regAt r 0, t.regAt r 1] else [t.regAt r 0]

/-- A read-modify-write of a lane alone (R137): sent to its home with its order; ATOM and CAS park for the old value, RED goes on. A
poisoned operand bound for a page off the device is consumed. Where Badger has to settle its page, the lane waits in the operand log with
its operands, as long as this holds fewer than four instructions, else it is held (R128). -/
def Updates (i : Instr) (x : Ext) (size : Nat) (op : Thread → AccOp) (poison : Thread → Bool) (words : Thread → List PWord)
    (wide : Option Bool) : Prop :=
  ∀ s id g l t v, Alone s i id g l t → Forms t x (offset16 x) v →
    let tid : ThreadId := ⟨id, l⟩
    (∀ s1 key snap rec region, s.translate (s.who tid) .atomic v size = (s1, .ok key snap rec region) →
      (s1.thread tid).wait = .ready →
      let s2 := (s1.soil id.wg.gang key).send tid
        { va := v, key := key, size := size, op := op t,
          acquire := if acquired x then some (x.imm.toNat / 2 ^ 20) else none, release := released x,
          sc := x.imm.toNat / 2 ^ 17 % 8 == 4, snap := snap, recorded := rec, region := region }
      let kept := poison t = true ∧ isRemote key = true ∧ isForeign key = false ∧ snap = false
      (kept → Traps s i id g l s1 ⟨0x11, 0, 88⟩ g.pc) ∧
      (¬kept →
        match wide with
        | none => Went s i id l s2 (behind g x)
        | some w => Parked s i id g l s2 (.atomic s1.nextId x.d.toNat w [l] (behind g x)))) ∧
    (∀ s1 f, s.translate (s.who tid) .atomic v size = (s1, .bad f) → (s1.thread tid).wait = .ready → Traps s i id g l s1 f g.pc) ∧
    ∀ s1 why, s.translate (s.who tid) .atomic v size = (s1, .resolve why) →
      let s2 := s1.askAt tid why v t.pc
      ((s.warp id).logged < 4 →
        ∃ s3, exec i s = .next s3 ∧
          s3.thread tid = { s2.thread tid with wait := .logged s2.nextId [l] (behind g x), pc := g.pc } ∧
          (s3.warp id).log = (s2.warp id).log.filter LogEntry.boundary ++ [⟨l, s2.nextId, 0, g.pc, i, v, words t⟩] ∧
          (s3.warp id).cur = none ∧ s3.coreQ = s2.coreQ ∧ s3.mem = s2.mem ∧ ∀ id', id' ≠ id → s3.warp id' = s2.warp id') ∧
      (4 ≤ (s.warp id).logged → Stands s i id g l s)

/-- The bytes an atomic acts on by its operation and type codes (Table 7-6). -/
def atomicSize (x : Ext) : Nat := if x.modA.toNat % 16 = 8 ∨ 2 ≤ x.modA.toNat / 16 then 8 else 4

end Sys2Proof.Claim

/-- R128, R136 to R138: ATOM, CAS and RED of a lane alone: the access each sends, with its operation, its operands, its width and its
ordering, what each waits for, and where each is logged for its page. That a poisoned operand bound for a page off the device faults at
issue, and what the operand log holds, are the model's choices (log entries 32 and 29). -/
def Obligations.AtomicResults : Prop :=
  ∀ x : Ext,
    let wide := atomicSize x == 8
    let op := fun (old : Bool) (t : Thread) =>
      AccOp.atom (x.modA.toNat % 16) (x.modA.toNat / 16) (wideOf t wide x.b).v (wideOf t wide x.b).p old
    let wideC := x.modA.toNat / 16 == 2
    Updates (.atom x) x (atomicSize x) (op true) (fun t => (wideOf t wide x.b).p) (fun t => wordsAt t wide x.b) (some wide) ∧
    Updates (.red x) x (atomicSize x) (op false) (fun t => (wideOf t wide x.b).p) (fun t => wordsAt t wide x.b) none ∧
    Updates (.cas x) x (if wideC then 8 else 4)
      (fun t => .cas (wideOf t wideC x.b).v (wideOf t wideC x.c).v (wideOf t wideC x.b).p (wideOf t wideC x.c).p)
      (fun t => (wideOf t wideC x.b).p || (wideOf t wideC x.c).p) (fun t => wordsAt t wideC x.b ++ wordsAt t wideC x.c) (some wideC)

namespace Sys2Proof.Claim

open Sys2Proof.Machine

/-- A cell operand of one, two or four words by modA[1:0] (R139). -/
def cellOf (t : Thread) (x : Ext) (r : RegIdx) : PVal :=
  match x.modA.toNat % 4 with
  | 0 => ⟨(t.reg r).v.toNat, (t.reg r).p⟩
  | 1 => t.pair r
  | 2 => t.quad r
  | _ => ⟨(t.reg r).v.toNat, (t.reg r).p⟩

/-- The bytes of a cell by modA[1:0]. -/
def cellSize (x : Ext) : Nat := 4 * 2 ^ (x.modA.toNat % 4)

/-- A join of a lane alone (R141, R143): its update is sent to its replica; a releasing one waits for its core's stores (R248).
That a poisoned operand is judged after the address is the model's choice (log entry 72). -/
def Joins (i : Instr) (x : Ext) (size : Nat) (op : State → WarpId → Thread → AccOp) (poison : Thread → Bool) (record : FaultInfo → FaultInfo) :
    Prop :=
  ∀ s id g l t v, Alone s i id g l t → Forms t x (offset16 x) v →
    let tid : ThreadId := ⟨id, l⟩
    (∀ s1 key snap rec region, s.translate (s.who tid) .join v size = (s1, .ok key snap rec region) → (s1.thread tid).wait = .ready →
      (poison t = true → Traps s i id g l s1 ⟨0x11, 0, 96⟩ g.pc) ∧
      (poison t = false →
        Went s i id l
          ((s1.soil id.wg.gang key).send tid
            { va := v, key := key, size := size, op := op s id t, recorded := rec, region := region,
              waits := if x.imm.toNat / 2 ^ 17 % 8 = 2 then s1.coreStores tid else [] })
          (behind g x))) ∧
    ∀ s1 f, s.translate (s.who tid) .join v size = (s1, .bad f) → (s1.thread tid).wait = .ready → Traps s i id g l s1 (record f) g.pc

/-- No race of scopes touches n bytes of a home for an acquire of the thread (R201; log entry 11). -/
def calm (s : State) (t : ThreadId) (key n : Nat) (acquire : Option Nat) : Prop :=
  s.newRaces t key n acquire = [] ∧ ∀ k, key ≤ k → k < key + n → k ∉ s.raced ∧ k ∉ (s.thread t).sync.races

/-- LDLT and LDLTN of a lane alone (R144): a poisoned threshold is consumed; then, once the lane's acquires, its accesses to the cell and
what stands before it on its way are done (R130, R203, R214), till when it is held at its place, a poisoned cell is consumed; a met
threshold, or LDLTN, delivers the cell and whether it was met; else LDLT parks. That the threshold is judged after the checks of Table
7-2 (log entry 72), and that a value of a race of scopes may be an earlier one, for LDLT one that meets (log entry 11), are the model's
choices. -/
def Thresholds (i : Instr) (x : Ext) (once : Bool) : Prop :=
  ∀ s id g l t v s1 key snap rec e r, Alone s i id g l t → Forms t x 0 v →
    s.translate (s.who ⟨id, l⟩) .threshold v (cellSize x) = (s1, .ok key snap rec (some e)) → s1.thread ⟨id, l⟩ = t →
    tbGet (s1.part id.wg.gang.part).regions e = some r →
    let waits := s1.stepWaits ⟨id, l⟩ key (cellSize x)
    let thr : PVal := if x.modA.toNat % 4 = 0 then ⟨(t.reg x.b).v.toNat, (t.reg x.b).p⟩ else t.pair x.b
    let cell := s1.readNat key (cellSize x)
    let met := metCell r.type cell thr.v
    let bad := anyPoison (s1.readBytes key (cellSize x))
    let seen := s1.countRead id.wg.gang.part key (s1.readBytes key (cellSize x))
    let acquire := if acquired x then some (x.imm.toNat / 2 ^ 20) else none
    (thr.p = true → Traps s i id g l s1 ⟨0x11, 0, 96⟩ g.pc) ∧
    (thr.p = false → waits = true → Stands s i id g l (placed s1 id l)) ∧
    (thr.p = false → waits = false → bad = true → Traps s i id g l seen ⟨0x11, 0, 32⟩ g.pc) ∧
    (thr.p = false → waits = false → bad = false → met = true ∨ once = true →
      ∃ s2 value, Went s i id l s2 (behind g x) ∧ s2.mem = s1.mem ∧ (∀ id', id' ≠ id → s2.warp id' = s1.warp id') ∧
        s2.thread ⟨id, l⟩ =
          { (t.writeRegs (wideWrite x.d (cellSize x / 4) ⟨value, false⟩)).writePred (predField x.c) (metCell r.type value thr.v) with
              sync := (s2.thread ⟨id, l⟩).sync } ∧
        (calm s1 ⟨id, l⟩ key (cellSize x) acquire → value = cell) ∧ (once = false → metCell r.type value thr.v = true)) ∧
    (thr.p = false → waits = false → bad = false → met = false → once = false →
      Parked s i id g l seen
        (.ldlt x v key thr.v (if x.imm.toNat % 65536 = 0 then none else some (x.imm.toNat % 65536 * 1024))
          (s1.gang id.wg.gang).runClk (behind g x)))

end Sys2Proof.Claim

/-- R139 to R144: JOIN and JINC send their updates, LDLT and LDLTN read a cell against a threshold. That a poisoned operand or threshold
is judged after the checks of Table 7-2 (log entry 72), and that a value of a race of scopes may be an earlier one (log entry 11), are the
model's choices. -/
def Obligations.LatticeInstructionResults : Prop :=
  ∀ x : Ext,
    Joins (.join x) x (cellSize x) (fun _ _ t => .join (cellOf t x x.b).v) (fun t => (cellOf t x x.b).p) (fun f => f) ∧
    Joins (.jinc x) x 16 (fun s id t => .jinc (t.reg x.b).v.toNat ((s.wg id.wg).core / 64)) (fun t => (t.reg x.b).p)
      (fun f => if f.kind = 0x09 ∧ f.info = 2 then { f with info := 3 } else f) ∧
    Thresholds (.ldlt x) x false ∧ Thresholds (.ldltn x) x true

/-- R146 and R247: once the lane has no access to the region on its way, XFLUSH sends every marked cell of the region on its die to every
other live die, and the marks are gone; till then the lane stands. R147 and R148: FENCE holds the lane while what it orders is on its
way, and then, a release, stands for all the lane has done so far, its .sc before its later loads (R200, R201, R206), QFENCE puts a marker into the queues it names. -/
def Obligations.FlushAndFenceResults : Prop :=
  ∀ (x : Ext) s id g l t,
    (Alone s (.xflush x) id g l t →
      ∀ v s1 key snap rec e r, Forms t x 0 v →
        s.translate (s.who ⟨id, l⟩) .flush v 1 = (s1, .ok key snap rec (some e)) → s1.thread ⟨id, l⟩ = t →
        tbGet (s1.part id.wg.gang.part).regions e = some r →
        let p := id.wg.gang.part
        let die := (s1.wg id.wg).core / 64
        ((∃ a ∈ s1.inFlight, a.src = .thread ⟨id, l⟩ ∧ a.region = some e) → Stands s (.xflush x) id g l s1) ∧
        ((∀ a ∈ s1.inFlight, a.src = .thread ⟨id, l⟩ → a.region ≠ some e) →
          ∃ s2, Went s (.xflush x) id l s2 (behind g x) ∧ s2.mem = s1.mem ∧
            (∀ m ∈ (s2.die die).marks, m.part = p → m.entry ≠ e) ∧
            (∀ m ∈ (s1.die die).marks, m.part = p → m.entry = e → ∀ d ∈ s1.diesOf p, d ≠ die →
              ∀ home, s1.replicaKey p die (r.base + m.off) = some home →
                ∃ dl ∈ s2.deltas, dl.part = p ∧ dl.entry = e ∧ dl.off = m.off ∧ dl.dest = d ∧ dl.sent = s1.clk ∧
                  dl.value = s1.readNat home (cellWidth r.type)))) ∧
    (Alone s (.fence x) id g l t →
      let tid : ThreadId := ⟨id, l⟩
      let scope := x.imm.toNat / 2 ^ 20
      let waits := (released x).isSome && (s.releasing tid scope || s.acquireWaits tid != []) || acquired x && s.acquiring tid
      let bare := fun (q : List Access) => q.map fun a => { a with scAfter := none }
      (waits = false → ∃ s1, Went s (.fence x) id l s1 (behind g x) ∧
        s1 = { s with warps := s1.warps, coreQ := s1.coreQ, dieQ := s1.dieQ, gateQ := s1.gateQ, past := s1.past, raced := s1.raced,
                      seqs := s1.seqs } ∧
        bare s1.coreQ = bare s.coreQ ∧ bare s1.dieQ = bare s.dieQ ∧ bare s1.gateQ = bare s.gateQ ∧
        s1.thread tid = { t with sync := (s1.thread tid).sync } ∧
        ((released x).isSome → ∃ r ∈ (s1.thread tid).sync.rel, r.writer = some tid ∧ r.scope = scope ∧
          ∃ k ∈ r.knows, k.who = .thread tid ∧ s.nextId ≤ k.upto) ∧
        (s1.thread tid).sync.sc = (if x.imm.toNat / 2 ^ 17 % 8 = 4 then some (max scope (t.sync.sc.getD 0)) else t.sync.sc) ∧
        (∀ k, k ≠ l → s1.thread ⟨id, k⟩ = s.thread ⟨id, k⟩) ∧ ∀ id', id' ≠ id → s1.warp id' = s.warp id') ∧
      (waits = true → Stands s (.fence x) id g l s)) ∧
    (Alone s (.qfence x) id g l t →
      let core := (s.wg id.wg).core
      let c := s.core core
      let mine := fun (q : List Cmd) => (q.filter fun (y : Cmd) => y.srcs.contains ⟨id, l⟩).map Cmd.id
      let before := (if x.imm.getLsbD 0 then mine c.copyQ else []) ++ (if x.imm.getLsbD 1 then mine c.bulkQ else []) ++
        (if x.imm.getLsbD 2 then mine c.mcastQ else []) ++
        (if x.imm.getLsbD 3 then (c.matQ.filter fun e => e.signers.contains ⟨id, l⟩).map MatEntry.id else [])
      (before = [] → Went s (.qfence x) id l s (behind g x)) ∧
      (before ≠ [] →
        ∃ c', Went s (.qfence x) id l (s.setCore core { c with fences := c' }) (behind g x) ∧
          ∀ q < 4, (tbGet c' q).getD [] = (tbGet c.fences q).getD [] ++ if x.imm.getLsbD (4 + q) then before else []))

namespace Sys2Proof.Claim

open Sys2Proof.Machine

/-- A sector barrier by its fields (Table 7-9). -/
def barrier (phase : Nat) (err : Bool) (sectors arrivals reload : Nat) : Nat :=
  phase % 16 + (if err then 16 else 0) + sectors % 2 ^ 32 * 2 ^ 32 + arrivals % 2 ^ 16 * 2 ^ 64 + reload % 2 ^ 16 * 2 ^ 80

/-- An arrival with sectors added and an error asked for (R152): an arrival past the last is an error; with no arrival and no sector left
the phase moves on and the arrivals are reloaded. -/
def arrival (o : Nat) (err : Bool) (sectors : Nat) : Nat :=
  let phase := o % 16
  let left := o / 2 ^ 64 % 2 ^ 16
  let reload := o / 2 ^ 80 % 2 ^ 16
  let err' := decide (o / 16 % 2 = 1) || err || decide (left = 0)
  let sum := (o / 2 ^ 32 % 2 ^ 32 + sectors) % 2 ^ 32
  if left - 1 = 0 ∧ sum = 0 then barrier (phase + 1) err' 0 reload reload else barrier phase err' sum (left - 1) reload

/-- A barrier instruction of a lane alone on an address that does not lead to a barrier (R149, R152 to R154): outside scratch it faults
0x05; one that needs a barrier faults 0x0A on a line without; a fault of the checks of Table 7-2 is its own. -/
def Misses (i : Instr) (x : Ext) (need : Need) (fresh : Bool) : Prop :=
  ∀ s id g l t v, Alone s i id g l t → Forms t x 0 v →
    (∀ s1 key snap rec region, s.translate (s.who ⟨id, l⟩) need v 16 = (s1, .ok key snap rec region) →
      (isSram key = false ∨ region ≠ none → Traps s i id g l s1 ⟨0x05, v, 0x55⟩ g.pc) ∧
      (isSram key = true → region = none → fresh = false → s1.tags.contains (key - key % 16) = false →
        Traps s i id g l s1 ⟨0x0A, v, 0x57⟩ g.pc)) ∧
    ∀ s1 f, s.translate (s.who ⟨id, l⟩) need v 16 = (s1, .bad f) → Traps s i id g l s1 f g.pc

/-- The barrier instruction's address passes Table 7-2 and lies in scratch (R149); s1 is the state after the walk, in which the lane has
not to wait for its acquires or for what stands before it on its way (R130, R203, R214). -/
def OnScratch (s : State) (id : WarpId) (l : Nat) (t : Thread) (x : Ext) (need : Need) (v key : Nat) (s1 : State) : Prop :=
  Forms t x 0 v ∧ (∃ snap rec, s.translate (s.who ⟨id, l⟩) need v 16 = (s1, .ok key snap rec none)) ∧ isSram key = true ∧
    s1.thread ⟨id, l⟩ = t ∧ s1.stepWaits ⟨id, l⟩ key 16 = false

/-- Memory and tags outside a line are as before. -/
def OnlyLine (s1 s2 : State) (key : Nat) : Prop :=
  (∀ a, a < key ∨ key + 16 ≤ a → s2.byteAt a = s1.byteAt a) ∧ ∀ k, k ≠ key - key % 16 → k ≠ key → (k ∈ s2.tags ↔ k ∈ s1.tags)

/-- The phase a BARWAIT or a BARTEST names: imm23[3:0], or Reg(b)[3:0] with modA[0] (R153). -/
def phaseNamed (t : Thread) (x : Ext) : Nat := if x.modA.getLsbD 0 then (t.reg x.b).v.toNat % 16 else x.imm.toNat % 16

/-- The phase register is poisoned. -/
def phasePoison (t : Thread) (x : Ext) : Bool := x.modA.getLsbD 0 && (t.reg x.b).p

end Sys2Proof.Claim

/-- R149 to R154: each sector-barrier instruction of a lane alone on scratch: the object it leaves, the tag, the lanes it wakes, the
predicate it writes; a line without a barrier faults 0x0A, an address outside scratch 0x05. That a poisoned Reg(b) is judged last is the
model's choice (log entry 72). -/
def Sys2Proof.Claim.BarrierResults : Prop :=
  (∀ x : Ext, Misses (.barinit x) x .barWrite true ∧ Misses (.bararr x) x .barWrite false ∧ Misses (.barwait x) x .barRead false ∧
    Misses (.bartest x) x .barRead false ∧ Misses (.bardrop x) x .barWrite false) ∧
  ∀ (x : Ext) s id g l t v key s1,
    let tagged := s1.tags.contains (key - key % 16)
    let o := s1.readNat key 16
    let waiting := fun (s2 : State) (u : ThreadId) (pc : Dword) (n : Nat) (b : Bool) =>
      u ≠ ⟨id, l⟩ → (s2.thread u).pc = pc ∧ (s2.thread u).wait = .ready ∧ (n < 7 → (s2.thread u).preds.getLsbD n = b)
    (Alone s (.barinit x) id g l t → OnScratch s id l t x .barWrite v key s1 →
      ∃ s2, Went s (.barinit x) id l s2 (behind g x) ∧ OnlyLine s1 s2 key ∧ key ∈ s2.tags ∧
        s2.readNat key 16 = barrier 0 false 0 x.imm.toNat x.imm.toNat) ∧
    (Alone s (.bararr x) id g l t → OnScratch s id l t x .barWrite v key s1 →
      (tagged = true → s1.releasing ⟨id, l⟩ 2 = true → Stands s (.bararr x) id g l (placed s1 id l)) ∧
      (tagged = true → s1.releasing ⟨id, l⟩ 2 = false →
        ∃ s2, Went s (.bararr x) id l s2 (behind g x) ∧ OnlyLine s1 s2 key ∧ s2.tags = s1.tags ∧
          s2.readNat key 16 = arrival o (x.modA.getLsbD 0) ((x.imm.toNat + 31) / 32) ∧
          ∀ u ph n next, (s1.thread u).wait = .barrier key ph n next → s2.readNat key 16 % 16 ≠ ph →
            waiting s2 u next n (decide (s2.readNat key 16 / 16 % 2 = 0)))) ∧
    (Alone s (.barwait x) id g l t → OnScratch s id l t x .barRead v key s1 → tagged = true →
      (phasePoison t x = true → Traps s (.barwait x) id g l s1 ⟨0x11, 0, 48⟩ g.pc) ∧
      (phasePoison t x = false → o % 16 = phaseNamed t x →
        Parked s (.barwait x) id g l s1 (.barrier key (phaseNamed t x) (predField x.c) (behind g x))) ∧
      (phasePoison t x = false → o % 16 ≠ phaseNamed t x →
        ∃ y, Went s (.barwait x) id l
          (withThread s1 id l { t.writePred (predField x.c) (decide (o / 16 % 2 = 0)) with sync := y }) (behind g x))) ∧
    (Alone s (.bartest x) id g l t → OnScratch s id l t x .barRead v key s1 → tagged = true →
      (phasePoison t x = true → Traps s (.bartest x) id g l s1 ⟨0x11, 0, 48⟩ g.pc) ∧
      (phasePoison t x = false →
        Went s (.bartest x) id l (withThread s1 id l (t.writePred (predField x.c) (decide (o % 16 ≠ phaseNamed t x)))) (behind g x))) ∧
    (Alone s (.bardrop x) id g l t → OnScratch s id l t x .barWrite v key s1 → tagged = true → key % 16 = 0 →
      ∃ s2, Went s (.bardrop x) id l s2 (behind g x) ∧ OnlyLine s1 s2 key ∧ s2.mem = s1.mem ∧ key ∉ s2.tags ∧
        ∀ u ph n next, (s1.thread u).wait = .barrier key ph n next → waiting s2 u next n false)

namespace Sys2Proof.Claim

open Sys2Proof.Machine

/-- WSYNC and GSYNC of a lane alone (R156): the last lane to arrive releases every lane of the group that is parked there, each at its
own next PC; a lane that has exited has arrived. Every lane released knows all that the lanes have stored (R200). -/
def Syncs (i : Instr) (x : Ext) (mine : WarpId → ThreadId → Prop) (at_ : Dword → Wait) (circle : WarpId → Machine.Circle)
    (held : State → ThreadId → Bool) : Prop :=
  ∀ s id g l t, Alone s i id g l t →
    let knowsAll := fun (s' : State) (u : ThreadId) => ∃ k ∈ (s'.thread u).sync.knows, k.who = circle id ∧ s.nextId ≤ k.upto
    let others := ∀ u, mine id u → u ≠ ⟨id, l⟩ → (s.thread u).wait = .exited ∨ ∃ n, (s.thread u).wait = at_ n
    (held s ⟨id, l⟩ = true → ∃ s', exec i s = .next s' ∧ s'.thread ⟨id, l⟩ = { t with pc := g.pc, stalled := true }) ∧
    (held s ⟨id, l⟩ = false →
      ∃ s', exec i s = .next s' ∧ s'.mem = s.mem ∧
        (others → s'.thread ⟨id, l⟩ = { stepped t s.clk with pc := behind g x, sync := (s'.thread ⟨id, l⟩).sync } ∧
          knowsAll s' ⟨id, l⟩) ∧
        (others → ∀ u n, mine id u → u ≠ ⟨id, l⟩ → (s.thread u).wait = at_ n →
          s'.thread u = { s.thread u with wait := .ready, pc := n, sync := (s'.thread u).sync } ∧ knowsAll s' u) ∧
        (¬others → s'.thread ⟨id, l⟩ = { stepped t s.clk with wait := at_ (behind g x), pc := g.pc }))

end Sys2Proof.Claim

/-- R156: WSYNC over the lane's workgroup, GSYNC over its gang, each a fence first. -/
def Sys2Proof.Claim.GroupSyncResults : Prop :=
  ∀ x : Ext,
    Syncs (.wsync x) x (fun id u => u.warp.wg = id.wg) .wsync (fun id => .group id.wg) (fun s t => s.acquiring t) ∧
    Syncs (.gsync x) x (fun id u => u.warp.wg.gang = id.wg.gang) .gsync (fun id => .gang id.wg.gang) (fun s t => s.acquiring t || s.releasing t 2)

/-- Sector barriers, WSYNC and GSYNC. -/
def Obligations.BarrierAndSyncResults : Prop := Claim.BarrierResults ∧ Claim.GroupSyncResults

/-- R157 and R158: TILEDEF sets the entry of a range inside the executing core's slice to EMPTY, TILEFREE takes an idle entry away,
TILEQ reads present and state; a tile of another workgroup or of the wrong state is misuse, 0x0B. That its address is judged before its state is the model's choice
(log entry 72). -/
def Obligations.TileResults : Prop :=
  ∀ (x : Ext) s id g l t,
    let core := (s.wg id.wg).core
    let n := x.modA.toNat
    let entry := tbGet (s.core core).tiles n
    let mine := entry.filter fun e => e.owner == id.wg
    (Alone s (.tiledef x) id g l t → ∀ v, Forms t x 0 v → ¬canonicalVa (BitVec.ofNat 64 v) → v < 2 ^ 64 →
      Traps s (.tiledef x) id g l s ⟨0x04, v, 0x52⟩ g.pc) ∧
    (Alone s (.tiledef x) id g l t → ∀ v, Forms t x 0 v → canonicalVa (BitVec.ofNat 64 v) → v < 2 ^ 64 →
      ¬(v < 2 ^ 55 ∧ s.walkBroken id.wg.gang.part v x.imm.toNat = true) →
      (s.tileInside ⟨id, l⟩ v x.imm.toNat = none → Stands s (.tiledef x) id g l s) ∧
      (s.tileInside ⟨id, l⟩ v x.imm.toNat = some false → Traps s (.tiledef x) id g l s ⟨0x07, v, 0x52⟩ g.pc) ∧
      (s.tileInside ⟨id, l⟩ v x.imm.toNat = some true → v % 64 ≠ 0 → Traps s (.tiledef x) id g l s ⟨0x06, v, 0x53⟩ g.pc) ∧
      (s.tileInside ⟨id, l⟩ v x.imm.toNat = some true → v % 64 = 0 → (entry = none ∨ ∃ e, mine = some e ∧ e.state = .empty) →
        Went s (.tiledef x) id l
          (s.setCore core { s.core core with tiles := tbSet (s.core core).tiles n ⟨id.wg, v, x.imm.toNat, .empty, 0⟩ })
          (behind g x)) ∧
      (s.tileInside ⟨id, l⟩ v x.imm.toNat = some true → v % 64 = 0 → entry ≠ none → (∀ e, mine = some e → e.state ≠ .empty) →
        Traps s (.tiledef x) id g l s ⟨0x0B, g.pc.toNat, 0⟩ g.pc)) ∧
    (Alone s (.tilefree x) id g l t →
      (∀ e, mine = some e → e.state = .empty ∨ e.state = .ready →
        Went s (.tilefree x) id l (s.setCore core { s.core core with tiles := tbErase (s.core core).tiles n }) (behind g x)) ∧
      (∀ e, mine = some e → e.state = .filling ∨ e.state = .draining → Stands s (.tilefree x) id g l s) ∧
      (mine = none → Traps s (.tilefree x) id g l s ⟨0x0B, g.pc.toNat, 0⟩ g.pc)) ∧
    (Alone s (.tileq x) id g l t →
      let v : Word := match mine with
        | none => 0
        | some e => match e.state with
          | .empty => 4
          | .filling => 5
          | .ready => 6
          | .draining => 7
      Went s (.tileq x) id l (withThread s id l (t.writeRegs (wordAt x.d v false))) (behind g x))

namespace Sys2Proof.Claim

open Sys2Proof.Machine

/-- A flat address operand passes Table 7-2 at issue, with no line request (R159), through the core's TLB or, `ahead`, the walker's
(R225); the state after its walk, its home. -/
def Flat (s : State) (id : WarpId) (l : Nat) (need : Need) (v : PVal) (size : Nat) (s1 : State) (c : Checked) (ahead : Bool := false) :
    Prop :=
  v.p = false ∧ c.va = v.v ∧
    ∃ rec, s.translate { s.who ⟨id, l⟩ with counts := false, ahead := ahead } need v.v size = (s1, .ok c.key c.snap rec c.region)

/-- A completion barrier: none for the pair of index 0 (R11), else a tagged line of scratch (R159). -/
def Completion (s : State) (id : WarpId) (l : Nat) (i : RegIdx) (v : PVal) (s1 : State) (bar : Nat × Nat) : Prop :=
  (i = 0 ∧ s1 = s ∧ bar = (0, keyGone)) ∨
    (i ≠ 0 ∧ ∃ c, Flat s id l .engineBar v 16 s1 c ∧ isSram c.key = true ∧ c.region = none ∧
      s1.tags.contains (c.key - c.key % 16) = true ∧ bar = (v.v, c.key))

/-- A command has entered the end of a queue (R253): its lanes, its workgroup, its barrier, what it does; nothing of it is done. -/
def Entered (before after : List Cmd) (srcs : List ThreadId) (wg : WgId) (bar : Nat × Nat) (op : CmdOp) : Prop :=
  ∃ c, after = before ++ [c] ∧ c.srcs = srcs ∧ c.wg = wg ∧ (c.bar, c.barKey) = bar ∧ c.op = op ∧ c.done = false ∧ c.bytes = []

/-- An MCRECV of the workgroup on the channel that waits in the queue for a tile (R261). -/
def awaits (y : Cmd) (wg : WgId) (sender channel : Nat) : Bool :=
  y.wg == wg && y.claim.isNone && (match y.op with
    | .mcrecv _ m ch => m == sender && ch == channel
    | _ => false)

/-- The tile's entry is its workgroup's. -/
def ownTile (s : State) (id : WarpId) (n : Nat) : Option Tile :=
  (tbGet (s.core (s.wg id.wg).core).tiles n).filter fun e => e.owner == id.wg

end Sys2Proof.Claim

/-- R128, R161, R163, R164, R253: COPY, BULK.in, BULK.out, MCAST and MCRECV of a lane alone enter their queues once their addresses, their
barrier, their tile and their record pass; a full queue holds the lane, a tile that is not there is misuse; a COPY whose page Badger has to
settle waits in the operand log. That an MCRECV claims the oldest parked tile as it issues and copies it later (log entry 24), and the order
of the checks (log entry 72), are the model's choices. -/
def Obligations.EngineIssueResults : Prop :=
  ∀ (x : Ext) s id g l t,
    let core := fun (a : State) => a.core (s.wg id.wg).core
    let tid : ThreadId := ⟨id, l⟩
    let n := x.modA.toNat
    (Alone s (.copy x) id g l t → ∀ s1 s2 s3 d a bar,
      let size := 4 * 2 ^ (x.modA.toNat % 4)
      Flat s id l .engineWrite (t.pair x.a) size s1 d → Flat s1 id l .engineRead (t.pair x.b) size s2 a →
      Completion s2 id l x.c (t.pair x.c) s3 bar → s1.thread tid = t → s2.thread tid = t → s3.thread tid = t →
      ((core s3).copyQ.length < 32 →
        ∃ s4, Went s (.copy x) id l s4 (behind g x) ∧ s4.mem = s3.mem ∧
          Entered (core s3).copyQ (core s4).copyQ [tid] id.wg (0, 0) (.copy size [(d.va, a.va, bar.1, bar.2)])) ∧
      (32 ≤ (core s3).copyQ.length → Stands s (.copy x) id g l s3)) ∧
    (Alone s (.copy x) id g l t → (t.pair x.a).p = false → ∀ s1 why,
      s.translate { s.who tid with counts := false } .engineWrite (t.pair x.a).v (4 * 2 ^ (x.modA.toNat % 4)) = (s1, .resolve why) →
      let s2 := s1.askAt tid why (t.pair x.a).v t.pc
      ((s.warp id).logged < 4 →
        ∃ s3, exec (.copy x) s = .next s3 ∧
          s3.thread tid = { s2.thread tid with wait := .logged s2.nextId [l] (behind g x), pc := g.pc } ∧
          (s3.warp id).log = (s2.warp id).log.filter LogEntry.boundary ++
            [⟨l, s2.nextId, 0, g.pc, .copy x, (t.pair x.a).v, wordsAt t true x.a ++ wordsAt t true x.b ++ wordsAt t true x.c⟩] ∧
          (core s3).copyQ = (core s2).copyQ) ∧
      (4 ≤ (s.warp id).logged → Stands s (.copy x) id g l s2)) ∧
    (∀ out, Alone s (if out then .bulkOut x else .bulkIn x) id g l t → ∀ s1 s2 rec bar e r,
      let i : Instr := if out then .bulkOut x else .bulkIn x
      Flat s id l .engineRead (t.pair x.a) 64 s1 rec true → Completion s1 id l x.b (t.pair x.b) s2 bar → s1.thread tid = t →
      s2.thread tid = t → (t.quad x.c).p = false → ownTile s2 id n = some e →
      (e.state = (if out then .ready else .empty) → ∀ s3, s2.readAtIssue tid rec 64 = (s3, none) → Stands s i id g l s3) ∧
      (e.state = (if out then .ready else .empty) → ∀ s3 bs f, s2.readAtIssue tid rec 64 = (s3, some bs) →
        s3.bulkRecord tid x out bs e.size g.pc = .error (.fault f) → Traps s i id g l s3 f g.pc) ∧
      (e.state = (if out then .ready else .empty) → ∀ s3 bs, s2.readAtIssue tid rec 64 = (s3, some bs) →
        s3.bulkRecord tid x out bs e.size g.pc = .ok r →
        ((core s2).bulkQ.length < 16 →
          ∃ s4, Went s i id l s4 (behind g x) ∧ s4.mem = s2.mem ∧
            Entered (core s2).bulkQ (core s4).bulkQ [tid] id.wg bar
              (if out then .bulkOut n r (t.coords x) else .bulkIn n r (t.coords x)) ∧
            ownTile s4 id n = some { e with state := if out then .draining else .filling, progress := 0 }) ∧
        (16 ≤ (core s2).bulkQ.length → Stands s i id g l s2)) ∧
      (e.state = (if out then .empty else .ready) → Traps s i id g l s2 ⟨0x0B, g.pc.toNat, 0⟩ g.pc)) ∧
    (Alone s (.mcast x) id g l t → ∀ s1 bar e,
      let mask := x.imm.toNat % 65536
      Completion s id l x.a (t.pair x.a) s1 bar → s1.thread tid = t → ownTile s1 id n = some e → e.state = .ready →
      (mask = 0 ∨ 2 ^ (s1.header id.wg.gang).e1 ≤ mask → Traps s (.mcast x) id g l s1 ⟨0x1A, g.pc.toNat, 1⟩ g.pc) ∧
      (mask ≠ 0 → mask < 2 ^ (s1.header id.wg.gang).e1 → 1048576 < e.size → Traps s (.mcast x) id g l s1 ⟨0x1A, g.pc.toNat, 3⟩ g.pc) ∧
      (mask ≠ 0 → mask < 2 ^ (s1.header id.wg.gang).e1 → e.size ≤ 1048576 → 16 ≤ (core s1).mcastQ.length →
        Stands s (.mcast x) id g l s1) ∧
      (mask ≠ 0 → mask < 2 ^ (s1.header id.wg.gang).e1 → e.size ≤ 1048576 → (core s1).mcastQ.length < 16 →
        ∃ s2, Went s (.mcast x) id l s2 (behind g x) ∧ s2.mem = s1.mem ∧
          Entered (core s1).mcastQ (core s2).mcastQ [tid] id.wg bar (.mcast n mask (x.imm.toNat / 2 ^ 16 % 16)) ∧
          ownTile s2 id n = some { e with state := .draining })) ∧
    (Alone s (.mcrecv x) id g l t → ∀ s1 bar e,
      let die := (s1.wg id.wg).core / 64
      let sender := x.imm.toNat % 16
      let channel := x.imm.toNat / 16 % 16
      Completion s id l x.a (t.pair x.a) s1 bar → s1.thread tid = t → ownTile s1 id n = some e → e.state = .empty →
      (core s1).mcastQ.length < 16 → (∀ y ∈ (core s1).mcastQ, y.id < s1.nextId) →
      let tiles := (s1.die die).holding.filter fun p => p.gang == id.wg.gang && p.sender == sender && p.channel == channel &&
        p.mask.testBit id.wg.member && !p.claimed.contains id.wg.member && !p.drained.contains id.wg.member
      let before := ((core s1).mcastQ.filter fun y => awaits y id.wg sender channel).length
      (tiles.length ≤ before →
        ∃ s2 no, Parked s (.mcrecv x) id g l s2 (.mcrecv no (behind g x)) ∧
          Entered (core s1).mcastQ (core s2).mcastQ [tid] id.wg bar (.mcrecv n sender channel) ∧
          ownTile s2 id n = some { e with state := .filling, progress := 0 }) ∧
      (∀ p, tiles[before]? = some p →
        (e.size < p.bytes.length → Traps s (.mcrecv x) id g l s1 ⟨0x1A, g.pc.toNat, 3⟩ g.pc) ∧
        (p.bytes.length ≤ e.size →
          ∃ s2 c, Went s (.mcrecv x) id l s2 (behind g x) ∧ (core s2).mcastQ = (core s1).mcastQ ++ [c] ∧ c.srcs = [tid] ∧
            c.wg = id.wg ∧ (c.bar, c.barKey) = bar ∧ c.done = false ∧ c.claim = some p.id ∧ c.bytes = p.bytes ∧
            c.op = .mcrecv n sender channel ∧ (∃ q ∈ (s2.die die).holding, q.id = p.id ∧ id.wg.member ∈ q.claimed) ∧
            ownTile s2 id n = some { e with state := .filling, progress := 0 })))

namespace Sys2Proof.Claim

open Sys2Proof.Machine

/-- The owner of an operand slot, or of an accumulator slot, on the lane's core. -/
def slotOwner (s : State) (id : WarpId) (acc : Bool) (n : Nat) : Option WgId :=
  let c := s.core (s.wg id.wg).core
  if acc then (tbGet c.accs n).map AccSlot.owner else (tbGet c.slots n).map OpSlot.owner

/-- A slot operand (R171, R185): its number, its faults. -/
def SlotFaults (i : Instr) (s : State) (id : WarpId) (g : Issue) (l : Nat) (a : PWord) (acc : Bool) : Prop :=
  (a.p = true → Traps s i id g l s ⟨0x11, 0, 0⟩ g.pc) ∧
  (a.p = false → (if acc then 8 else 32) ≤ a.v.toNat → Traps s i id g l s ⟨0x19, g.pc.toNat, 1⟩ g.pc) ∧
  (a.p = false → a.v.toNat < (if acc then 8 else 32) → slotOwner s id acc a.v.toNat ≠ some id.wg →
    Traps s i id g l s ⟨0x19, g.pc.toNat, 2⟩ g.pc)

/-- The lane's slot operand is good: in range and its workgroup's; no posted round makes the instruction wait (R183). -/
def HoldsSlot (s : State) (id : WarpId) (a : PWord) (acc : Bool) : Prop :=
  a.p = false ∧ a.v.toNat < (if acc then 8 else 32) ∧ slotOwner s id acc a.v.toNat = some id.wg

/-- A posted round has still to use a slot (R183): the accumulator of any entry, an operand of one that has not started. -/
def slotInUse (s : State) (id : WarpId) (acc : Bool) (n : Nat) : Prop :=
  ∃ e ∈ (s.core (s.wg id.wg).core).matQ,
    if acc then e.op.sword.toNat / 2 ^ 16 % 8 = n
    else e.started = false ∧ (e.op.sword.toNat % 32 = n ∨ e.op.sword.toNat / 256 % 32 = n)

/-- The core with a slot entry put. -/
def putSlot (s : State) (id : WarpId) (n : Nat) (v : OpSlot) : State :=
  let core := (s.wg id.wg).core
  s.setCore core { s.core core with slots := tbSet (s.core core).slots n v }

/-- The bits of element n of a slot as an operand of a width in bits. -/
def element (v : OpSlot) (bits n : Nat) : Nat := v.get bits n

/-- A line of a table of homes is the gang's private copy under MERGE (R324), or stands in the device. -/
def near (tab : LineTable) (va : Nat) : Prop := ∃ h, lineAt tab va = some h ∧ (h.snap = true ∨ isRemote h.key = false)

/-- A byte of the lines of a table as a gang sees it: of its private copy, or of the device's memory (R157, R324). -/
def LineByte (s : State) (gang : GangId) (tab : LineTable) (va : Nat) (b : PByte) : Prop :=
  ∃ h, lineAt tab va = some h ∧
    (h.snap = true ∧ b = s.viewByte gang va (h.key + va % 64) ∨
      h.snap = false ∧ isRemote h.key = false ∧ b = ⟨s.byteAt (h.key + va % 64), s.poisonAt (h.key + va % 64)⟩)

/-- The lane's unit finds the homes of n bytes of a tile, line by line (R157, R225); s1 is the state after the walks. -/
def Homes (s : State) (id : WarpId) (l : Nat) (need : Need) (va n : Nat) (s1 : State) (tab : LineTable) : Prop :=
  s.lineHomes (s.unitWho ⟨id, l⟩) need (linesIn va n) = (s1, .ok tab)

/-- A line of the table is one before which something stands on the lane's way (R214). -/
def lineWaits (s : State) (id : WarpId) (l : Nat) (tab : LineTable) : Prop :=
  ∃ e ∈ tab, ∃ h, e.2 = some h ∧ s.stepWaits ⟨id, l⟩ h.key 64 = true

/-- The lines of the table have homes of their own. -/
def apart (tab : LineTable) : Prop :=
  ∀ a b ha hb, a / 64 ≠ b / 64 → lineAt tab a = some ha → lineAt tab b = some hb → ha.key + 64 ≤ hb.key ∨ hb.key + 64 ≤ ha.key

/-- A byte of memory is outside the lines' homes. -/
def outside (tab : LineTable) (k : Nat) : Prop := ∀ va h, lineAt tab va = some h → h.snap = false → k < h.key ∨ h.key + 64 ≤ k

/-- Bits of an element of a format, and elements of a slot, of Table 8-1. -/
def formatBits (f : Nat) : Nat :=
  match f with
  | 0 => 8
  | 1 => 4
  | 2 => 8
  | 3 => 4
  | 4 => 16
  | 5 => 16
  | 6 => 32
  | _ => 64

end Sys2Proof.Claim

/-- R165, R168, R170 to R172: SCLAIM takes the lowest free slot, cleared, or clears the predicate; SREL gives a slot back, AZERO clears an
accumulator; both wait for a posted round, and fault on a slot that is not the workgroup's. -/
def Sys2Proof.Claim.SlotClaimResults : Prop :=
  ∀ (x : Ext) s id g l t,
    let core := (s.wg id.wg).core
    let c := s.core core
    let a := t.reg x.a
    let acc := x.modA.getLsbD 0
    (Alone s (.sclaim x) id g l t →
      (∀ n, n < (if acc then 8 else 32) → slotOwner s id acc n = none → (∀ m < n, slotOwner s id acc m ≠ none) →
        let c1 := if acc then { c with accs := tbSet c.accs n ⟨id.wg, [], [], 0⟩ }
          else { c with slots := tbSet c.slots n ⟨id.wg, [], [], [], none, false⟩ }
        Went s (.sclaim x) id l
          (withThread (s.setCore core c1) id l
            ((t.writeRegs (wordAt x.d (BitVec.ofNat 32 n) false)).writePred (predField x.c) true)) (behind g x)) ∧
      ((∀ n, n < (if acc then 8 else 32) → slotOwner s id acc n ≠ none) →
        Went s (.sclaim x) id l (withThread s id l (t.writePred (predField x.c) false)) (behind g x))) ∧
    (Alone s (.srel x) id g l t →
      (slotInUse s id acc a.v.toNat → Stands s (.srel x) id g l s) ∧
      (¬slotInUse s id acc a.v.toNat → SlotFaults (.srel x) s id g l a acc) ∧
      (¬slotInUse s id acc a.v.toNat → HoldsSlot s id a acc →
        let c1 := if acc then { c with accs := tbErase c.accs a.v.toNat } else { c with slots := tbErase c.slots a.v.toNat }
        Went s (.srel x) id l (s.setCore core c1) (behind g x))) ∧
    (Alone s (.azero x) id g l t →
      (slotInUse s id true a.v.toNat → Stands s (.azero x) id g l s) ∧
      (¬slotInUse s id true a.v.toNat → SlotFaults (.azero x) s id g l a true) ∧
      (¬slotInUse s id true a.v.toNat → HoldsSlot s id a true →
        ∃ c', Went s (.azero x) id l (s.setCore core { c with accs := c' }) (behind g x) ∧
          tbGet c' a.v.toNat = some ⟨id.wg, [], [], 0⟩ ∧ ∀ m, m ≠ a.v.toNat → tbGet c' m = tbGet c.accs m))

/-- R173: PACK puts each of the lane's units into the slot in the format of Reg(c): element u0 + 32 n j + n lane + e for unit j, part e of n
parts, or with .cb column u0 / R + lane, row u0 mod R + j, and for a block format the unit's upper half as its block's header; the slot's
format and axis are recorded. Its other elements, with their poison bits, and its other headers stay. The order of its faults, and that a
poison bit keeps its element's number where the format changes, are the model's choices (log entry 72). -/
def Sys2Proof.Claim.PackResults : Prop :=
  ∀ (x : Ext) s id g l t, Alone s (.pack x) id g l t →
    let a := t.reg x.a
    let f := (t.reg x.c).v.toNat % 16
    let cb := x.modA.getLsbD 0
    let u0 := x.imm.toNat % 2 ^ 13
    let count := x.imm.toNat / 2 ^ 13 % 2 ^ 6 + 1
    let n := if f = 4 ∨ f = 5 then 2 else 1
    let rows := if f = 6 then 32 else if f = 7 then 16 else 64
    let wide : Bool := f == 7
    (slotInUse s id false a.v.toNat → Stands s (.pack x) id g l s) ∧
    (¬slotInUse s id false a.v.toNat → SlotFaults (.pack x) s id g l a false) ∧
    (¬slotInUse s id false a.v.toNat → HoldsSlot s id a false → (t.reg x.c).p = true →
      Traps s (.pack x) id g l s ⟨0x11, 0, 0⟩ g.pc) ∧
    (¬slotInUse s id false a.v.toNat → HoldsSlot s id a false → (t.reg x.c).p = false →
      (8 ≤ f ∨ cb = true ∧ f ≠ 2 ∧ f ≠ 3 → Traps s (.pack x) id g l s ⟨0x0D, g.pc.toNat, 4⟩ g.pc) ∧
      (f < 8 → (cb = true → f = 2 ∨ f = 3) →
        (f = 7 → x.b.toNat % 2 = 0 ∧ x.b.toNat + 2 * count ≤ min 496 (s.header id.wg.gang).regs) →
        (packFits f cb u0 count = false → Traps s (.pack x) id g l s ⟨0x19, g.pc.toNat, 6⟩ g.pc) ∧
        (packFits f cb u0 count = true →
        ∀ v, tbGet (s.core (s.wg id.wg).core).slots a.v.toNat = some v →
          let place := fun (j e : Nat) => if cb then (u0 / rows + l) * rows + u0 % rows + j else u0 + 32 * n * j + n * l + e
          let head := fun (j : Nat) => if cb then u0 / rows / 32 * rows + u0 % rows + j else (u0 + 32 * j + l) / 32
          let block := f = 2 ∨ f = 3
          ∃ s1 v', Went s (.pack x) id l s1 (behind g x) ∧ s1.mem = s.mem ∧
            tbGet (s1.core (s.wg id.wg).core).slots a.v.toNat = some v' ∧ v'.owner = v.owner ∧ v'.fmt = some f ∧ v'.axis = cb ∧
            (∀ j < count, ∀ e < n,
              element v' (formatBits f) (place j e) = (t.unit x.b wide j).v / 2 ^ (formatBits f * e) % 2 ^ formatBits f ∧
                (place j e ∈ v'.poison ↔ (t.unit x.b wide j).p = true)) ∧
            (∀ k, (∀ j < count, ∀ e < n, k ≠ place j e) →
              element v' (formatBits f) k = element v (formatBits f) k ∧ (k ∈ v'.poison ↔ k ∈ v.poison)) ∧
            (block → ∀ j < count, (smGet (0 : BitVec 16) v'.hdr (head j)).toNat = (t.unit x.b wide j).v / 2 ^ 16 % 2 ^ 16) ∧
            ∀ h, (block → ∀ j < count, h ≠ head j) → smGet (0 : BitVec 16) v'.hdr h = smGet (0 : BitVec 16) v.hdr h)))

/-- R174: UNPACK reads the units of a slot or, with .acc, of an accumulator back into the run at d, in the format it was packed in. -/
def Sys2Proof.Claim.UnpackResults : Prop :=
  ∀ (x : Ext) s id g l t, Alone s (.unpack x) id g l t →
    let a := t.reg x.a
    let acc := x.modA.getLsbD 0
    let w := t.reg x.b
    let f := if acc then w.v.toNat / 256 % 16 else w.v.toNat % 16
    let u0 := x.imm.toNat % 2 ^ 13
    let count := x.imm.toNat / 2 ^ 13 % 2 ^ 6 + 1
    let wide : Bool := if acc then f == 2 else f == 7
    let runOk := wide = true → x.d.toNat % 2 = 0 ∧ x.d.toNat + 2 * count ≤ min 496 (s.header id.wg.gang).regs
    let core := s.core (s.wg id.wg).core
    (acc = true → slotInUse s id true a.v.toNat → Stands s (.unpack x) id g l s) ∧
    ((acc = true → ¬slotInUse s id true a.v.toNat) → SlotFaults (.unpack x) s id g l a acc) ∧
    ((acc = true → ¬slotInUse s id true a.v.toNat) → HoldsSlot s id a acc → w.p = false →
      (∀ v, acc = false → tbGet core.slots a.v.toNat = some v →
        (v.fmt ≠ some f → Traps s (.unpack x) id g l s ⟨0x0D, g.pc.toNat, 4⟩ g.pc) ∧
        (v.fmt = some f → runOk →
          u0 + 32 * (if f = 4 ∨ f = 5 then 2 else 1) * count ≤ 32768 / formatBits f →
          Went s (.unpack x) id l
            (withThread s id l (t.writeRegs (unitWrites x.d (if wide then 2 else 1)
              ((List.range count).map fun j => v.unit f (u0 + 32 * (if f = 4 ∨ f = 5 then 2 else 1) * j +
                (if f = 4 ∨ f = 5 then 2 else 1) * l))))) (behind g x))) ∧
      ∀ v, acc = true → tbGet core.accs a.v.toNat = some v →
        (2 < f → Traps s (.unpack x) id g l s ⟨0x0D, g.pc.toNat, 4⟩ g.pc) ∧
        (f ≤ 2 → runOk → u0 + 32 * count ≤ (if f = 2 then 256 else 4096) →
          ∃ t', Went s (.unpack x) id l (withThread s id l t') (behind g x) ∧ t' = { t with regs := t'.regs } ∧
            (wide = false → x.d ≠ 0 → ∀ j < count,
              (smGet .zero t'.regs (x.d.toNat + j)).v = smGet 0 v.words (u0 + 32 * j + l) ∧
                ((smGet .zero t'.regs (x.d.toNat + j)).p = true ↔ u0 + 32 * j + l ∈ v.poison)) ∧
            (wide = true → x.d ≠ 0 → ∀ j < count, ∀ h < 2,
              let k := 2 * (u0 + 32 * j + l)
              (smGet .zero t'.regs (x.d.toNat + 2 * j + h)).v = smGet 0 v.words (k + h) ∧
                ((smGet .zero t'.regs (x.d.toNat + 2 * j + h)).p = true ↔ k ∈ v.poison ∨ k + 1 ∈ v.poison))))

/-- PACK and UNPACK. -/
def Obligations.PackAndUnpackResults : Prop := Claim.PackResults ∧ Claim.UnpackResults

/-- R175 and R176, R214, R225, R324: once the homes of the tile's lines are found and nothing stands before the lane on its way, SLDT copies
a ready tile's image into a slot, its headers for a block format alone, and records the format; SSTT copies the slot's image, its headers
behind its elements, into an idle tile, which is then ready; a tile too small, a slot without a format, a tile that is not there fault.
That the lines are found as the unit moves them, each for itself, and that a MERGE gang's tile lies in its private copy, are the model's
choices (log entries 24, 35 and 40). -/
def Sys2Proof.Claim.SlotTileResults : Prop :=
  ∀ (x : Ext) s id g l t,
    let core := (s.wg id.wg).core
    let a := t.reg x.a
    let n := x.modA.toNat
    let tile := ownTile s id n
    let heads := fun (f : Nat) => if f = 2 then 128 else if f = 3 then 256 else 0
    let image := fun (f : Nat) => 4096 + 2 * heads f
    (Alone s (.sldt x) id g l t →
      let f := x.imm.toNat % 16
      (slotInUse s id false a.v.toNat → Stands s (.sldt x) id g l s) ∧
      (¬slotInUse s id false a.v.toNat → SlotFaults (.sldt x) s id g l a false) ∧
      (¬slotInUse s id false a.v.toNat → HoldsSlot s id a false →
        (tile = none → Traps s (.sldt x) id g l s ⟨0x0B, g.pc.toNat, 0⟩ g.pc) ∧
        ∀ e v, tile = some e → tbGet (s.core core).slots a.v.toNat = some v →
          (e.state = .filling ∨ e.state = .draining → Stands s (.sldt x) id g l s) ∧
          (e.state = .empty → Traps s (.sldt x) id g l s ⟨0x0B, g.pc.toNat, 0⟩ g.pc) ∧
          (e.state = .ready → e.size < image f → Traps s (.sldt x) id g l s ⟨0x19, g.pc.toNat, 3⟩ g.pc) ∧
          (e.state = .ready → image f ≤ e.size → ∀ s1 va why,
            s.lineHomes (s.unitWho ⟨id, l⟩) .engineRead (linesIn e.va (image f)) = (s1, .error (va, .resolve why)) →
              Stands s (.sldt x) id g l (s1.askFor ⟨id, l⟩ why va)) ∧
          (e.state = .ready → image f ≤ e.size → ∀ s1 tab, Homes s id l .engineRead e.va (image f) s1 tab →
            (lineWaits s id l tab → Stands s (.sldt x) id g l (placed s id l)) ∧
            (¬lineWaits s id l tab → e.va % 64 = 0 → f < 8 →
              ∃ s2 v', Went s (.sldt x) id l s2 (behind g x) ∧ s2.mem = s1.mem ∧
                tbGet (s2.core core).slots a.v.toNat = some v' ∧ v'.owner = id.wg ∧ v'.fmt = some f ∧ v'.axis = false ∧
                (∀ k < 4096, ∀ b, LineByte s1 id.wg.gang tab (e.va + k) b → smGet 0 v'.elem k = b.v) ∧
                ((∀ k < 4096, ∃ b, LineByte s1 id.wg.gang tab (e.va + k) b) →
                  ∀ u, u ∈ v'.poison ↔ ∃ k < 4096, u * formatBits f < 8 * (k + 1) ∧ 8 * k < (u + 1) * formatBits f ∧
                    ∃ b, LineByte s1 id.wg.gang tab (e.va + k) b ∧ b.p = true) ∧
                (∀ h < heads f, ∀ b0 b1, LineByte s1 id.wg.gang tab (e.va + 4096 + 2 * h) b0 →
                  LineByte s1 id.wg.gang tab (e.va + 4097 + 2 * h) b1 →
                    (smGet (0 : BitVec 16) v'.hdr h).toNat = b0.v.toNat + 256 * b1.v.toNat) ∧
                ∀ h, heads f ≤ h → smGet (0 : BitVec 16) v'.hdr h = smGet (0 : BitVec 16) v.hdr h)))) ∧
    (Alone s (.sstt x) id g l t → SlotFaults (.sstt x) s id g l a false) ∧
    (Alone s (.sstt x) id g l t → HoldsSlot s id a false →
      ∀ v, tbGet (s.core core).slots a.v.toNat = some v →
        (v.fmt = none → Traps s (.sstt x) id g l s ⟨0x19, g.pc.toNat, 4⟩ g.pc) ∧
        (v.fmt ≠ none → tile = none → Traps s (.sstt x) id g l s ⟨0x0B, g.pc.toNat, 0⟩ g.pc) ∧
        ∀ f e, v.fmt = some f → tile = some e →
          (e.state = .filling ∨ e.state = .draining → Stands s (.sstt x) id g l s) ∧
          ((e.state = .empty ∨ e.state = .ready) → e.size < image f → Traps s (.sstt x) id g l s ⟨0x19, g.pc.toNat, 3⟩ g.pc) ∧
          ((e.state = .empty ∨ e.state = .ready) → image f ≤ e.size →
            (∀ s1 va why, s.lineHomes (s.unitWho ⟨id, l⟩) .engineWrite (linesIn e.va (image f)) = (s1, .error (va, .resolve why)) →
              Stands s (.sstt x) id g l (s1.askFor ⟨id, l⟩ why va)) ∧
            ∀ s1 tab, Homes s id l .engineWrite e.va (image f) s1 tab →
              (lineWaits s id l tab → Stands s (.sstt x) id g l (placed s id l)) ∧
              (¬lineWaits s id l tab → e.va % 64 = 0 → apart tab → (∀ k < image f, near tab (e.va + k)) →
                ∃ s2, Went s (.sstt x) id l s2 (behind g x) ∧ ownTile s2 id n = some { e with state := .ready } ∧
                  (∀ k < 4096, ∃ b, LineByte s2 id.wg.gang tab (e.va + k) b ∧ b.v = smGet 0 v.elem k) ∧
                  (∀ h < heads f, ∃ b0 b1, LineByte s2 id.wg.gang tab (e.va + 4096 + 2 * h) b0 ∧
                    LineByte s2 id.wg.gang tab (e.va + 4097 + 2 * h) b1 ∧
                    (smGet (0 : BitVec 16) v.hdr h).toNat = b0.v.toNat + 256 * b1.v.toNat) ∧
                  ∀ k, outside tab k → s2.byteAt k = s1.byteAt k)))

/-- Operand and accumulator slots: claims, releases, and their tiles. -/
def Obligations.SlotResults : Prop := Claim.SlotClaimResults ∧ Claim.SlotTileResults

namespace Sys2Proof.Claim

open Sys2Proof.Machine

/-- A convergence register of the lane's workgroup; one never set is idle (R17). -/
def convergence (s : State) (id : WarpId) (k : Nat) : KReg := (tbGet (s.wg id.wg).k k).getD ⟨0, .idle, 0, 0, none, []⟩

/-- The state with a convergence register put. -/
def putConvergence (s : State) (id : WarpId) (k : Nat) (r : KReg) : State :=
  s.setWg id.wg { s.wg id.wg with k := tbSet (s.wg id.wg).k k r }

/-- The format word is valid (R177, Table 8-3): one format for A and B, the accumulator it pairs with, .nz only where it can matter. -/
def formatWordOk (w : Word) : Prop :=
  let f := w.toNat % 16
  w.toNat < 2 ^ 15 ∧ f ≤ 7 ∧ w.toNat / 16 % 16 = f ∧ w.toNat / 256 % 16 = (if f ≤ 1 then 0 else if f = 7 then 2 else 1) ∧
    (w.getLsbD 14 = true → 2 ≤ f)

/-- The slot word is valid (Table 8-4): no reserved bit, the two operand slots and the accumulator are the workgroup's. -/
def slotWordOk (s : State) (id : WarpId) (w : Word) : Prop :=
  w.toNat / 32 % 8 = 0 ∧ w.toNat / 2 ^ 13 % 8 = 0 ∧ w.toNat < 2 ^ 19 ∧ slotOwner s id false (w.toNat % 32) = some id.wg ∧
    slotOwner s id false (w.toNat / 256 % 32) = some id.wg ∧ slotOwner s id true (w.toNat / 2 ^ 16 % 8) = some id.wg

/-- A slot holds the format and the axis a round needs (R181). -/
def slotFits (s : State) (id : WarpId) (n f : Nat) (transposed : Bool) : Prop :=
  ∃ v, tbGet (s.core (s.wg id.wg).core).slots n = some v ∧ v.fmt = some f ∧ (f = 2 ∨ f = 3 → v.axis = transposed)

/-- The barrier of a round's operation: none for a pair that reads zero, else a tagged line of scratch (Table 8-5 step 4). -/
def RoundBarrier (s : State) (id : WarpId) (l : Nat) (v : PVal) (s1 : State) (bar : Nat × Nat) : Prop :=
  (v = ⟨0, false⟩ ∧ s1 = s ∧ bar = (0, keyGone)) ∨
    (v ≠ ⟨0, false⟩ ∧ ∃ c, Flat s id l .engineBar v 16 s1 c ∧ isSram c.key = true ∧ c.region = none ∧
      s1.tags.contains (c.key - c.key % 16) = true ∧ bar = (v.v, c.key))

/-- What the last signer does (R181): its slots are checked and the operation enters the FIFO of 8, its barrier counting one arrival and
S sectors; an operand that does not fit poisons the round and gives the barrier its error. -/
def Posts (s : State) (id : WarpId) (g : Issue) (l : Nat) (x : Ext) (s1 : State) (k : Nat) (r : KReg) (op : MmaOp) : Prop :=
  let f := op.fword.toNat % 16
  let c := s1.core (s1.wg id.wg).core
  let r1 : KReg := { r with fword := op.fword, count := r.count + 1, op := some op, signers := r.signers ++ [⟨id, l⟩] }
  let fitsA := slotFits s1 id (op.sword.toNat % 32) f (op.fword.getLsbD 12)
  let fitsB := slotFits s1 id (op.sword.toNat / 256 % 32) f (op.fword.getLsbD 13)
  let poisoned := putConvergence s1 id k { r1 with state := .poisoned }
  let failed := if op.bar = 0 then poisoned else poisoned.barApply op.barKey true true 0 []
  (¬fitsA → Traps s (.mma x) id g l failed ⟨0x0D, g.pc.toNat, 2⟩ g.pc) ∧
  (fitsA → ¬fitsB → Traps s (.mma x) id g l failed ⟨0x0D, g.pc.toNat, 3⟩ g.pc) ∧
  (fitsA → fitsB → 8 ≤ c.matQ.length → Stands s (.mma x) id g l s1) ∧
  (fitsA → fitsB → c.matQ.length < 8 →
    ∃ s2 s3 e, Went s (.mma x) id l s3 (behind g x) ∧
      (s2.core (s1.wg id.wg).core).matQ = c.matQ ++ [e] ∧ e.wg = id.wg ∧ e.signers = r1.signers ∧ e.op = op ∧ e.started = false ∧
      convergence s2 id k = { r1 with state := .posted } ∧ s2.mem = s1.mem ∧ s2.warps = s1.warps ∧
      s3 = if op.bar = 0 then s2 else s2.barApply op.barKey true false (if op.fword.toNat / 256 % 16 = 2 then 64 else 512) [])

end Sys2Proof.Claim

/-- R17, R120, R178 to R181, R184: KSET opens a round; MMA signs one by the state of its convergence register, the last signer posts, a
signer that differs poisons it; KREAD reads its image. -/
def Obligations.MatrixRoundResults : Prop :=
  ∀ (x : Ext) s id g l t,
    let k := x.modA.toNat % 8
    (Alone s (.kset x) id g l t →
      let n := if x.modB = 1 then (t.reg x.a).v.toNat else x.imm.toNat
      let bad : Bool := x.modB == 1 && (t.reg x.a).p
      let r := convergence s id k
      (bad = true → Traps s (.kset x) id g l s ⟨0x11, 0, 48⟩ g.pc) ∧
      (bad = false → n < 1 ∨ 1024 < n → Traps s (.kset x) id g l s ⟨0x1C, g.pc.toNat, 0⟩ g.pc) ∧
      (bad = false → 1 ≤ n → n ≤ 1024 →
        (r.state ≠ .opened → Went s (.kset x) id l (putConvergence s id k ⟨0, .opened, 0, n, none, []⟩) (behind g x)) ∧
        (r.state = .opened → r.count = 0 → Went s (.kset x) id l (putConvergence s id k { r with expected := n }) (behind g x)) ∧
        (r.state = .opened → r.count ≠ 0 → Traps s (.kset x) id g l s ⟨0x1C, g.pc.toNat, 0⟩ g.pc))) ∧
    (Alone s (.kread x) id g l t →
      let r := convergence s id k
      let st := match r.state with
        | .idle => 0
        | .opened => 1
        | .posted => 2
        | .poisoned => 3
      Went s (.kread x) id l
        (withThread s id l (t.writeRegs (pairAt x.d
          (BitVec.ofNat 64 (r.fword.toNat * 2 ^ 32 + st * 2 ^ 30 + r.count % 2048 * 2 ^ 11 + r.expected % 2048)) false))) (behind g x)) ∧
    (Alone s (.mma x) id g l t →
      let a := t.reg x.a
      let b := t.reg x.b
      let c := t.pair x.c
      (a.p || b.p || c.p → Traps s (.mma x) id g l s ⟨0x11, 0, 0⟩ g.pc) ∧
      ((a.p || b.p || c.p) = false → ¬formatWordOk a.v → Traps s (.mma x) id g l s ⟨0x0D, g.pc.toNat, 1⟩ g.pc) ∧
      ((a.p || b.p || c.p) = false → formatWordOk a.v → ¬slotWordOk s id b.v → Traps s (.mma x) id g l s ⟨0x19, g.pc.toNat, 5⟩ g.pc) ∧
      ((a.p || b.p || c.p) = false → formatWordOk a.v → slotWordOk s id b.v → ∀ s1 bar, RoundBarrier s id l c s1 bar →
        s1.thread ⟨id, l⟩ = t →
        let op : MmaOp := ⟨a.v, b.v, bar.1, bar.2⟩
        let r := convergence s1 id k
        let signed : KReg := { r with count := r.count + 1, signers := r.signers ++ [⟨id, l⟩] }
        (r.state = .idle ∨ r.state = .posted → Traps s (.mma x) id g l s1 ⟨0x1C, g.pc.toNat, 0⟩ g.pc) ∧
        (r.state = .opened → r.op = none → r.expected ≠ 1 →
          Went s (.mma x) id l (putConvergence s1 id k { signed with fword := op.fword, op := some op }) (behind g x)) ∧
        (r.state = .opened → r.op = none → r.expected = 1 → Posts s id g l x s1 k r op) ∧
        (∀ o, r.state = .opened → r.op = some o → o.fword = op.fword → o.sword = op.sword → o.bar = op.bar →
          (r.count + 1 ≠ r.expected → Went s (.mma x) id l (putConvergence s1 id k signed) (behind g x)) ∧
          (r.count + 1 = r.expected → Posts s id g l x s1 k r o)) ∧
        (∀ o, r.state = .opened → r.op = some o → o.fword ≠ op.fword ∨ o.sword ≠ op.sword ∨ o.bar ≠ op.bar →
          let item := if o.fword ≠ op.fword then 1 else if o.sword ≠ op.sword then 2 else 3
          let s2 := putConvergence s1 id k { signed with state := .poisoned }
          Traps s (.mma x) id g l (if o.bar = 0 then s2 else s2.barApply o.barKey true true 0 []) ⟨0x0C, g.pc.toNat, item⟩
            (behind g x)) ∧
        (r.state = .poisoned → r.count < r.expected → Went s (.mma x) id l (putConvergence s1 id k signed) (behind g x)) ∧
        (r.state = .poisoned → r.expected ≤ r.count → Traps s (.mma x) id g l s1 ⟨0x1C, g.pc.toNat, 0⟩ g.pc)))

namespace Sys2Proof.Claim

open Sys2Proof.Machine

/-- A loaded context of the lane's workgroup (R187, R19). -/
def context (s : State) (id : WarpId) (x : Ext) : Option Ctx :=
  (tbGet (s.core (s.wg id.wg).core).ctxs (x.modA.toNat % 4)).filter fun c => c.owner == id.wg

/-- Byte n of a context image. -/
def ctxByte (c : Ctx) (n : Nat) : Nat := (smGet (0 : Byte) c.bytes n).toNat

/-- An entry of the table: the 16 bits of state q on digits x and y (R189). -/
def ctxEntry (c : Ctx) (q x y : Nat) : Nat :=
  let at_ := 0x40 + 2 * (256 * q + 16 * x + y)
  ctxByte c at_ + 256 * ctxByte c (at_ + 1)

/-- The 2-bit class of a state, from the eight bytes at 0x30 (R188). -/
def ctxClass (c : Ctx) (q : Nat) : Nat := ctxByte c (0x30 + q / 4) / 4 ^ (q % 4) % 4

/-- One step of a pass at position i (R193): the state before and after, the digit written, and a valid entry. -/
def PassStep (c : Ctx) (a b : Nat) (two : Bool) (i q q' o : Nat) : Prop :=
  let w := ctxByte c 0
  let e := ctxEntry c q (a / 2 ^ (w * i) % 2 ^ w) (if two then b / 2 ^ (w * i) % 2 ^ w else 0)
  e / 2 ^ 15 % 2 = 1 ∧ q' = e / 2 ^ 10 % 32 ∧ o = e / 2 ^ 6 % 16 % 2 ^ w

/-- A whole pass (R193) over 64 / w positions, from the most significant with byte 1 set: `state n` is the state before the n-th visited
position, `out` the digits. -/
def Passes (c : Ctx) (a b : Nat) (two : Bool) (start final : Nat) (out : Nat) : Prop :=
  let w := ctxByte c 0
  let n := 64 / w
  ∃ state digit : Nat → Nat, state 0 = start ∧ state n = final ∧
    (∀ k < n, let i := if ctxByte c 1 = 1 then n - 1 - k else k
      PassStep c a b two i (state k) (state (k + 1)) (digit i)) ∧
    out = ((List.range n).map fun i => digit i * 2 ^ (w * i)).sum

/-- The state a pass starts in (R193): the context's, or with .cont the state of a status word. -/
def StartsAt (c : Ctx) (x : Ext) (r : PWord) (q : Nat) : Prop :=
  if x.modA.getLsbD 2 then
    r.p = false ∧ r.v.getLsbD 31 = true ∧ r.v.toNat / 2 ^ 12 % 2 ^ 19 = 0 ∧ r.v.toNat / 32 % 8 = 0 ∧ q = r.v.toNat % 32 ∧ q < ctxByte c 2
  else q = ctxByte c 3

/-- The status word of a pass (Table 9-4). -/
def statusWord (c : Ctx) (x : Ext) (q : Nat) : Word := BitVec.ofNat 32 (2 ^ 31 + x.modA.toNat % 4 * 2 ^ 10 + ctxClass c q * 2 ^ 8 + q)

end Sys2Proof.Claim

/-- R193: DT2, DT1 and DTCMP walk the digits of their strings through the context of their number; the digits and the status word are
written, DTCMP the status and whether the final state's class is modA[4:3]. A context not loaded faults 0x0E, a poisoned string is
consumed. The width is 1, 2 or 4, as DTCTX checks (R190). -/
def Sys2Proof.Claim.TransducerPasses : Prop :=
  (∀ (x : Ext) s id g l t c, context s id x = some c → ctxByte c 0 = 1 ∨ ctxByte c 0 = 2 ∨ ctxByte c 0 = 4 →
    let a := t.pair x.a
    let b := t.pair x.b
    (InSpan s (.dt2 x) id g l t → ∀ q q' out, StartsAt c x (t.reg x.c) q → a.p = false → b.p = false →
      Passes c a.v b.v true q q' out →
      Takes s (.dt2 x) id g l t (pairAt x.d (BitVec.ofNat 64 out) false ++ wordAt x.c (statusWord c x q') false) [] 0) ∧
    (InSpan s (.dt1 x) id g l t → ∀ q q' out, StartsAt c x (t.reg x.c) q → a.p = false → Passes c a.v 0 false q q' out →
      Takes s (.dt1 x) id g l t (pairAt x.d (BitVec.ofNat 64 out) false ++ wordAt x.c (statusWord c x q') false) [] 0) ∧
    (InSpan s (.dtcmp x) id g l t → ∀ q q' out, StartsAt c x (t.reg x.d) q → a.p = false → b.p = false →
      Passes c a.v b.v true q q' out →
      Takes s (.dtcmp x) id g l t (wordAt x.d (statusWord c x q') false)
        [(predField x.c, ctxClass c q' == x.modA.toNat / 8 % 4)] 0) ∧
    (InSpan s (.dt2 x) id g l t → ∀ q, StartsAt c x (t.reg x.c) q → (a.p || b.p) = true →
      Notes s (.dt2 x) id g l t ⟨0x11, 0, 64 + 256 * (g.count + 1)⟩)) ∧
  ∀ (x : Ext) s id g l t, context s id x = none → ∀ i ∈ [Instr.dt2 x, .dt1 x, .dtcmp x, .dteval x], InSpan s i id g l t →
    Notes s i id g l t ⟨0x0E, 0, 2 ^ 26 + x.modA.toNat % 4 * 2 ^ 24⟩

/-- R190, R194, R195: DTEVAL sums the digits' map values with the weights of the recurrence, saturated to 64 bits; DTSTAT tests a status
word's class; DTCTX loads the image its lane names, as its gang sees it (R324), once it passes the checks and nothing stands before the lane on its way;
a lane whose image a lower lane of its group has loaded goes on. That the image is read through the gang's view and the code 0 of a
poisoned one are the model's choices (log entries 35 and 33). -/
def Sys2Proof.Claim.TransducerValues : Prop :=
  ∀ (x : Ext) s id g l t,
    (InSpan s (.dteval x) id g l t → ∀ c, context s id x = some c → ctxByte c 0 = 1 ∨ ctxByte c 0 = 2 ∨ ctxByte c 0 = 4 →
      let a := t.pair x.a
      let w := ctxByte c 0
      let digit := fun i => a.v / 2 ^ (w * i) % 2 ^ w
      let byte := fun n => (BitVec.ofNat 8 (ctxByte c n)).toInt
      let mapped := fun q => (BitVec.ofNat 16 (ctxByte c (0x10 + 2 * q) + 256 * ctxByte c (0x11 + 2 * q))).toInt
      ∀ weight : Nat → Int, weight 0 = 1 →
        weight 1 = (BitVec.ofNat 32 (ctxByte c 8 + 256 * ctxByte c 9 + 65536 * ctxByte c 10 + 16777216 * ctxByte c 11)).toInt →
        (∀ i, weight (i + 2) = byte 5 * weight (i + 1) + byte 6 * weight i) →
        (∀ i < 64 / w, digit i < ctxByte c 4) → a.p = false →
        let v := ((List.range (64 / w)).map fun i => mapped (digit i) * weight i).sum
        let out := max (-(2 ^ 63)) (min v (2 ^ 63 - 1))
        Takes s (.dteval x) id g l t (pairAt x.d (BitVec.ofInt 64 out) false) [(predField x.c, decide (out ≠ v))] 0) ∧
    (InSpan s (.dtstat x) id g l t →
      let a := t.reg x.a
      (a.p = false →
        Takes s (.dtstat x) id g l t []
          [(predField x.d, a.v.getLsbD 31 && decide (a.v.toNat / 256 % 4 = x.modA.toNat % 4))] 0) ∧
      (a.p = true → Notes s (.dtstat x) id g l t ⟨0x11, 0, 64 + 256 * (g.count + 1)⟩)) ∧
    (Alone s (.dtctx x) id g l t →
      (∃ k < l, (∃ m n, (s.thread ⟨id, k⟩).wait = .together m g.pc n ∧ l ∈ m) ∧ (s.thread ⟨id, k⟩).guard x.guard = true ∧
        ((s.thread ⟨id, k⟩).pair x.a).v = (t.pair x.a).v) → Went s (.dtctx x) id l s (behind g x)) ∧
    (Alone s (.dtctx x) id g l t → (∀ k, loner (s.thread ⟨id, k⟩)) → ∀ s1 v key snap rec region,
      let core := (s1.wg id.wg).core
      let no := x.modA.toNat % 4
      t.pair x.a = ⟨v, false⟩ → s.translate (s.who ⟨id, l⟩) .image v 64 = (s1, .ok key snap rec region) → s1.thread ⟨id, l⟩ = t →
      let scratch := isSram key = true ∧ region = none
      let inside := s1.imageInside (s1.who ⟨id, l⟩) v
      (¬scratch → Traps s (.dtctx x) id g l s1 ⟨0x05, v, 5⟩ g.pc) ∧
      (scratch → inside = false → Traps s (.dtctx x) id g l s1 ⟨0x07, v, 2⟩ g.pc) ∧
      (scratch → inside = true → ∀ s2 tab, Homes s1 id l .image v 16448 s2 tab →
        let free := ∀ o, tbGet (s2.core core).ctxs no = some o → o.owner = id.wg
        (lineWaits s1 id l tab → Stands s (.dtctx x) id g l (placed s1 id l)) ∧
        (¬lineWaits s1 id l tab → (∀ n < 16448, near tab (v + n)) →
          (¬free → Traps s (.dtctx x) id g l s2 ⟨0x19, g.pc.toNat, 7⟩ g.pc) ∧
          (free → ∃ s3 c, s3.mem = s2.mem ∧ c.owner = id.wg ∧
            (∀ n < 16448, ∀ b, LineByte s2 id.wg.gang tab (v + n) b → ctxByte c n = b.v.toNat) ∧
            ((∃ n < 16448, ∃ b, LineByte s2 id.wg.gang tab (v + n) b ∧ b.p = true) →
              Traps s (.dtctx x) id g l s3 ⟨0x11, 0, 0⟩ g.pc) ∧
            ((∀ n < 16448, ∀ b, LineByte s2 id.wg.gang tab (v + n) b → b.p = false) →
              (c.ok = false → Traps s (.dtctx x) id g l s3 ⟨0x1A, g.pc.toNat, 5⟩ g.pc) ∧
              (c.ok = true →
                Went s (.dtctx x) id l (s3.setCore core { s3.core core with ctxs := tbSet (s3.core core).ctxs no c }) (behind g x)))))))

/-- The transducer's passes and the values they read. -/
def Obligations.TransducerResults : Prop := Claim.TransducerPasses ∧ Claim.TransducerValues

namespace Sys2Proof.Claim

open Sys2Proof.Machine

/-- A spill slot of the warp (R100): format 1 and zeros till written. -/
def spillSlot (w : Warp) (n : Nat) : SpillSlot := (tbGet w.spill n).getD ⟨1, []⟩

/-- Word L of a spill slot. -/
def spillWord (w : Warp) (n lane : Nat) : PWord := smGet .zero (spillSlot w n).words lane

/-- The format of a slot over the launched lanes (Table 5-8): 0 for poison or where none other fits, 1 one value, 4 a linear run,
2 and 3 differences from lane 0 in 8 and 16 bits. -/
def slotFormat (w : Warp) (n : Nat) (fmt : Nat) : Prop :=
  let v := fun k => (spillWord w n k).v
  let launched := w.lanes.map Prod.fst
  let poisoned := ∃ k ∈ launched, (spillWord w n k).p = true
  let same := ∀ k ∈ launched, v k = v 0
  let linear := ∀ k ∈ launched, v k = v 0 + BitVec.ofNat 32 k * (v 1 - v 0)
  let near := fun (b : Int) => ∀ k ∈ launched, -b ≤ (v k - v 0).toInt ∧ (v k - v 0).toInt < b
  (poisoned → fmt = 0) ∧ (¬poisoned → same → fmt = 1) ∧ (¬poisoned → ¬same → linear → fmt = 4) ∧
    (¬poisoned → ¬same → ¬linear → near 128 → fmt = 2) ∧ (¬poisoned → ¬same → ¬linear → ¬near 128 → near 32768 → fmt = 3) ∧
    (¬poisoned → ¬same → ¬linear → ¬near 32768 → fmt = 0)

end Sys2Proof.Claim

/-- R100 and R101: SPILL writes the lane's word of a slot and gives the slot its format anew, FILL reads it back with its poison. -/
def Obligations.SpillAndFillResults : Prop :=
  ∀ (x : Ext) s id g l t,
    (Alone s (.spill x) id g l t →
      ∃ s1, Went s (.spill x) id l s1 (behind g x) ∧ s1 = { s with warps := s1.warps } ∧
        (∀ k, spillWord (s1.warp id) x.imm.toNat k = if k = l then t.reg x.a else spillWord (s.warp id) x.imm.toNat k) ∧
        slotFormat (s1.warp id) x.imm.toNat (spillSlot (s1.warp id) x.imm.toNat).fmt ∧
        (∀ n, n ≠ x.imm.toNat → spillSlot (s1.warp id) n = spillSlot (s.warp id) n) ∧ (s1.warp id).lanes = (s.warp id).lanes ∧
        ∀ id', id' ≠ id → s1.warp id' = s.warp id') ∧
    (Alone s (.fill x) id g l t →
      let r := spillWord (s.warp id) x.imm.toNat l
      Went s (.fill x) id l (withThread s id l (t.writeRegs (wordAt x.d r.v r.p))) (behind g x))

namespace Sys2Proof.Claim

open Sys2Proof.Machine

/-- The lane writes a status code to d and goes on. -/
def Status (s : State) (i : Instr) (x : Ext) (id : WarpId) (g : Issue) (l : Nat) (s1 : State) (code : Nat) : Prop :=
  Went s i id l (withThread s1 id l ((s1.thread ⟨id, l⟩).writeRegs (wordAt x.d (BitVec.ofNat 32 code) false))) (behind g x)

end Sys2Proof.Claim

/-- R27 and R28: where the fields of a header lie in its 64 bytes, and which headers are valid, for a slice of which the pool leaves limit
bytes: field by field of Tables 1-6 to 1-8; a paired header counts its warps and registers twice (R307). -/
def Sys2Proof.Claim.HeaderRules : Prop :=
  (∀ bs : List Byte,
    let h := headerOf bs
    let at_ := fun (o n : Nat) => natOfBytes ((bs.drop o).take n)
    h.entry = at_ 0x00 8 ∧ h.params = at_ 0x08 8 ∧ h.handler = at_ 0x10 8 ∧ h.donebar = at_ 0x18 8 ∧ h.shape = at_ 0x20 8 ∧
      h.e2 = at_ 0x28 4 ∧ h.e3 = at_ 0x2C 4 ∧ h.e4 = at_ 0x30 4 ∧ h.e5 = at_ 0x34 4 ∧ h.control = at_ 0x38 8) ∧
  ∀ (h : Header) (limit : Nat),
    let field := fun (x hi lo : Nat) => x / 2 ^ lo % 2 ^ (hi + 1 - lo)
    let w := fun (k : Nat) => field h.shape (6 * k + 5) (6 * k)
    let e0 := field h.shape 46 36
    let e1 := field h.shape 51 47
    let regs := field h.shape 63 55
    let copies := if field h.control 39 39 = 1 then 2 else 1
    let warps := (e0 + 31) / 32
    let pointer := fun (va align : Nat) => va < 2 ^ 64 ∧ canonicalVa (BitVec.ofNat 64 va) ∧ va % align = 0
    (h.valid limit = true ↔
      (5 ≤ w 0 ∧ w 0 ≤ 10 ∧ w 1 ≤ 4) ∧ w 0 + w 1 + w 2 + w 3 + w 4 + w 5 ≤ 64 ∧
        (1 ≤ e0 ∧ e0 ≤ 2 ^ w 0) ∧ (1 ≤ e1 ∧ e1 ≤ 2 ^ w 1) ∧ (1 ≤ h.e2 ∧ h.e2 ≤ 2 ^ w 2) ∧ (1 ≤ h.e3 ∧ h.e3 ≤ 2 ^ w 3) ∧
        (1 ≤ h.e4 ∧ h.e4 ≤ 2 ^ w 4) ∧ (1 ≤ h.e5 ∧ h.e5 ≤ 2 ^ w 5) ∧ e0 ≤ 1024 ∧
        ([1, 2, 4, 8, 16] : List Nat)[field h.shape 54 52]? = some e1 ∧
        (regs % 16 = 0 ∧ 16 ≤ regs ∧ regs ≤ 496) ∧ copies * regs * 32 * warps ≤ 131072 ∧ copies * warps ≤ 32 ∧
        field h.control 14 0 * 1024 ≤ limit ∧
        pointer h.entry 4 ∧ pointer h.params 1 ∧ pointer h.handler 4 ∧ pointer h.donebar 16 ∧ h.control < 2 ^ 43)

/-- R96 to R99: LAUNCH of a lane alone, its header and record addresses passed and its release complete: the header's code is written to d
and to the record; code 0 puts the launch, under a number not in use, behind those accepted before. That the checks of a stand before
those of b is the model's choice (log entry 74). The launch knows the number of the store of its record, behind which the store of its end comes
(R98). -/
def Sys2Proof.Claim.LaunchResults : Prop :=
  ∀ (x : Ext) s id g l t s1 s2 c record, Alone s (.launch x) id g l t →
    let p := id.wg.gang.part
    Flat s id l .load (t.pair x.a) 64 s1 c → s1.thread ⟨id, l⟩ = t → s2.thread ⟨id, l⟩ = t →
    (t.pair x.b = ⟨0, false⟩ ∧ s2 = s1 ∧ record = none ∨
      t.pair x.b ≠ ⟨0, false⟩ ∧ ∃ r, Flat s1 id l .store (t.pair x.b) 16 s2 r ∧ record = some r) →
    let answered := fun (code n : Nat) (s4 : State) =>
      s4.thread ⟨id, l⟩ = { t.writeRegs (wordAt x.d (BitVec.ofNat 32 code) false) with sync := (s4.thread ⟨id, l⟩).sync } ∧
        s4.mem = s2.mem ∧
        (∀ r, record = some r → ∃ a, s4.coreQ = s2.coreQ ++ [a] ∧ s4.nextId = a.id + 1 ∧ a.src = .thread ⟨id, l⟩ ∧ a.va = r.va ∧ a.key = r.key ∧
          a.size = 16 ∧ a.op = (let bs := (statusBytes code 0 0 n 0).map fun b => (⟨b, false⟩ : PByte)
            if r.region.isSome then .storeJoin bs else .store bs)) ∧
        (record = none → s4.coreQ = s2.coreQ)
    (s2.releasing ⟨id, l⟩ 4 = true → Stands s (.launch x) id g l s2) ∧
    (s2.releasing ⟨id, l⟩ 4 = false → ∀ s3, s2.readAtIssue ⟨id, l⟩ c 64 = (s3, none) → Stands s (.launch x) id g l s3) ∧
    (s2.releasing ⟨id, l⟩ 4 = false → ∀ s3 bytes, s2.readAtIssue ⟨id, l⟩ c 64 = (s3, some bytes) →
      let h := headerOf (bytes.map PByte.v)
      (h.valid s3.sliceLimit = false → ∃ s4, Went s (.launch x) id l s4 (behind g x) ∧ answered 2 0 s4 ∧
        (s4.part p).launches = (s3.part p).launches) ∧
      (∀ code key, s3.launchCode p h = some (code, key) → code ≠ 0 → ∃ s4, Went s (.launch x) id l s4 (behind g x) ∧
        answered code 0 s4 ∧ (s4.part p).launches = (s3.part p).launches) ∧
      (∀ key, s3.launchCode p h = some (0, key) → (s3.part p).launches.length ≤ 1024 →
        ∃ s4 n L, Went s (.launch x) id l s4 (behind g x) ∧
          answered 0 n s4 ∧ n < 65536 ∧ tbGet (s3.part p).launches n = none ∧ tbGet (s4.part p).launches n = some L ∧ L.hdr = h ∧
          L.status = (record.map Checked.va).getD 0 ∧ L.recordId = record.map (fun _ => s4.nextId - 1) ∧ L.doneKey = key ∧ L.order = (s3.part p).nextOrder ∧
          (s4.part p).nextOrder = (s3.part p).nextOrder + 1 ∧
          ∀ m, m ≠ n → tbGet (s4.part p).launches m = tbGet (s3.part p).launches m))

/-- The launch header, and what LAUNCH does. -/
def Obligations.LaunchAndHeaderResults : Prop := Claim.HeaderRules ∧ Claim.LaunchResults

namespace Sys2Proof.Claim

open Sys2Proof.Machine

/-- Nothing of the partition goes through a translation of a range any more: no access on its way, no store of an open span (R102). -/
def quietRange (s : State) (p lo n : Nat) : Prop :=
  (∀ a ∈ s.inFlight, a.gang.part = p → ¬(lo ≤ a.va ∧ a.va < lo + n)) ∧
    ∀ w ∈ s.warps, w.1.gang.part = p → ∀ u ∈ w.2.lanes, ∀ st ∈ u.2.stores, ¬(lo ≤ st.va ∧ st.va < lo + n)

/-- No TLB of a core serves a page that meets the range (R102). -/
def tlbsClear (s : State) (p lo n : Nat) : Prop :=
  ∀ c, ∀ e, e ∈ (s.core c).tlb ∨ e ∈ (s.core c).walkTlb → e.part = p → ¬(e.va < lo + n ∧ lo < e.va + e.size)

/-- The page size of modA[1:0] (R102). -/
def pageOfCode (x : Ext) : Nat :=
  match x.modA.toNat % 4 with
  | 0 => 2 ^ 16
  | 1 => 2 ^ 21
  | 2 => 2 ^ 28
  | _ => 2 ^ 33

/-- An address operand of a SYS instruction: clean and canonical. -/
def SysAddress (t : Thread) (r : RegIdx) (v : Nat) : Prop := t.pair r = ⟨v, false⟩ ∧ canonicalVa (BitVec.ofNat 64 v) ∧ v < 2 ^ 64

end Sys2Proof.Claim

/-- R102 and R103: TLBINV, SMAP and PGPIN of a lane alone: the status each answers, and that a translation taken away serves no access any
more once the instruction is done. Operands are consumed and checked first; that a bad address comes before another poisoned operand, and that TLBINV.all takes any
size field, is the model's choice (log entries 72 and 73). -/
def Obligations.TranslationInstructionResults : Prop :=
  ∀ (x : Ext) s id g l t,
    let p := id.wg.gang.part
    let pages := (t.reg x.b).v.toNat
    (∀ i ∈ [Instr.tlbinv x, .smap x, .pgpin x], Alone s i id g l t → (i = .tlbinv x → x.modA.getLsbD 2 = false) →
      ((t.pair x.a).p = true → Traps s i id g l s ⟨0x11, (t.pair x.a).v, 17⟩ g.pc) ∧
      ((t.pair x.a).p = false → ¬canonicalVa (Claim.pairOf t x.a) → Traps s i id g l s ⟨0x04, (t.pair x.a).v, 0x72⟩ g.pc)) ∧
    (Alone s (.tlbinv x) id g l t → t.inval = none →
      (x.modA.getLsbD 2 = true → (∃ a ∈ s.inFlight, a.gang.part = p ∧ a.va < 2 ^ 55) →
        ∃ s1, Stands s (.tlbinv x) id g l s1 ∧ s1.mem = s.mem ∧ tlbsClear s1 p 0 (2 ^ 55)) ∧
      (x.modA.getLsbD 2 = true → quietRange s p 0 (2 ^ 55) →
        ∃ s1, Status s (.tlbinv x) x id g l s1 0 ∧ s1.mem = s.mem ∧ tlbsClear s1 p 0 (2 ^ 55)) ∧
      (x.modA.getLsbD 2 = false → ∀ v, SysAddress t x.a v → (t.reg x.b).p = false →
        (v % pageOfCode x ≠ 0 → Status s (.tlbinv x) x id g l s 1) ∧
        (v % pageOfCode x = 0 →
          (∃ a ∈ s.inFlight, a.gang.part = p ∧ v % 2 ^ 56 ≤ a.va ∧ a.va < v % 2 ^ 56 + pages * pageOfCode x) →
          ∃ s1, Stands s (.tlbinv x) id g l s1 ∧ s1.mem = s.mem ∧ tlbsClear s1 p (v % 2 ^ 56) (pages * pageOfCode x)) ∧
        (v % pageOfCode x = 0 → quietRange s p (v % 2 ^ 56) (pages * pageOfCode x) →
          ∃ s1, Status s (.tlbinv x) x id g l s1 0 ∧ s1.mem = s.mem ∧ tlbsClear s1 p (v % 2 ^ 56) (pages * pageOfCode x)))) ∧
    (Alone s (.smap x) id g l t → t.inval = none → ∀ v, SysAddress t x.a v → (t.pair x.b).p = false → (t.reg x.c).p = false →
      let r := smapReq v (t.pair x.b).v (t.reg x.c).v.toNat
      (r.badRange s.poolBytes = true → Status s (.smap x) x id g l s 1) ∧
      (r.badRange s.poolBytes = false → s.brokenIn p (r.va + 65536 * r.pages) r.pages r.va = false →
        (r.kind = 0 → (∃ va ∈ r.vas, (s.walk p va).sram = false) → Status s (.smap x) x id g l s 4) ∧
        (r.kind = 0 → (∀ va ∈ r.vas, (s.walk p va).sram = true) → quietRange s p v (65536 * r.pages) →
          ∃ s1, Status s (.smap x) x id g l s1 0 ∧ s1.mem = (s.smapErase p r.vas).mem ∧ tlbsClear s1 p v (65536 * r.pages)) ∧
        (r.kind ≠ 0 → (∃ va ∈ r.vas, (s.walk p va).mapped = true) → Status s (.smap x) x id g l s 2) ∧
        (r.kind ≠ 0 → (∀ va ∈ r.vas, (s.walk p va).mapped = false) →
          (s.smapForeign p r = true → Status s (.smap x) x id g l s 3) ∧
          (s.smapForeign p r = false → s.smapTaken r = true → Status s (.smap x) x id g l s 5) ∧
          (s.smapForeign p r = false → s.smapTaken r = false →
            ∀ s1, s.smapWrite p ((s.wg id.wg).core / 64) r (natsFrom 0 r.pages) = .ok s1 → Status s (.smap x) x id g l s1 0)))) ∧
    (Alone s (.pgpin x) id g l t → ∀ v, SysAddress t x.a v → (t.reg x.b).p = false →
      let n := pages * (pageOfCode x / 65536)
      let stop := v % 2 ^ 56 + pages * pageOfCode x
      let leaves := s.leavesFrom p stop n (v % 2 ^ 56)
      let pin : Bool := !x.modA.getLsbD 3
      (v % pageOfCode x ≠ 0 → Status s (.pgpin x) x id g l s 1) ∧
      (v % pageOfCode x = 0 → s.brokenIn p stop n (v % 2 ^ 56) = false →
        (pin = true → smGet 0 (s.part p).regs 8 < (s.part p).pinned + pinUnits leaves → Status s (.pgpin x) x id g l s 2) ∧
        ((pin = true → (s.part p).pinned + pinUnits leaves ≤ smGet 0 (s.part p).regs 8) →
          ((∃ e ∈ leaves, e.2 = none) → Status s (.pgpin x) x id g l s 3) ∧
          ((∀ e ∈ leaves, e.2 ≠ none) → (pin = true → unsettled leaves = none) →
            Status s (.pgpin x) x id g l (s.pinLeaves p pin leaves) 0))))

namespace Sys2Proof.Claim

open Sys2Proof.Machine

/-- The lane u of a partition is parked at an LDLT of a cell of a region, x its instruction, key the cell, next the PC behind it. -/
def parkedLdlt (s : State) (p : Nat) (r : Region) (u : ThreadId) (x : Ext) (key : Nat) (next : Dword) : Prop :=
  u.gang.part = p ∧ u.lane ∈ (s.warp u.warp).lanes.map Prod.fst ∧
    ∃ va thr left since, (s.thread u).wait = .ldlt x va key thr left since next ∧ r.base ≤ va ∧ va < r.base + r.size

end Sys2Proof.Claim

/-- R236 to R238: RGNSET of an image that is read whole, once the lane has not to wait for what stands before it on its way (R214): a
poisoned image is consumed, its code 0 the model's choice (log entry 33); a bad image or a bad region answers 1; a removal takes the entry,
Owl's marks and its deltas away and lets every lane parked at an LDLT of the region go with its cell as it is, but waits, by the model's
choice, while an access under the entry is on its way (log entry 41); an installation writes the bottom value to every cell and puts the
entry. -/
def Obligations.RegionInstructionResults : Prop :=
  ∀ (x : Ext) s id g l t s1 c, Alone s (.rgnset x) id g l t →
    let p := id.wg.gang.part
    let n := x.imm.toNat % 16
    Flat s id l .load (t.pair x.a) 32 s1 c → s1.thread ⟨id, l⟩ = t →
    (s1.stepWaits ⟨id, l⟩ c.key 32 = true → Stands s (.rgnset x) id g l (placed s1 id l)) ∧
    (s1.stepWaits ⟨id, l⟩ c.key 32 = false → ∀ s0, s1.readAtIssue ⟨id, l⟩ c 32 = (s0, none) → Stands s (.rgnset x) id g l s0) ∧
    (s1.stepWaits ⟨id, l⟩ c.key 32 = false → ∀ s1' bytes, s1.readAtIssue ⟨id, l⟩ c 32 = (s1', some bytes) →
    let s1 := s1'
    let raw := bytes.map PByte.v
    let r := regionOf raw (s1.part p).ticks
    let clean := fun (s2 : State) =>
      (∀ d, ∀ m ∈ (s2.die d).marks, ¬(m.part = p ∧ m.entry = n)) ∧ ∀ dl ∈ s2.deltas, ¬(dl.part = p ∧ dl.entry = n)
    (anyPoison bytes = true → Traps s (.rgnset x) id g l s1 ⟨0x11, 0, 0⟩ g.pc) ∧
    (anyPoison bytes = false →
    (regionReserved raw = false → Status s (.rgnset x) x id g l s1 1) ∧
    (regionReserved raw = true → r.type = 0 →
      (tbGet (s1.part p).regions n = none → Status s (.rgnset x) x id g l s1 0) ∧
      (∀ old, tbGet (s1.part p).regions n = some old →
        (s1.regionBusy p n = true → Stands s (.rgnset x) id g l s1) ∧
        (s1.regionBusy p n = false →
          (∀ u y key next, parkedLdlt s1 p old u y key next → anyPoison (s1.readBytes key (cellSize y)) = false) →
          ∃ s2, Status s (.rgnset x) x id g l s2 0 ∧ tbGet (s2.part p).regions n = none ∧ clean s2 ∧ s2.mem = s1.mem ∧
            (∀ m, m ≠ n → tbGet (s2.part p).regions m = tbGet (s1.part p).regions m) ∧
            ∀ u y key next, parkedLdlt s1 p old u y key next → u ≠ ⟨id, l⟩ →
              s2.thread u =
                { ((s1.thread u).writeRegs (wideWrite y.d (cellSize y / 4) ⟨s1.readNat key (cellSize y), false⟩)).writePred
                    (predField y.c) false with
                    wait := .ready, pc := next, sync := (s2.thread u).sync }))) ∧
    (regionReserved raw = true → r.type ≠ 0 →
      (s1.regionBad p n r = true → Status s (.rgnset x) x id g l s1 1) ∧
      (s1.regionBad p n r = false →
        ∃ s2, Status s (.rgnset x) x id g l s2 0 ∧ tbGet (s2.part p).regions n = some r ∧ clean s2 ∧
          (bottomCell r.type = 0 → ∀ d ∈ s1.diesOf p, ∀ va ∈ r.pages, ∀ home, s1.replicaKey p d va = some home →
            ∀ k < 65536, isForeign (home + k) = false →
              s2.byteAt (home + k) = 0 ∧ s2.poisonAt (home + k) = s2.deadWord (home + k)) ∧
          (∀ d ∈ s1.diesOf p, ∀ va ∈ r.pages, ∀ home, s1.replicaKey p d va = some home →
            ∀ k < 16384, s2.readNat (home + 4 * k) 4 = bottomCell r.type)))))

/-- R102 and R274: CTXSAVE stands until the gang it names is saved and held, and returns then, refuses its own gang and a root gang with 3, one that is not
resident with 2, one that is not there with 1; CTXLOAD lets a held gang go. R102 and R352: PMCTL reads, selects, starts, stops and
clears a counter of the partition's bank. -/
def Obligations.SystemStateResults : Prop :=
  ∀ (x : Ext) s id g l t,
    let p := id.wg.gang.part
    let a := t.reg x.a
    let b := t.pair x.b
    let named := (tbGet (s.part p).launches a.v.toNat).any (fun L => decide (b.v < L.hdr.gangs)) && !s.launchOver p a.v.toNat
    let other : GangId := ⟨p, a.v.toNat, b.v⟩
    let st := (s.gang other).state
    let resident := st = .running ∨ st = .draining ∨ st = .saving
    let no := x.imm.toNat % 64
    let counter := (tbGet (s.part p).counters no).getD ⟨0, 0, false⟩
    let set := fun (c : Counter) => s.setPart p { s.part p with counters := tbSet (s.part p).counters no c }
    (∀ i ∈ [Instr.ctxsave x, .ctxload x], Alone s i id g l t → (i = .ctxsave x → t.ctx = none) →
      (a.p || b.p → Traps s i id g l s ⟨0x11, 0, 48⟩ g.pc) ∧
      ((a.p || b.p) = false → named = false → Status s i x id g l s 1)) ∧
    (Alone s (.ctxsave x) id g l t → t.ctx = none → (a.p || b.p) = false → named = true →
      (resident → (other = id.wg.gang ∨ a.v.toNat = 0) → Status s (.ctxsave x) x id g l s 3) ∧
      (resident → other ≠ id.wg.gang → a.v.toNat ≠ 0 →
        Stands s (.ctxsave x) id g l
          (withThread (s.setGang other { s.gang other with state := if st = .running then .saving else st, held := true }) id l
            { t with ctx := some (other, none) })) ∧
      (¬resident → Status s (.ctxsave x) x id g l s 2)) ∧
    (Alone s (.ctxsave x) id g l t → ∀ q, t.ctx = some (q, none) → Stands s (.ctxsave x) id g l s) ∧
    (Alone s (.ctxsave x) id g l t → ∀ q code, t.ctx = some (q, some code) →
      Status s (.ctxsave x) x id g l (withThread s id l { t with ctx := none }) code) ∧
    (Alone s (.ctxload x) id g l t → (a.p || b.p) = false → named = true →
      ((s.gang other).held = true → Status s (.ctxload x) x id g l (s.setGang other { s.gang other with held := false }) 0) ∧
      ((s.gang other).held = false → Status s (.ctxload x) x id g l s 2)) ∧
    (Alone s (.pmctlRead x) id g l t →
      Went s (.pmctlRead x) id l (withThread s id l (t.writeRegs (pairAt x.d (BitVec.ofNat 64 counter.value) false))) (behind g x)) ∧
    (Alone s (.pmctlSel x) id g l t →
      (a.p = false → Went s (.pmctlSel x) id l (set { counter with event := a.v.toNat }) (behind g x)) ∧
      (a.p = true → Traps s (.pmctlSel x) id g l s ⟨0x11, 0, 48⟩ g.pc)) ∧
    (Alone s (.pmctlStart x) id g l t → Went s (.pmctlStart x) id l (set { counter with running := true }) (behind g x)) ∧
    (Alone s (.pmctlStop x) id g l t → Went s (.pmctlStop x) id l (set { counter with running := false }) (behind g x)) ∧
    (Alone s (.pmctlClr x) id g l t → Went s (.pmctlClr x) id l (set { counter with value := 0 }) (behind g x))

/-! ### Boundary and memory instructions over a group -/

namespace Sys2Proof.Claim

open Sys2Proof.Machine

/-- Lanes act one after another, each in the state the ones before it left, till one stops those behind it; each lane reached is listed
with its end (R84). -/
inductive Walks {E : Type} (act : State → Nat → State × E) (stops : E → Bool) : State → List Nat → State → List (Nat × E) → Prop where
  | done (s : State) : Walks act stops s [] s []
  | stop (s : State) (l : Nat) (ls : List Nat) : stops (act s l).2 = true → Walks act stops s (l :: ls) (act s l).1 [(l, (act s l).2)]
  | more (s : State) (l : Nat) (ls : List Nat) (s' : State) (es : List (Nat × E)) : stops (act s l).2 = false →
      Walks act stops (act s l).1 ls s' es → Walks act stops s (l :: ls) s' ((l, (act s l).2) :: es)

/-- What a lane of a group does at a boundary instruction: `act` where its guard is true or the form has none, else it falls through. -/
def guardedAct (i : Instr) (id : WarpId) (g : Issue) (act : State → ThreadId → Dword → Dword → State × LaneEnd) (s : State) (l : Nat) :
    State × LaneEnd :=
  if (s.thread ⟨id, l⟩).guard i.ext.guard = true ∨ i.form.guarded = false then
    act s ⟨id, l⟩ g.pc (g.pc + BitVec.ofNat 64 (4 * i.words))
  else (s, .go)

/-- An end leaves its lane at the instruction, not issued. -/
def heldEnd : Option LaneEnd → Bool
  | none => true
  | some .hold => true
  | some .stall => true
  | _ => false

/-- An end is a fault that stops the lanes above. -/
def faultEnd : LaneEnd → Bool
  | .fault _ => true
  | .trap _ _ => true
  | _ => false

/-- An end parks its lane at an atomic, or in the operand log. -/
def standsOpen : LaneEnd → Bool
  | .park (.atomic _ _ _ _ _) => true
  | .log _ _ => true
  | _ => false

/-- An end is one a lane goes on from once its group does. -/
def doneEnd : LaneEnd → Bool
  | .go => true
  | .jump _ => true
  | .park _ => true
  | .log _ _ => true
  | .deliver _ _ => true
  | _ => false

/-- The lanes a lane that is done waits for: those held, those not reached unless a fault ended the walk, and, for an instruction done as
a whole, all that are done (R80, R84, R137). -/
def matesOf (g : Issue) (whole : Bool) (ends : List (Nat × LaneEnd)) : List Nat :=
  (if whole then (ends.filter fun e => doneEnd e.2).map Prod.fst else []) ++
    g.lanes.filter fun l => heldEnd (tbGet ends l) && ((tbGet ends l).isSome || !ends.any fun e => faultEnd e.2)

/-- Some lane a done one waits for still stands at the instruction. -/
def stillThere (g : Issue) (whole : Bool) (ends : List (Nat × LaneEnd)) : Bool :=
  (matesOf g whole ends).any fun l => heldEnd (tbGet ends l) || ((tbGet ends l).map standsOpen).getD false

/-- Where a lane's end puts its thread u; a fault enters the launch's handler. -/
def endsAt (g : Issue) (i : Instr) (whole : Bool) (ends : List (Nat × LaneEnd)) (l now no handler : Nat) (u : Thread) : Thread :=
  let next := g.pc + BitVec.ofNat 64 (4 * i.words)
  let mates := matesOf g whole ends
  match tbGet ends l with
  | some .go =>
    if stillThere g whole ends then { stepped u now with wait := .together mates g.pc next, pc := g.pc } else { stepped u now with pc := next }
  | some (.jump pc) => { stepped u now with pc := pc }
  | some (.park (.atomic n d wide _ after)) => { stepped u now with wait := .atomic n d wide mates after, pc := g.pc }
  | some (.park w) => { stepped u now with wait := w, pc := g.pc }
  | some (.log _ _) => { u with wait := .logged no mates next, pc := g.pc }
  | some (.fault f) => entered (stepped u now) l f g.pc g.pc (BitVec.ofNat 64 handler)
  | some (.trap f frpc) => entered (stepped u now) l f g.pc frpc (BitVec.ofNat 64 handler)
  | some (.deliver f frpc) => entered (stepped u now) l f g.pc frpc (BitVec.ofNat 64 handler)
  | _ => { u with pc := g.pc, stalled := true }

/-- No lane of the group at work is at its deadline (R90). -/
def Timely (s : State) : Prop :=
  ∀ id g, s.focus = some id → (s.warp id).cur = some g → ∀ k ∈ g.lanes, ((s.warp id).thread k).wd + 1 < ((s.warp id).thread k).deadline

/-- r is what a boundary instruction over the group at work makes of s (R80, R84, R94): the lanes act in ascending order and each stands
where its end puts it, lanes of other groups and other warps as the actions left them; the group is over; nothing else changes but the
counters of what has issued and the operand log. -/
def Grouped (s : State) (i : Instr) (whole : Bool) (act : State → ThreadId → Dword → Dword → State × LaneEnd) (r : State) : Prop :=
  ∀ id g s1 ends, s.focus = some id → (s.warp id).cur = some g → g.lanes.Nodup → Timely s →
    Walks (guardedAct i id g act) LaneEnd.stops s g.lanes s1 ends →
    (∀ k, loner (s1.thread ⟨id, k⟩)) →
    (∀ k ∈ g.lanes, (s1.thread ⟨id, k⟩).wait = .ready ∨ ∃ w, tbGet ends k = some (.park w)) →
    (∀ e ∈ ends, match e.2 with
      | .jump _ => whole = false
      | .park w => w ≠ .ready ∧ (∀ a b c, w ≠ .logged a b c) ∧ ∀ a b c, w ≠ .together a b c
      | .fault _ => (s1.header id.gang).handler ≠ 0 ∧ (s1.thread ⟨id, e.1⟩).inHandler = false
      | .trap _ _ => (s1.header id.gang).handler ≠ 0 ∧ (s1.thread ⟨id, e.1⟩).inHandler = false
      | .deliver _ _ => whole = false ∧ (s1.header id.gang).handler ≠ 0 ∧ (s1.thread ⟨id, e.1⟩).inHandler = false
      | .broken => False
      | .exhausted _ => False
      | _ => True) →
    let logs := ends.filterMap fun e => match e.2 with
      | .log va data => some (⟨e.1, s1.nextId, 0, g.pc, i, va, data⟩ : LogEntry)
      | _ => none
    let counts := if ends.any fun e => !heldEnd (some e.2) then s1.countIssue id else s1
    (∀ l ∈ g.lanes,
      r.thread ⟨id, l⟩ = endsAt g i whole ends l s.clk s1.nextId (s1.header id.gang).handler (s1.thread ⟨id, l⟩)) ∧
    (∀ l, l ∉ g.lanes → r.thread ⟨id, l⟩ = s1.thread ⟨id, l⟩) ∧ (∀ id', id' ≠ id → r.warp id' = s1.warp id') ∧
    r.warp id = { s1.warp id with lanes := (r.warp id).lanes, cur := none, log := (s1.warp id).log.filter LogEntry.boundary ++ logs,
                                  shadow := (r.warp id).shadow, shadowMasks := (r.warp id).shadowMasks } ∧
    r = { s1 with warps := r.warps, wgs := counts.wgs, parts := counts.parts, nextId := s1.nextId + if logs = [] then 0 else 1 }

/-- Some guard-true lane of the group at work names a slot a posted round keeps: an accumulator, or an operand slot (R183). -/
def slotsWait (s : State) (i : Instr) (acc : Bool) : Bool :=
  ((s.focus.bind fun id => (s.warp id).cur.map fun g =>
      g.lanes.any fun l =>
        (s.thread ⟨id, l⟩).guard i.ext.guard && (s.core (s.coreOf id)).slotBusy acc ((s.thread ⟨id, l⟩).reg i.ext.a).v.toNat)).getD false

/-- What one lane of a boundary instruction does, for the instructions whose lanes do nothing more together; where a slot is kept, all are
held (R183). -/
def laneAct (s : State) : Instr → Option (State → ThreadId → Dword → Dword → State × LaneEnd)
  | .braBase c o => some fun a t here next => if (a.thread t).guard c then actBra o.toInt a t here next else (a, .go)
  | .bra x => some (actBra x.imm.toInt)
  | .brx x => some (actBrx x)
  | .ret x => some (actBrx x)
  | .call x => some (actCall x)
  | .callx x => some (actCallx x)
  | .rjread x => some (actRjread x)
  | .trapBase code => some (actTrap 0x13 code.toNat)
  | .brkBase code => some (actTrap 0x14 code.toNat)
  | .trap x => some (actTrap 0x13 (x.imm.toNat % 65536))
  | .brk x => some (actTrap 0x14 (x.imm.toNat % 65536))
  | .nap x => some (actNap x)
  | .eret x => some (actEret (.eret x))
  | .swrite x => some (actSwrite (.swrite x) x)
  | .kset x => some (actKset x)
  | .kread x => some (actKread x)
  | .join x => some (actJoin x)
  | .jinc x => some (actJinc x)
  | .ldlt x => some (actLdlt false x)
  | .ldltn x => some (actLdlt true x)
  | .xflush x => some (actXflush x)
  | .fence x => some (actFence x)
  | .qfence x => some (actQfence x)
  | .barinit x => some (actBarinit x)
  | .bararr x => some (actBararr x)
  | .barwait x => some (actBarwait x)
  | .bartest x => some (actBartest x)
  | .bardrop x => some (actBardrop x)
  | .tiledef x => some (actTiledef x)
  | .tilefree x => some (actTilefree x)
  | .tileq x => some (actTileq x)
  | .bulkIn x => some (actBulk false x)
  | .bulkOut x => some (actBulk true x)
  | .mcast x => some (actMcast x)
  | .mcrecv x => some (actMcrecv x)
  | .mma x => some (actMma x)
  | .dtctx x => some (actDtctx x)
  | .sstt x => some (actSstt x)
  | .srel x => some (if slotsWait s (.srel x) (x.modA.getLsbD 0) then fun a _ _ _ => (a, .stall) else actSrel x s)
  | .sldt x => some (if slotsWait s (.sldt x) false then fun a _ _ _ => (a, .stall) else actSldt x)
  | .pack x => some (if slotsWait s (.pack x) false then fun a _ _ _ => (a, .stall) else actPack x)
  | .azero x => some (if slotsWait s (.azero x) true then fun a _ _ _ => (a, .stall) else actAzero x)
  | .unpack x => some (
      if x.modA.getLsbD 0 then if slotsWait s (.unpack x) true then fun a _ _ _ => (a, .stall) else actUnpackAcc x
      else actUnpackOp x)
  | .launch x => some (actLaunch x)
  | .spill x => some (actSpill x)
  | .fill x => some (actFill x)
  | .tlbinv x => some (actTlbinv x)
  | .rgnset x => some (actRgnset x)
  | .smap x => some (actSmap x)
  | .ctxsave x => some (actCtxsave x)
  | .ctxload x => some (actCtxload x)
  | .pmctlRead x => some (actPmRead x)
  | .pmctlSel x => some (actPmSel x)
  | .pmctlStart x => some (actPm (fun c => { c with running := true }) x)
  | .pmctlStop x => some (actPm (fun c => { c with running := false }) x)
  | .pmctlClr x => some (actPm (fun c => { c with value := 0 }) x)
  | .pgpin x => some (actPgpin x)
  | _ => none

/-- ATOM, CAS or RED over a group (R128, R137): its lanes wait for one another; where a lane needs the operand log and it holds four
instructions, the guard-true lanes are held. -/
def GroupedRmw (i : Instr) : Prop :=
  ∀ s id g s1 ends, s.focus = some id → (s.warp id).cur = some g → Walks (guardedAct i id g (actRmw i)) LaneEnd.stops s g.lanes s1 ends →
    let full : Bool := decide (4 ≤ (s.warp id).logged) && ends.any fun e => e.2.isLog
    ∃ r, exec i s = .next r ∧ Grouped s i true (if full then fun a _ _ _ => (a, .stall) else actRmw i) r

/-- A load or a store over a group in the first run of its span (R34, R127, R128): where a lane has to wait, or one needs the operand
log and it holds four instructions, nothing issues; else every lane issues it, a guard-true one takes its end, a fault noted, a logged
access numbered, and the group goes on. -/
def GroupedMem (i : Instr) (act : State → ThreadId → Issue → State × MemEnd) : Prop :=
  ∀ s id g s1 ends, s.focus = some id → (s.warp id).cur = some g → g.lanes.Nodup → g.phase = .run → Timely s →
    Walks (fun a l => act a ⟨id, l⟩ g) MemEnd.stops s (g.lanes.filter fun l => ((s.warp id).thread l).guard i.ext.guard) s1 ends →
    let logs := ends.any fun e => e.2.isLog
    let full := logs = true ∧ 4 ≤ (s.warp id).logged
    let holds := ∃ l, tbGet ends l = some .hold
    let broken := ∃ l, tbGet ends l = some .broken
    (holds ∨ full → exec i s = .next (s.askAll id ends)) ∧
    (¬holds → ¬full → ¬broken →
      ∃ s' g', exec i s = .next s' ∧ (s'.warp id).cur = some g' ∧ g'.pc = g.pc + BitVec.ofNat 64 (4 * i.words) ∧
        g'.count = g.count + 1 ∧ g'.lanes = g.lanes ∧ g'.entry = g.entry ∧ g'.phase = .run ∧
        s'.mem = s1.mem ∧ s'.coreQ = s1.coreQ ∧ s'.dieQ = s1.dieQ ∧ (∀ id', id' ≠ id → s'.warp id' = s1.warp id') ∧
        (∀ l, l ∉ g.lanes → s'.thread ⟨id, l⟩ = s1.thread ⟨id, l⟩) ∧
        ((s'.warp id).log.map fun e => (e.lane, e.va)) = ((s1.warp id).log.map fun e => (e.lane, e.va)) ++
          ends.filterMap (fun e => match e.2 with
            | .log _ va _ _ => some (e.1, va)
            | _ => none) ∧
        ∀ l ∈ g.lanes, ∀ u, tbGet (s1.warp id).lanes l = some u →
          match tbGet ends l with
          | some (.done upd) => s'.thread ⟨id, l⟩ = upd (counted u s.clk)
          | some (.fault f) => s'.thread ⟨id, l⟩ = (counted u s.clk).noteFault f (g.count + 1) g.pc
          | some (.log _ _ _ upd) => ∃ n, s'.thread ⟨id, l⟩ = upd n (counted u s.clk)
          | _ => s'.thread ⟨id, l⟩ = counted u s.clk)

end Sys2Proof.Claim

/-- R34, R80, R84, R127, R128, R137: what each boundary or memory instruction makes of a whole group, from what it makes of one lane: the
lanes act ascending, a guard-false one falls through, one that stops leaves those above it at the instruction, and lanes that are done
wait for lanes that are held. WSYNC and GSYNC test their barrier behind it, RJWAIT its mask, EXIT whether the gang is done, YIELD starts
its lanes' counts anew; SCLAIM claims once for the group; COPY sends one command for it. -/
def Obligations.GroupResults : Prop :=
  (∀ i s act, laneAct s i = some act → ∃ r, exec i s = .next r ∧ Grouped s i false act r) ∧
  (∀ x, GroupedRmw (.atom x) ∧ GroupedRmw (.cas x) ∧ GroupedRmw (.red x)) ∧
  (∀ x : Ext, GroupedMem (.ld x) (actLd x) ∧ GroupedMem (.ldparam x) (actLdparam x) ∧ GroupedMem (.st x) (actSt x)) ∧
  (∀ (x : Ext) s, ∃ r, exec (.wsync x) s = .next (r.wsyncTest s.here.wg) ∧ Grouped s (.wsync x) false actWsync r) ∧
  (∀ (x : Ext) s, ∃ r, exec (.gsync x) s = .next (r.gsyncTest s.here.wg.gang) ∧ Grouped s (.gsync x) false actGsync r) ∧
  (∀ (x : Ext) s, ∃ r, exec (.rjwait x) s = .next (r.modWarp s.here Warp.rejoinTest) ∧
    Grouped s (.rjwait x) false (actRjwait (x.modA.toNat % 8)) r) ∧
  (∀ (x : Ext) s, ∃ r, exec (.exit x) s = .next (r.gangDone s.here.gang) ∧ Grouped s (.exit x) false actExit r) ∧
  (∀ (x : Ext) s, Timely s →
    ∃ r, exec (.yield x) s =
        .next ((s.groupTrue x.guard).foldl (fun a l => a.modThread ⟨s.here, l⟩ fun t => t.yield x.modB.toNat x.modA.toNat) r) ∧
      Grouped s (.yield x) false
        (fun a _ _ next => (a, if (s.gang s.here.gang).state == .draining then .park (.drained next) else .go)) r) ∧
  (∀ (x : Ext) s, Timely s →
    ∃ r, exec (.sclaim x) s = .next r ∧
      Grouped (s.claim x).1 (.sclaim x) false
        (fun a t _ _ =>
          (a.setThread t
            (match (s.claim x).2 with
             | some n => ((a.thread t).writeRegs (wordAt x.d (BitVec.ofNat 32 n) false)).writePred (predField x.c) true
             | none => (a.thread t).writePred (predField x.c) false), .go)) r) ∧
  ∀ (x : Ext) s id g, s.focus = some id → (s.warp id).cur = some g →
    let out := s.copyIssue id x g.pc (g.lanes.filter fun l => (s.thread ⟨id, l⟩).guard x.guard)
    Timely out.1 →
    ∃ r, exec (.copy x) s = .next r ∧
      Grouped out.1 (.copy x) (out.2.any fun e => e.2.isLog) (fun a t _ _ => (a, (tbGet out.2 t.lane).getD .stall)) r

namespace Sys2Proof.Claim

open Sys2Proof.Machine

/-- A thread whose span has committed (R82): it stands behind the span, its store buffer is empty, its results are kept for the seal. -/
def committed (t : Thread) (pc : Dword) (digest : Word) : Thread :=
  { t with
      pc := pc
      digest := digest
      stores := []
      pends := t.pends.map fun p => if p.committed then p else { p with committed := true, sealing := true, window := 0 }
      flt := none
      kinds := 0
      sync := { t.sync with races := [] } }

/-- A thread whose span has rolled back (Table 5-2): what its loads learned is forgotten too, for they have been no reads (R197). -/
def rolledBack (t : Thread) (entry : Dword) : Thread :=
  { t with
      pc := entry, regs := t.undo.regs, preds := t.undo.preds, fflags := t.undo.fflags, wd := t.undo.wd, sync := t.undo.sync
      stores := []
      pends := t.pends.filter fun p => p.committed
      flt := none
      kinds := 0 }

/-- Accesses of these numbers are withdrawn. -/
def withdrawn (q : List Access) (ids : List Nat) : List Access := q.filter fun a => !ids.contains a.id

/-- The open loads of a group. -/
def openLoads (w : Warp) (g : Issue) : List Nat :=
  g.lanes.flatMap fun l => ((w.thread l).pends.filter fun p => !p.committed).map Pend.id

/-- The warp stands in a phase with this group, with no shadow; its lanes ascend. -/
structure Span (s : State) (w : WarpId) (g : Issue) : Prop where
  cur : (s.warp w).cur = some g
  shadow : (s.warp w).shadow = none
  ascend : g.lanes.Pairwise (· < ·)

/-- The span of the warp commits (R82, R133): each lane's thread is f of its committed thread; its stores enter the core's request queue
in their order, by place and then by lane, but for a store whose home is gone (R218); memory stays. -/
def Commits (s : State) (i : Instr) (w : WarpId) (g : Issue) (f : Thread → Thread) : Prop :=
  ∃ s', exec i s = .next s' ∧
    (s'.warp w).cur = some { g with phase := .sealed, windows := [] } ∧
    (∀ l ∈ g.lanes, ∃ digest,
      s'.thread ⟨w, l⟩ = f (committed (s.thread ⟨w, l⟩) g.pc digest) ∧
        ((s.part w.gang.part).mode < 2 ∨ w.gang.launch = 0 → digest = (s.thread ⟨w, l⟩).digest)) ∧
    (∀ l, l ∉ g.lanes → s'.thread ⟨w, l⟩ = s.thread ⟨w, l⟩) ∧
    ((s.part w.gang.part).logCount = 0 →
      s'.mem = s.mem ∧
        ∃ q, s'.coreQ = s.coreQ ++ q ∧
          q.map (fun a => (a.src, a.va, a.key, a.op)) =
            (List.range 24).flatMap fun k => g.lanes.flatMap fun l =>
              ((s.thread ⟨w, l⟩).stores.filter fun st => st.index == k + 1 && decide (st.key < keyGone)).map fun st =>
                (AccSrc.thread ⟨w, l⟩, st.va, st.key, if st.region.isSome then .storeJoin st.bytes else .store st.bytes))

end Sys2Proof.Claim

/-- R82, R132, R293, R295 to R297: a span without a fault commits, one with a fault is reported with its first fault in slow-gear order
and a bit for every kind a lane found, and runs again from its entry, rolled back; the slow gear ends in a precise record at the span entry, or in a commit that counts a vanished
fault; a result lands in its registers, and in the undo record of the span it stands before. -/
def Sys2Proof.Claim.SpanEventResults : Prop :=
  (∀ s w g, Span s w g →
    (s.focus = some w → g.phase = .run → (s.warp w).log = [] →
      ((∀ l ∈ g.lanes, (s.thread ⟨w, l⟩).flt = none) → Commits s (.spanSeal w) w g fun t => t) ∧
      ((∃ l ∈ g.lanes, (s.thread ⟨w, l⟩).flt ≠ none) →
        ∃ sum lane first, exec (.spanSeal w) s =
            .next (s.setWarp w { s.warp w with cur := some { g with phase := .reported sum lane first } }) ∧
          lane ∈ g.lanes ∧ (s.thread ⟨w, lane⟩).flt = some first ∧
          (∀ k, sum.testBit k = true ↔ ∃ l ∈ g.lanes, (s.thread ⟨w, l⟩).kinds.testBit k = true) ∧
          ∀ l ∈ g.lanes, ∀ f, (s.thread ⟨w, l⟩).flt = some f → first.index < f.index ∨ first.index = f.index ∧ lane ≤ l)) ∧
    (∀ retry sum lane first, s.issues w.gang = true →
      (retry = false ∧ g.phase = .reported sum lane first ∨
        retry = true ∧ g.phase = .mismatch ∧ sum = 0 ∧ lane = 0 ∧ first = ⟨0, g.entry, ⟨0, 0, 0⟩⟩) →
      ∃ s', exec (.slowGear w) s = .next s' ∧
        (s'.warp w).cur =
          some { g with pc := g.entry, count := 0, windows := [], phase := .slow retry sum lane first none, held := none,
                        overrun := none, passed := 0 } ∧
        (∀ l ∈ g.lanes, s'.thread ⟨w, l⟩ = rolledBack (s.thread ⟨w, l⟩) g.entry) ∧
        (∀ l, l ∉ g.lanes → s'.thread ⟨w, l⟩ = s.thread ⟨w, l⟩) ∧ s'.mem = s.mem ∧
        s'.coreQ = withdrawn s.coreQ (openLoads (s.warp w) g) ∧ s'.dieQ = withdrawn s.dieQ (openLoads (s.warp w) g)) ∧
    (∀ sum lane first, s.focus = some w → g.phase = .slow false sum lane first none →
      Commits s (.slowGearComplete w) w g fun t =>
        { t with vanish := if t.vanish = 0xFFFFFFFF then t.vanish else t.vanish + 1 }) ∧
    (∀ sum lane first l f, s.focus = some w → g.phase = .slow false sum lane first (some (l, f)) → l ∈ g.lanes →
      (s.header w.gang).handler ≠ 0 → (s.thread ⟨w, l⟩).inHandler = false →
      ∃ s', exec (.slowGearComplete w) s = .next s' ∧ (s'.warp w).cur = none ∧
        s'.thread ⟨w, l⟩ =
          entered (rolledBack (s.thread ⟨w, l⟩) g.entry) l f g.entry g.entry (BitVec.ofNat 64 (s.header w.gang).handler) ∧
        (∀ k ∈ g.lanes, k ≠ l → s'.thread ⟨w, k⟩ = rolledBack (s.thread ⟨w, k⟩) g.entry) ∧ s'.mem = s.mem)) ∧
    ∀ (s : State) (w : WarpId) l t n p, tbGet (s.warp w).lanes l = some t → loner t →
      (t.pends.find? fun p => p.id == n && p.ready && p.window == 0) = some p →
      let writes := (p.regs.zip p.words).filter fun r => r.1 != 0
      let lands := fun (u : Thread) => (u.writeRegs writes).writePreds (p.preds.zip p.bits)
      let before := lands { t with regs := t.undo.regs, preds := t.undo.preds }
      ∃ s', exec (.loadDataReturn ⟨w, l⟩ n) s = .next s' ∧
        s'.thread ⟨w, l⟩ =
          { lands t with
              pends := t.pends.filter fun q => q.id != n
              undo := if p.committed then { t.undo with regs := before.regs, preds := before.preds } else t.undo } ∧
        s'.mem = s.mem

/-- R90, R91 to R93, R144, R242, R280, R312: the watchdog's fault of a group that met a lane at its deadline stops every lane of the
gang and ends its launch (that it takes the group's turn is log entry 23); a nap ends at its time, or, by the reading of log entry 60, once
each lane that was ready in another group as it began has issued since or is not ready; an LDLT that has waited more than its time takes the
cell as it is, and consumes a poisoned one (R243); an EXIT completes, and a tracker entry frees, once nothing the lanes issued is outstanding, what a
save holds of it included. What is not due changes nothing. -/
def Sys2Proof.Claim.ThreadEventResults : Prop :=
  ∀ (s : State) (w : WarpId) l,
    let tid : ThreadId := ⟨w, l⟩
    let gang := w.wg.gang
    let t := s.thread tid
    (∀ g, s.focus = some w → (s.warp w).cur = some g →
      (g.overrun ≠ some l → exec (.watchdogFault tid) s = .next s) ∧
      (g.overrun = some l → ∃ s', exec (.watchdogFault tid) s = .next s' ∧
        (gang.launch = 0 ∨ (s.gang gang).state = .running ∨ (s.gang gang).state = .draining ∨ (s.gang gang).state = .retiring →
          ∀ u, (tbGet (s'.warp w).lanes u).isSome = true → (s'.thread ⟨w, u⟩).wait = .exited) ∧
        (gang.launch ≠ 0 → (s.gang gang).state = .running → (s.launch gang.part gang.launch).ending = none →
          (s'.launch gang.part gang.launch).ending = some (4, 0x12, 0, gang.gang)))) ∧
    (∀ e m next, t.wait = .nap e m next →
      exec (.napEnd tid) s = .next (if s.clk < e then s else s.setThread tid { t with wait := .ready, pc := next })) ∧
    (∀ others next, t.wait = .napTurn others next →
      let waits := ∃ k ∈ others, (tbGet (s.warp w).lanes k.1).isSome = true ∧ (s.thread ⟨w, k.1⟩).wait = .ready ∧
        (s.thread ⟨w, k.1⟩).issues = k.2
      ((s.warp w).lanes.map Prod.fst).Nodup →
        (waits → exec (.napEnd tid) s = .next s) ∧
        (¬waits → exec (.napEnd tid) s = .next (s.setThread tid { t with wait := .ready, pc := next }))) ∧
    (∀ x va key thr n since next, t.wait = .ldlt x va key thr (some n) since next → n ≠ 0 →
      let poison := anyPoison (s.readBytes key (cellSize x))
      ((s.gang gang).runClk ≤ since + n → exec (.ldltTimeout tid) s = .next s) ∧
      (since + n < (s.gang gang).runClk → poison = false →
        ∃ s', exec (.ldltTimeout tid) s = .next s' ∧ s'.mem = s.mem ∧
          s'.thread tid =
            { (t.writeRegs (wideWrite x.d (cellSize x / 4) ⟨s.readNat key (cellSize x), false⟩)).writePred (predField x.c) false with
                wait := .ready, pc := next, sync := (s'.thread tid).sync }) ∧
      (since + n < (s.gang gang).runClk → poison = true → (s.header gang).handler ≠ 0 → t.inHandler = false →
        ∃ s', exec (.ldltTimeout tid) s = .next s' ∧ s'.mem = s.mem ∧
          s'.thread tid =
            entered t l ⟨0x11, 0, 32⟩ (next - 12) (next - 12) (BitVec.ofNat 64 (s.header gang).handler))) ∧
    (t.wait = .exitWait →
      let c := s.core (s.wg w.wg).core
      let outstanding := (∃ a ∈ s.inFlight ++ (s.gang gang).gated, a.src = .thread tid ∧ ∀ f, a.op ≠ .load f) ∨
        ∃ d ∈ c :: (s.gang gang).cores.map Prod.snd,
          (∃ y ∈ d.copyQ ++ d.bulkQ ++ d.mcastQ, tid ∈ y.srcs) ∨ ∃ e ∈ d.matQ, tid ∈ e.signers ∧ e.dropped = false
      (outstanding → exec (.exitComplete tid) s = .next s) ∧
      (¬outstanding → ∃ s', exec (.exitComplete tid) s = .next s' ∧
        s'.thread tid = { t with wait := .exited, pends := [], stores := [], flt := none, kinds := 0 } ∧ s'.mem = s.mem)) ∧
    ∀ core n e, tbGet (s.core core).tracker n = some e →
      let busy := e.threads.any s.outstanding
      exec (.trackerEntryFree core n) s =
        .next (if busy then s else s.setCore core { s.core core with tracker := tbErase (s.core core).tracker n })

/-- The events of a span and of a waiting thread. -/
def Obligations.SpanAndThreadEventResults : Prop := Claim.SpanEventResults ∧ Claim.ThreadEventResults

namespace Sys2Proof.Claim

open Sys2Proof.Machine

/-- The words a load delivers (R132): its bytes little-endian, one register to each four, a short signed one extended; any poisoned byte
poisons them all. -/
def delivered (p : Pend) (size : Nat) (bs : List PByte) : List PWord :=
  let n := natOfBytes (bs.map PByte.v)
  (List.range p.regs.length).map fun k =>
    ⟨if k = 0 ∧ p.signed = true ∧ size < 4 then (BitVec.ofNat (8 * size) n).signExtend 32 else BitVec.ofNat 32 (n / 2 ^ (32 * k)),
      anyPoison bs⟩

/-- Memory after n bytes are written from a key: these bytes there, every other byte as before. -/
def Wrote (s s' : State) (key : Nat) (bs : List PByte) : Prop :=
  ∀ k, s'.byteAt k = if key ≤ k ∧ k < key + bs.length then (bs.map PByte.v).getD (k - key) 0 else s.byteAt k

/-- The poison of the ECC words after n bytes are written from a key (R133): a poisoned byte poisons its word, clean bytes that are all of
it clear it, and any other word keeps what it had. -/
def Poisons (s s' : State) (key : Nat) (bs : List PByte) : Prop :=
  ∀ w, eccBase w = w → eccSize w = eccSize key → isForeign w = false →
    let inside := (List.range bs.length).filter fun k => decide (eccBase (key + k) = w)
    ((∃ k ∈ inside, (bs.map PByte.p).getD k false = true) → s'.poisonAt w = true) ∧
    ((∀ k ∈ inside, (bs.map PByte.p).getD k false = false) → inside.length = eccSize w → s'.poisonAt w = s'.deadWord w) ∧
    ((∀ k ∈ inside, (bs.map PByte.p).getD k false = false) → inside.length ≠ eccSize w → s'.poisonAt w = s.poisonAt w)

/-- The new value of a location of w bits, for ADD, AND, OR, XOR, MIN, MAX and EXCH of Table 7-6; signed for type codes 0 and 2. -/
def atomicValue (op ty w old b : Nat) : Nat :=
  let o := BitVec.ofNat w old
  let v := BitVec.ofNat w b
  let signed := ty = 0 ∨ ty = 2
  match op with
  | 0 => (o + v).toNat
  | 1 => (o &&& v).toNat
  | 2 => (o ||| v).toNat
  | 3 => (o ^^^ v).toNat
  | 4 => if signed then (BitVec.ofInt w (min o.toInt v.toInt)).toNat else min o.toNat v.toNat
  | 5 => if signed then (BitVec.ofInt w (max o.toInt v.toInt)).toNat else max o.toNat v.toNat
  | _ => v.toNat

/-- The sum of two float bit patterns to nearest that keeps denormals (Table 7-6, R63 to R65): of numbers delivered, of a NaN or of
infinities of opposite sign CanonNaN, of an infinity itself. -/
def FloatSum (f : Fmt) (a b r : Nat) : Prop :=
  let nan := (2 ^ f.eb - 1) * 2 ^ f.mb + 2 ^ (f.mb - 1)
  match f.read false a, f.read false b with
  | .fin n _ _, .fin k _ _ =>
    ∃ fl, Delivers f .rne false (((standsFor f a + standsFor f b : ℚ)) : ℝ) (n && k) ⟨r, fl⟩
  | .inf n, .inf k => r = if n = k then a else nan
  | .inf _, .fin _ _ _ => r = a
  | .fin _ _ _, .inf _ => r = b
  | _, _ => r = nan

/-- Byte k of a lane's load, which made or met a race of scopes (R201), is what it was before a write that the thread need not see (log
entry 11). -/
def OlderByte (s s' : State) (w : WarpId) (l : Nat) (a : Access) (k : Nat) (b : PByte) : Prop :=
  (a.key + k ∈ s'.raced ∨ a.key + k ∈ (s'.thread ⟨w, l⟩).sync.races) ∧
    ∃ e ∈ s.pastOf a.key, s.mustSee ⟨w, l⟩ e = false ∧ e.off ≤ a.key % 16 + k ∧ e.old[a.key % 16 + k - e.off]? = some b

/-- An access at the die order stage whose turn has come and whose slices, if its home is off the device, have started (R350); s1 is the
state then. It goes to a home that the crossbar does not discard; its partition neither records nor replays. -/
structure Due (s : State) (a : Access) (s1 : State) : Prop where
  core : ∀ b ∈ s.coreQ, b.id ≠ a.id
  die : s.dieQ.find? (fun b => b.id == a.id) = some a
  turn : s.canPerform a = true
  slices : s.takeSlices a.gang.part (s.accessSlices a) = (s1, true)
  inside : isForeign a.key = false
  mode : (s.part a.gang.part).mode < 2

/-- The bytes at an access's home as it finds them: of a private copy its gang's view (R324), of a peer that cannot be reached the poison
code (R365), else what stands there. -/
def found (s : State) (a : Access) : List PByte :=
  if a.snap then (List.range a.size).map fun k => s.viewByte a.gang (a.va + k) (a.key + k)
  else if s.lostVia a.route a.key then List.replicate a.size ⟨0, true⟩
  else s.readBytes a.key a.size

/-- What a write of bytes by an access leaves (R133, R324, R365): in its gang's private copy, nowhere, or at its home. -/
def Leaves (s s' : State) (a : Access) (bs : List PByte) : Prop :=
  (a.snap = true → s'.mem = s.mem ∧ ∀ k < bs.length, (s'.viewByte a.gang (a.va + k) (a.key + k)).v = (bs.map PByte.v).getD k 0) ∧
  (a.snap = false → s.lostVia a.route a.key = true → s'.mem = s.mem ∧ s'.poison = s.poison) ∧
  (a.snap = false → s.lostVia a.route a.key = false → Wrote s s' a.key bs ∧ Poisons s s' a.key bs)

end Sys2Proof.Claim

/-- R132, R133, R137, R197, R198, R202, R324, R350, R365: an access leaves its core's queue for its die's order stage in its turn, and is
performed there in its turn, two firings of one event, which is the model's reading (log entry 19): a load delivers its bytes to its lane's pending
result, the lane's own stores in their place, those there or, on bytes of a race of scopes (R201), those from before a write, which is the
model's choice (log entry 11); a store writes its bytes with their poison and no other; an atomic writes the new value, a float one the
sum to nearest, and gives its lane the old one; a CAS writes only where the old value is the compared one. -/
def Obligations.AccessResults : Prop :=
  (∀ (s : State) a, s.coreQ.find? (fun b => b.id == a.id) = some a →
    (s.canStage a = true →
      exec (.memoryAccessPerform a.id) s =
        .next { s with coreQ := s.coreQ.filter (fun b => b.id != a.id), dieQ := s.dieQ ++ [a] }) ∧
    (s.canStage a = false → exec (.memoryAccessPerform a.id) s = .next s)) ∧
  ∀ (s : State) a s1, Due s a s1 →
    let bs := found s1 a
    let old := natOfBytes (bs.map PByte.v)
    let gone := fun (s' : State) => s'.dieQ = s1.dieQ.filter (fun b => b.id != a.id) ∧ s'.coreQ.map Access.id = s1.coreQ.map Access.id
    (∀ own, a.op = .load own → ∀ w l t, a.src = .thread ⟨w, l⟩ → tbGet (s.warp w).lanes l = some t → loner t →
      (∀ p ∈ t.pends, p.id = a.id → a.size = 4 * p.regs.length ∨ p.regs.length = 1 ∧ (a.size = 1 ∨ a.size = 2)) →
      ∃ (s' : State) (got : List PByte), exec (.memoryAccessPerform a.id) s = .next s' ∧ gone s' ∧ s'.mem = s1.mem ∧ got.length = a.size ∧
        (∀ k < a.size, got[k]? = bs[k]? ∨ a.snap = false ∧ ∃ b, got[k]? = some b ∧ OlderByte s1 s' w l a k b) ∧
        let taken := (List.range a.size).map fun k => (tbGet own k).getD (got.getD k ⟨0, false⟩)
        s'.thread ⟨w, l⟩ =
          { t with
              pends := t.pends.map fun p => if p.id = a.id then { p with ready := true, words := delivered p a.size taken } else p
              sync := (s'.thread ⟨w, l⟩).sync
              undo := { t.undo with sync := (s'.thread ⟨w, l⟩).undo.sync } }) ∧
    (∀ data, a.op = .store data → ∃ s', exec (.memoryAccessPerform a.id) s = .next s' ∧ gone s' ∧ Leaves s1 s' a data) ∧
    (∀ op ty b p wants, a.op = .atom op ty b p wants → op ≤ 6 → (a.size = 4 ∧ ty < 2 ∨ a.size = 8 ∧ 2 ≤ ty) →
      b < 2 ^ (8 * a.size) →
      ∃ s' out, exec (.memoryAccessPerform a.id) s = .next s' ∧ gone s' ∧ Leaves s1 s' a out ∧ out.length = a.size ∧
        (∀ o ∈ out, o.p = (p || (op != 6 && anyPoison bs))) ∧
        natOfBytes (out.map PByte.v) = atomicValue op ty (8 * a.size) old b) ∧
    (∀ op ty b p wants, a.op = .atom op ty b p wants → 7 ≤ op → op ≤ 9 → ty < 2 → a.size = (if op = 8 then 8 else 4) →
      b < 2 ^ (8 * a.size) →
      ∃ s' out n, exec (.memoryAccessPerform a.id) s = .next s' ∧ gone s' ∧ Leaves s1 s' a out ∧ out.length = a.size ∧
        (∀ o ∈ out, o.p = (p || anyPoison bs)) ∧ natOfBytes (out.map PByte.v) = n ∧
        (op = 7 → FloatSum f32 old b n) ∧ (op = 8 → FloatSum f64 old b n) ∧
        (op = 9 → FloatSum bf16 (old % 65536) (b % 65536) (n % 65536) ∧ FloatSum bf16 (old / 65536) (b / 65536) (n / 65536))) ∧
    (∀ c n pc pn, a.op = .cas c n pc pn → n < 2 ^ (8 * a.size) → ∃ s', exec (.memoryAccessPerform a.id) s = .next s' ∧ gone s' ∧
      (old = c → ∃ out, Leaves s1 s' a out ∧ out.length = a.size ∧ (∀ o ∈ out, o.p = pn) ∧ natOfBytes (out.map PByte.v) = n) ∧
      (old ≠ c → s'.mem = s1.mem ∧ s'.poison = s1.poison)) ∧
    ((∃ op ty b p, a.op = .atom op ty b p true) ∨ (∃ c n pc pn, a.op = .cas c n pc pn) →
      ∀ w l t d wide next, a.src = .thread ⟨w, l⟩ → tbGet (s.warp w).lanes l = some t → t.wait = .atomic a.id d wide [l] next →
        ∃ s', exec (.memoryAccessPerform a.id) s = .next s' ∧
          s'.thread ⟨w, l⟩ =
            { t.writeRegs (wideWrite (BitVec.ofNat 9 d) (if wide then 2 else 1) ⟨old, anyPoison bs⟩) with
                wait := .ready, pc := next, sync := (s'.thread ⟨w, l⟩).sync })

namespace Sys2Proof.Claim

open Sys2Proof.Machine

/-- A value of a cell of a type, in range. -/
def InCell (type v : Nat) : Prop := v < 2 ^ (8 * cellWidth type)

end Sys2Proof.Claim

/-- R239 and Table 7-8: on the values of each of the eight types the join is commutative, associative and idempotent, the bottom value of
Table 12-2 is its unit, and a join lies at or above what it joins: values that arrive in any order, more than once, leave the same cell. -/
def Obligations.CellsAreSemilattices : Prop :=
  ∀ type, 1 ≤ type → type ≤ 8 → ∀ a b c, InCell type a → InCell type b → InCell type c →
    joinCell type a b = joinCell type b a ∧ joinCell type (joinCell type a b) c = joinCell type a (joinCell type b c) ∧
    joinCell type a a = a ∧ joinCell type (bottomCell type) a = a ∧ InCell type (joinCell type a b) ∧
    aboveCell type (joinCell type a b) a = true ∧ (aboveCell type a b = true → joinCell type a b = a)

namespace Sys2Proof.Claim

open Sys2Proof.Machine

/-- The state after a value is joined into the cell of region entry e at key, by a die (R240): the cell holds the join and no other byte
changes; a rise is marked for every die the schedule serves; a lane parked at the cell, of a gang that is neither saved (R346) nor resuming,
takes it once its threshold is met. The operand of a join has its NaN replaced (R141, R142), a value Owl merges has not (R245). -/
def Joined (s s' : State) (p e va key die v : Nat) (fromMerge : Bool) : Prop :=
  ∀ r, tbGet (s.part p).regions e = some r → InCell r.type v → 1 ≤ r.type → r.type ≤ 8 →
    let w := cellWidth r.type
    let old := s.readNat key w
    let new := joinCell r.type old (if fromMerge = true then v else cellOperand r.type v)
    s'.readNat key w = new ∧ (∀ k, (k < key ∨ key + w ≤ k) → s'.byteAt k = s.byteAt k) ∧
    (new ≠ old → ¬(fromMerge = true ∧ r.sched = 2) → ∀ d ∈ schedDests r.sched (s.diesOf p) die, ⟨p, e, va - r.base, d⟩ ∈ (s'.die die).marks) ∧
    (anyPoison (s.readBytes key w) = false → ∀ (i : WarpId) l t x va' thr left since next,
      i.wg.gang.part = p → (s.gang i.wg.gang).state ≠ .saved → (s.gang i.wg.gang).state ≠ .resuming → tbGet (s.warp i).lanes l = some t → t.wait = .ldlt x va' key thr left since next →
      (metCell r.type new thr = true →
        s'.thread ⟨i, l⟩ =
          { (t.writeRegs (wideWrite x.d (w / 4) ⟨new, false⟩)).writePred (predField x.c) true with
              wait := .ready, pc := next, sync := (s'.thread ⟨i, l⟩).sync }) ∧
      (metCell r.type new thr = false → s'.thread ⟨i, l⟩ = t))

/-- The rank of a die among the live ones. -/
def rankOf (live : List Nat) (d : Nat) : Nat := (live.filter fun k => decide (k < d)).length

/-- Round n of a schedule goes from one live die to another (Table 12-4): to the next rank; to the rank that differs in bit n mod 2, or in
the other bit where there is none; to every other die. -/
def roundsTo (sched n : Nat) (live : List Nat) (d dest : Nat) : Prop :=
  d ∈ live ∧ dest ∈ live ∧ dest ≠ d ∧
    match sched with
    | 0 => rankOf live dest = (rankOf live d + 1) % live.length
    | 1 => rankOf live dest =
        if rankOf live d ^^^ 2 ^ (n % 2) < live.length then rankOf live d ^^^ 2 ^ (n % 2) else rankOf live d ^^^ 2 ^ ((n + 1) % 2)
    | _ => True

end Sys2Proof.Claim

/-- R143, R240, R245, R247: a JOIN, a JINC and a value of Owl update a replica; a round, once its time has come, sends every marked cell to
the dies of the round and clears those marks. -/
def Sys2Proof.Claim.LatticeEventResults : Prop :=
  (∀ (s : State) a e, Due s a s → a.region = some e →
    let die := a.key / 16777216 / 64
    (∀ v, a.op = .join v → ∃ s', exec (.memoryAccessPerform a.id) s = .next s' ∧ Joined s s' a.gang.part e a.va a.key die v false) ∧
    (∀ n d, a.op = .jinc n d → d < 4 → ∀ r, tbGet (s.part a.gang.part).regions e = some r → r.type = 7 →
      ∃ s', exec (.memoryAccessPerform a.id) s = .next s' ∧
        ∀ k < 4, slotOf 32 k (s'.readNat a.key 16) =
          if k = d then min (slotOf 32 k (s.readNat a.key 16) + n) (2 ^ 32 - 1) else slotOf 32 k (s.readNat a.key 16))) ∧
  (∀ (s : State) p e r, tbGet (s.part p).regions e = some r →
    let n := r.rounds + 1
    let live := s.diesOf p
    ((s.part p).ticks < r.since + n * r.period → exec (.owlRound p e) s = .next s) ∧
    (r.since + n * r.period ≤ (s.part p).ticks → ∃ s', exec (.owlRound p e) s = .next s' ∧ s'.mem = s.mem ∧
      tbGet (s'.part p).regions e = some { r with rounds := n } ∧
      (∀ d, ∀ m ∈ (s.die d).marks, m.part = p → m.entry = e → roundsTo r.sched n live d m.dest →
        ∀ home, s.replicaKey p d (r.base + m.off) = some home →
          ∃ dl ∈ s'.deltas, dl.part = p ∧ dl.entry = e ∧ dl.off = m.off ∧ dl.dest = m.dest ∧ dl.sent = s.clk ∧
            dl.value = s.readNat home (cellWidth r.type)) ∧
      ∀ d, ∀ m ∈ (s'.die d).marks, m ∈ (s.die d).marks ∧ ¬(m.part = p ∧ m.entry = e ∧ roundsTo r.sched n live d m.dest))) ∧
  ∀ (s : State) d, s.deltas.find? (fun x => x.id == d.id) = some d →
    let s1 := { s with deltas := s.deltas.filter fun x => x.id != d.id }
    ((s.die d.dest).fenced = true ∨ tbGet (s.part d.part).regions d.entry = none → exec (.owlMerge d.id) s = .next s1) ∧
    ∀ r key, tbGet (s.part d.part).regions d.entry = some r → (s.die d.dest).fenced = false →
      s.replicaKey d.part d.dest (r.base + d.off) = some key → isForeign key = false → d.poison = false →
      ∃ s', exec (.owlMerge d.id) s = .next s' ∧ s'.deltas = s1.deltas ∧
        Joined s s' d.part d.entry (r.base + d.off) key d.dest d.value true

/-- R250 and R251: a host write to the lattice window joins into the cell of the host region, at the partition's lowest live die, where its
width and offset are a cell's; any other write is counted and nothing else; a function that is off, in the error state, or locked without the
key of its stream takes none. A read
of a cell's width, aligned, returns the cell of that die, and any other reads zero.
R317 and R369: fencing a die clears its bits of the ready register, empties it and drops the values on their way to it. -/
def Sys2Proof.Claim.LatticeWindowAndDieFence : Prop :=
  (∀ (s : State) fn off width (value : BitVec 128),
    let p := fn - 1
    let die := ((s.diesOf p).head?).getD 0
    let write := exec (.latticeWindowWrite fn off width value) s
    let keyless := ((s.fn fn).tdisp = .locked ∨ (s.fn fn).tdisp = .run) ∧ (s.fn fn).ideKey = false
    (4096 ≤ off ∨ fn = 0 ∨ s.hasPart p = false ∨ (s.fn fn).tdisp = .error ∨ keyless → write = .next s) ∧
    (fn = 0 ∨ s.hasPart p = false ∨ keyless → s.windowRead fn off width = 0) ∧
    (off < 4096 → fn ≠ 0 → s.hasPart p = true → (s.fn fn).tdisp ≠ .error → ¬keyless →
      let host := (s.part p).regions.find? fun r => natBit r.2.flags 0
      (host = none → write = .next (s.count p 9 1) ∧ s.windowRead fn off width = 0) ∧
      ∀ e r, host = some (e, r) →
        (width ≠ cellWidth r.type ∨ off % width ≠ 0 ∨ r.size < off + width →
          write = .next (s.count p 9 1) ∧ s.windowRead fn off width = 0) ∧
        (width = cellWidth r.type → off % width = 0 → off + width ≤ r.size → tbGet (s.part p).regions e = some r →
          ∀ key, s.replicaKey p die (r.base + off) = some key → isForeign key = false →
            s.windowRead fn off width = s.readNat key width ∧
            ∃ s', write = .next s' ∧ Joined s s' p e (r.base + off) key die (value.toNat % 2 ^ (8 * width)) false))) ∧
  ∀ (s : State) die,
    (4 ≤ die ∨ (s.die die).fenced = true → exec (.dieFence die) s = .next s) ∧
    (die < 4 → (s.die die).fenced = false → ∃ s', exec (.dieFence die) s = .next s' ∧
      s'.die die = { Die.idle with fenced := true } ∧
      (∀ b < 128, s'.ready.getLsbD b =
        (s.ready.getLsbD b && !decide (b = die ∨ 4 + 8 * die ≤ b ∧ b < 12 + 8 * die ∨ 48 + 6 * die ≤ b ∧ b < 54 + 6 * die ∨ b = 72 + die))) ∧
      ∀ dl ∈ s'.deltas, dl.dest ≠ die)

/-- Owl's rounds and merges, the lattice window, the fencing of a die. -/
def Obligations.LatticeAndFenceEventResults : Prop := Claim.LatticeEventResults ∧ Claim.LatticeWindowAndDieFence

namespace Sys2Proof.Claim

open Sys2Proof.Machine

/-- Badger has one settlement of a partition to serve, of a page with this leaf, and no device-generated write waits. -/
structure Serves (s : State) (p : Nat) (x : Settle) (l : Leaf) : Prop where
  only : (s.part p).settles = [x]
  begun : x.seq = none
  walk : s.walk p x.va = .leaf l
  held : (s.part p).held = []
  small : x.va < 2 ^ 55
  first : x.va % l.size = 0

/-- The settlement is over: nothing is left to settle. -/
def Settled (s' : State) (p : Nat) : Prop := (s'.part p).settles = []

/-- A page has moved (R228): its entry is e, no TLB serves it any more, its bytes are at the new home, read from the old one, which can be
reached, but where the entry itself stands. -/
def Moved (s s' : State) (p die va : Nat) (l : Leaf) (old e : Nat) : Prop :=
  s'.readNat l.place 8 = e % 2 ^ 64 ∧ tlbsClear s' p va l.size ∧
    ∀ i < l.size, ∀ a b, s.leafKey p die old l.size (va + i) = some a → s.leafKey p die e l.size (va + i) = some b →
      s.lostPeer a = false → (b < l.place ∨ l.place + 8 ≤ b) → s'.byteAt b = s.byteAt a

/-- The counters of a partition that count an event have counted one more of it (R352). -/
def CountsOne (s s' : State) (p event : Nat) : Prop :=
  (s.part p).suspended = false → ∀ n c, tbGet (s.part p).counters n = some c → c.event = event → c.running = true →
    ∃ c', tbGet (s'.part p).counters n = some c' ∧ c'.value = (c.value + 1) % 2 ^ 64

/-- Each that waits for the page of a settlement meets its refusal (R359). -/
def Refused (s' : State) (p : Nat) (x : Settle) : Prop := Settled s' p ∧ ∀ a ∈ x.asks, (x.va, a.who) ∈ (s'.part p).refused

end Sys2Proof.Claim

/-- R128, R227 to R230, R359 and R360: Badger asks the host for a page of kind 7 and gives it the address of the answer, or refuses each
waiter; a remote page is set migrating and then moved into a frame; an eviction sets its page migrating once its destination is known, unless
it has been pinned meanwhile, and moves it to where it came from, or leaves it and is counted (event 0x0E). That the address of a fault reply
is taken down to a multiple of 65,536 is the model's reading (log entry 38). -/
def Obligations.PageEventResults : Prop :=
  (∀ (s : State) p x l, Serves s p x l →
    let f := s.fn (p + 1)
    let page := BitVec.ofNat 64 x.va
    let n := (s.part p).hostSeq
    let due := exec (.badgerSettle p page) s
    (∀ acc, x.why = .notPresent acc → pteKind l.entry = 7 →
      (∀ a, x.answer = some a → a ≠ 0 → a % 65536 = 0 → ∃ s', due = .next s' ∧ Settled s' p ∧
        s'.readNat l.place 8 = (5 * 2 ^ 60 + a + l.entry % 65536) % 2 ^ 64) ∧
      (x.answer = some 0 ∨ x.answer = none ∧ ¬(f.fqbase ≠ 0 ∧ 4 ≤ f.fqlog ∧ f.fqlog ≤ 12) → ∃ s', due = .next s' ∧ Refused s' p x) ∧
      (x.answer = none → f.fqbase ≠ 0 → 4 ≤ f.fqlog → f.fqlog ≤ 12 → s.slotFree p = true → (s.part p).hostLine = [] →
        ∃ s', due = .next s' ∧ (s'.part p).settles = [{ x with seq := some n }] ∧ (s'.part p).hostSeq = n + 1 ∧
          (s'.part p).hostEntries = (s.part p).hostEntries ++ [⟨n, x.va, acc, s.clk⟩] ∧
          (f.masked 1 = true →
            let base := keyHost (p + 1) ((f.fqbase + 32 * ((n - 1) % 2 ^ f.fqlog)) % 2 ^ 64)
            s'.readNat base 8 = x.va ∧ s'.readNat (base + 8) 8 = acc % 2 ^ 64 ∧ s'.readNat (base + 16) 8 = n % 2 ^ 64))) ∧
    (x.why = .migrate →
      (x.old = none → pteKind l.entry = 5 ∨ pteKind l.entry = 6 → natBit l.entry 11 = false →
        ∃ s', due = .next s' ∧ (s'.part p).settles = [{ x with old := some l.entry }] ∧
          s'.readNat l.place 8 = 8 * 2 ^ 60 + l.entry % 2 ^ 60 ∧ tlbsClear s' p x.va l.size) ∧
      (∀ old, x.old = some old → pteKind l.entry = 8 →
        (s.pageBusy p x.va l.size = true → due = .next s) ∧
        (s.pageBusy p x.va l.size = false → ∀ s1 u d, s.frameFor p x.die (l.size / 65536) = some (s1, u, d) →
          (s.takeSlices p (s.pageSlices p x.die x.va l.size old (s.header x.gang).prio)).2 = true →
          ∃ s', due = .next s' ∧ Settled s' p ∧ Moved s s' p x.die x.va l old (2 * 2 ^ 60 + u * 65536 + old % 65536) ∧
            tbGet (s'.part p).origins u = some (old - old % 65536))))) ∧
  (∀ (s : State) p v l target ok, (s.part p).evicts.find? (fun e => e.va == v.va) = some v → v.va < 2 ^ 55 → v.va % l.size = 0 →
    v.target = some target → s.walk p v.va = .leaf l → v.size = l.size →
    let due := exec (.evictionWritebackComplete p (BitVec.ofNat 64 v.va) ok) s
    let lost := pteKind target = 6 ∧ s.peerReachable (natBits target 55 48) = false
    (v.old = none → target ≠ 0 → pteKind l.entry = 2 →
      (natBit l.entry 11 = true → ∃ s', due = .next s' ∧ (∀ y ∈ (s'.part p).evicts, y.va ≠ v.va) ∧ s'.mem = s.mem) ∧
      (s.evictable p v.die [] (v.va, l) = true → ∃ s', due = .next s' ∧ { v with old := some l.entry } ∈ (s'.part p).evicts ∧
        s'.readNat l.place 8 = 8 * 2 ^ 60 + l.entry % 2 ^ 60 ∧ tlbsClear s' p v.va l.size)) ∧
    (∀ old, v.old = some old → pteKind l.entry = 8 → s.pageBusy p v.va v.size = true → due = .next s) ∧
    ∀ old, v.old = some old → pteKind l.entry = 8 → s.pageBusy p v.va v.size = false →
      let e := target - target % 65536 + old % 65536
      (ok = false ∨ lost →
        ∃ s', due = .next s' ∧ (∀ y ∈ (s'.part p).evicts, y.va ≠ v.va) ∧ s'.readNat l.place 8 = old % 2 ^ 64 ∧ CountsOne s s' p 0x0E) ∧
      (ok = true → ¬lost → pteKind target = 5 ∨ pteKind target = 6 →
        (s.takeSlices p (s.pageSlices p v.die v.va v.size e v.prio)).2 = true →
        ∃ s', due = .next s' ∧ (∀ y ∈ (s'.part p).evicts, y.va ≠ v.va) ∧ Moved s s' p v.die v.va l old e ∧
          ∀ f ∈ (s'.part p).frames, f.1 ≠ natBits old 43 16)) ∧
  (∀ (s : State) fn (va addr : Dword),
    let p := fn - 1
    let count := { s with errcount := (s.errcount + 1) % 2 ^ 64 }
    let entry := (s.part p).hostEntries.find? fun e => e.va == va.toNat
    let keyless := ((s.fn fn).tdisp = .locked ∨ (s.fn fn).tdisp = .run) ∧ (s.fn fn).ideKey = false
    (keyless → exec (.faultReply fn va addr) s = .next s) ∧
    (¬keyless → fn = 0 ∨ s.hasPart p = false ∨ entry = none → exec (.faultReply fn va addr) s = .next count) ∧
    (¬keyless → fn ≠ 0 → s.hasPart p = true → ∀ e, entry = some e →
      let a := addr.toNat - addr.toNat % 65536
      ∃ s', exec (.faultReply fn va addr) s = .next s' ∧
        ((s.part p).hostLine = [] →
          s'.mem = s.mem ∧ (s'.part p).hostEntries = (s.part p).hostEntries.filter (fun y => y.seq != e.seq)) ∧
        (∀ x ∈ (s.part p).settles, x.seq = some e.seq → { x with seq := none, answer := some a } ∈ (s'.part p).settles) ∧
        ∀ x ∈ (s.part p).evicts, x.seq = some e.seq →
          { x with seq := none, target := some (if a = 0 then 0 else 5 * 2 ^ 60 + a) } ∈ (s'.part p).evicts)) ∧
  (∀ (s : State) fn seq e, fn ≠ 0 → (s.part (fn - 1)).hostEntries.find? (fun y => y.seq == seq) = some e →
    let p := fn - 1
    (s.clk < e.since + 1050000000 → exec (.faultQueueTimeout fn seq) s = .next s) ∧
    (e.since + 1050000000 ≤ s.clk → ∃ s', exec (.faultQueueTimeout fn seq) s = .next s' ∧ s'.errcount = (s.errcount + 1) % 2 ^ 64 ∧
      ((s.part p).hostLine = [] → (s'.part p).hostEntries = (s.part p).hostEntries.filter (fun y => y.seq != seq)) ∧
      ∀ x ∈ (s.part p).settles, x.seq = some seq → { x with seq := none, answer := some 0 } ∈ (s'.part p).settles)) ∧
  ∀ (s : State) (w : WarpId) e x t, (s.warp w).log = [e] → e.i = .ld x → tbGet (s.warp w).lanes e.lane = some t → loner t →
    let p := w.wg.gang.part
    let tid : ThreadId := ⟨w, e.lane⟩
    ((∃ y ∈ (s.part p).settles, y.va = s.settleBase p e.va y.why) →
      ∃ s', exec (.operandLogReplay w) s = .next s' ∧ (s'.warp w).log = [e] ∧ s'.coreQ = s.coreQ ∧ s'.mem = s.mem) ∧
    ((∀ y ∈ (s.part p).settles, y.va ≠ s.settleBase p e.va y.why) → ∀ s1 key snap rec region,
      s.translate (s.who tid) .load e.va (2 ^ (x.modA.toNat % 8)) = (s1, .ok key snap rec region) →
      ∃ s' a, exec (.operandLogReplay w) s = .next s' ∧ (s'.warp w).log = [] ∧ s'.coreQ = s1.coreQ ++ [a] ∧ a.src = .thread tid ∧
        a.va = e.va ∧ a.key = key ∧ a.size = 2 ^ (x.modA.toNat % 8) ∧
        s'.thread tid = { t with pends := t.pends.map fun q => if q.committed = false ∧ q.pc = e.pc then { q with id := a.id } else q })

namespace Sys2Proof.Claim

open Sys2Proof.Machine

/-- A sector barrier after a completion subtracts sectors from it (R152). -/
def credited (o sectors : Nat) : Nat :=
  let phase := o % 16
  let left := o / 2 ^ 64 % 2 ^ 16
  let reload := o / 2 ^ 80 % 2 ^ 16
  let err := decide (o / 16 % 2 = 1)
  let sum := (((o / 2 ^ 32 % 2 ^ 32 : Nat) : Int) - sectors) % 2 ^ 32
  if left = 0 ∧ sum = 0 then barrier (phase + 1) err 0 reload reload else barrier phase err sum.toNat left reload

/-- The engines work for a gang: it runs, drains or retires (R264). -/
def Works (s : State) (g : GangId) : Prop :=
  (s.gang g).state = .running ∨ (s.gang g).state = .draining ∨ (s.gang g).state = .retiring

/-- A command's gang has the engines and nothing the command waits for is left (R148, R254). -/
def Ready (s : State) (core : Nat) (c : Cmd) : Prop :=
  Works s c.wg.gang ∧ (∀ a ∈ s.inFlight, a.id ∉ c.after) ∧ ∀ n ∈ c.behind, (s.core core).hasWork n = false

/-- The completion barrier of a command at bk, keyGone standing for none, takes its sectors where nothing else was written there. -/
def Credits (s s' : State) (bk sectors : Nat) : Prop :=
  bk ≠ keyGone → s.tagged bk = true → s'.readNat bk 16 = credited (s.readNat bk 16) sectors

/-- A lane of the workgroup has not ended, so its tiles stay its own. -/
def Lives (s : State) (w : WgId) : Prop := (s.warps.any fun v => v.1.wg == w && !v.2.ended) = true

/-- Two ranges do not meet. -/
def Apart (a n b m : Nat) : Prop := a + n ≤ b ∨ b + m ≤ a

/-- A queue after its commands of one number have changed. -/
def alter (q : List Cmd) (c : Cmd) (f : Cmd → Cmd) : List Cmd := q.map fun y => if y.id = c.id then f y else y

/-- The command that an event of a core's engines moves on, with its queue of R148: the head of the COPY queue, the first BULK whose walk
has tiles left, the MCRECV at its queue's head that has claimed a tile (R252, R258, R261). -/
inductive AtWork (s : State) (core : Nat) : Nat → Instr → Cmd → Prop where
  | copy (c : Cmd) (rest : List Cmd) (size : Nat) (lanes : List (Nat × Nat × Nat × Nat)) : (s.core core).copyQ = c :: rest →
      c.op = .copy size lanes → AtWork s core 0 (.copyComplete core) c
  | walk (c : Cmd) : (s.core core).bulkQ.find? Cmd.walking = some c → AtWork s core 1 (.walkTileComplete core) c
  | mcrecv (c : Cmd) (rest : List Cmd) (n sender channel id : Nat) (T : Tile) : (s.core core).mcastQ = c :: rest →
      c.op = .mcrecv n sender channel → tbGet (s.core core).tiles n = some T → c.claim = some id → c.done = false →
      (s.gang c.wg.gang).parked = [] → AtWork s core 2 (.mcrecvComplete core) c

/-- A command's lines can move now (R214, R228, R350): their homes are known, no earlier request for one of them stands on its path, the
slices of the remote ones have come; s1 is the state then. -/
structure CanMove (s : State) (core : Nat) (c : Cmd) (need : Need) (lines : List Nat) (s1 : State) (tab : LineTable) : Prop where
  homes : ∃ s0, s.lineHomes (cmdWho core c) need lines = (s0, .ok tab) ∧ s0.takeSlices c.wg.gang.part (s0.cmdSlices c tab) = (s1, true)
  free : ∀ e ∈ tab, s.lineBusy core c e.2 = false

/-- The home is the partition's own, at whole lines. -/
def AtHome (x : LineHome) : Prop := isForeign x.key = false ∧ x.key % 64 = 0

/-- The 64 bytes that an engine reads of line l: as its gang sees them on a snapshotted page (R324), of a peer that cannot be reached or
where the translation is gone the poison code (R365, Table 13-3), else those at the home. -/
def LineBytes (s : State) (g : GangId) (l : Nat) (h : Option LineHome) (bs : List PByte) : Prop :=
  bs.length = 64 ∧ (h = none → bs = List.replicate 64 ⟨0, true⟩) ∧
    ∀ x, h = some x → AtHome x →
      bs =
        if x.snap then (List.range 64).map fun j => s.viewByte g (64 * l + j) (x.key + j)
        else if s.lostPeer x.key then List.replicate 64 ⟨0, true⟩
        else s.readBytes x.key 64

/-- A byte once writes have come to it in order: a whole byte takes its place, half a byte takes one of its nibbles (R258). -/
def after (va : Nat) (old : Byte) : List LineItem → Byte
  | [] => old
  | (a, bs, half) :: rest =>
    let v := ((bs.map PByte.v).getD (va - a) 0)
    let now :=
      if a ≤ va ∧ va < a + bs.length then
        (match half with
         | none => v
         | some true => BitVec.ofNat 8 (old.toNat % 16 + 16 * v.toNat)
         | some false => BitVec.ofNat 8 (old.toNat / 16 * 16 + v.toNat))
      else old
    after va now rest

/-- Writes of one line, each within it; a write of half a byte is one of a nibble. -/
def WithinLine (l : Nat) (run : List LineItem) : Prop :=
  run ≠ [] ∧ ∀ m ∈ run, m.1 / 64 = l ∧ m.1 % 64 + m.2.1.length ≤ 64 ∧ m.2.1 ≠ [] ∧
    (m.2.2 ≠ none → m.2.1.length = 1 ∧ ∀ b ∈ m.2.1, b.v.toNat < 16)

/-- exec answers a next state in which the command has changed so and stands where it stood. -/
def Goes (s : State) (core k : Nat) (ev : Instr) (c : Cmd) (f : Cmd → Cmd) (holds : State → Prop) : Prop :=
  ∃ s', exec ev s = .next s' ∧ (s'.core core).queue k = alter ((s.core core).queue k) c f ∧ holds s'

/-- A gang's own parked tile for a member, from a sender on a channel, that no MCRECV has claimed (R164). -/
def forMe (c : Cmd) (sender channel : Nat) (p : Machine.Parked) : Prop :=
  p.gang = c.wg.gang ∧ p.sender = sender ∧ p.channel = channel ∧ p.mask.testBit c.wg.member = true ∧ c.wg.member ∉ p.claimed ∧
    c.wg.member ∉ p.drained

/-- The first byte and the bytes of walk tile k of an image (R258). -/
def tileLo (k : Nat) : Nat := 4096 * k
def tileLen (image k : Nat) : Nat := min 4096 (image - 4096 * k)

end Sys2Proof.Claim

/-- R161, R164, R214, R254, R256, R258, R324, R350, R365, Table 13-3: a command moves one line a firing: once it may go on, it reads its
next line; once it has read all, it writes the lines of its list, each whole. A line whose home an earlier request may still reach waits. One
line a firing is the model's reading (log entry 24), and so is what a gang's engines see of a snapshotted page (35). -/
def Sys2Proof.Claim.EngineTransferResults : Prop :=
  ∀ (s : State) core k ev c, AtWork s core k ev c →
    (s.cmdReady core c = false → exec ev s = .next s) ∧
    (Ready s core c → c.moving = false → ∀ l, (s.readsOf core c).find? (fun l => (tbGet c.got l).isNone) = some l →
      (∀ s0 h, s.lineHomes (cmdWho core c) .engineRead [l] = (s0, .ok [(l, h)]) → s.lineBusy core c h = true → exec ev s = .next s) ∧
      ∀ s1 h, CanMove s core c .engineRead [l] s1 [(l, h)] →
        ∃ bs, LineBytes s1 c.wg.gang l h bs ∧ Goes s core k ev c (fun y => { y with got := y.got ++ [(l, bs)] }) fun s' => s'.mem = s1.mem) ∧
    (Ready s core c → c.moving = true → ∀ l run later, c.todo = run ++ later → WithinLine l run → (∀ m ∈ later.head?, m.1 / 64 ≠ l) →
      ∀ s1 h, CanMove s core c .engineWrite [l] s1 [(l, h)] →
        (h = none → Goes s core k ev c (fun y => { y with todo := later }) fun s' => s'.mem = s1.mem) ∧
        ∀ x, h = some x → AtHome x →
          (x.snap = true → Goes s core k ev c (fun y => { y with todo := later }) fun s' => s'.mem = s1.mem ∧
            ∀ j < 64, (s'.viewByte c.wg.gang (64 * l + j) (x.key + j)).v =
              after (64 * l + j) (s1.viewByte c.wg.gang (64 * l + j) (x.key + j)).v run) ∧
          (x.snap = false → s1.lostPeer x.key = false → (boundOff x.key = true → ∀ m ∈ run, anyPoison m.2.1 = false) →
            Goes s core k ev c (fun y => { y with todo := later }) fun s' =>
              (∀ j < 64, s'.byteAt (x.key + j) = after (64 * l + j) (s1.byteAt (x.key + j)) run) ∧
              ∀ a, a < x.key ∨ x.key + 64 ≤ a → s'.byteAt a = s1.byteAt a) ∧
          (x.snap = false → boundOff x.key = true → ∀ m, run = [m] → m.2.2 = none → anyPoison m.2.1 = true →
            exec ev s = .next (s1.gangFault c.wg.gang 0x1B { addr := m.1, core := core })))

/-- R161, R162, R163, R256 to R258: what a command lists to be written, once all it reads is there: a COPY each lane's bytes at its
destination, a higher lane's where homes meet; a walk tile of BULK.in the bytes of its image, 0 to 15 for a nibble past the last element; one of
BULK.out the bytes and nibbles of elements within the bounds and nothing of the others, its tile EMPTY after the last. -/
def Sys2Proof.Claim.EngineListResults : Prop :=
  ∀ (s : State) core k ev c, AtWork s core k ev c → Ready s core c → c.moving = false →
    (∀ l ∈ s.readsOf core c, (tbGet c.got l).isSome = true) →
    (∀ size lanes, c.op = .copy size lanes → size ∣ 64 → (∀ m ∈ lanes, m.1 % size = 0) → ∀ s1 tab,
      s.lineHomes { cmdWho core c with counts := false } .engineWrite (linesOf (lanes.map Prod.fst)) = (s1, .ok tab) →
      let home := fun (m : Nat × Nat × Nat × Nat) => (lineAt tab m.1).map fun h => h.key + m.1 % 64
      ∃ todo, Goes s core k ev c (fun y => { y with moving := true, got := [], todo := todo }) (fun s' => s'.mem = s1.mem) ∧
        (∀ pre m post, lanes = pre ++ m :: post → (∃ a, home m = some a) →
          (∀ n ∈ post, ∀ a b, home m = some a → home n = some b → Apart a size b size) →
          ∀ j < size, ∀ old, after (m.1 + j) old todo = (c.gotByte (m.2.1 + j)).v) ∧
        ∀ a, (∀ m ∈ lanes, a < m.1 ∨ m.1 + size ≤ a) → ∀ old, after a old todo = old) ∧
    ∀ n r coord out T, c.op.walk = some (n, r, coord, out) → tbGet (s.core core).tiles n = some T → T.va % 64 = 0 →
      let lo := tileLo c.walked
      let len := tileLen r.imageBytes c.walked
      ∃ pad todo, Goes s core k ev c (fun y => { y with moving := true, got := [], todo := todo }) (fun s' =>
          s'.mem = s.mem ∧ (out = true → r.imageBytes ≤ lo + 4096 → tbGet (s'.core core).tiles n = some { T with state := .empty })) ∧
        (out = false →
          (∀ j < len, ∀ old,
            (∀ v, r.imgByte coord pad (lo + j) = .fill v → after (T.va + lo + j) old todo = BitVec.ofNat 8 v) ∧
            (∀ va, r.imgByte coord pad (lo + j) = .mem va → after (T.va + lo + j) old todo = (c.gotByte va).v) ∧
            ∀ a u b w, r.imgByte coord pad (lo + j) = .halves (.mem a u) (.mem b w) →
              let nibble := fun (v : Byte) (high : Bool) => if high then v.toNat / 16 else v.toNat % 16
              after (T.va + lo + j) old todo = BitVec.ofNat 8 (nibble (c.gotByte a).v u + 16 * nibble (c.gotByte b).v w)) ∧
          ∀ a, a < T.va + lo ∨ T.va + lo + len ≤ a → ∀ old, after a old todo = old) ∧
        (out = true →
          (∀ j < len, ∀ old,
            (∀ va, r.imgByte coord pad (lo + j) = .mem va → (∀ i < len, i ≠ j → va ∉ (r.imgByte coord pad (lo + i)).vas) →
              after va old todo = (c.gotByte (T.va + lo + j)).v) ∧
            (∀ va, r.imgByte coord pad (lo + j) = .halves (.mem va false) (.mem va true) →
              (∀ i < len, i ≠ j → va ∉ (r.imgByte coord pad (lo + i)).vas) → after va old todo = (c.gotByte (T.va + lo + j)).v) ∧
            ∀ va high v, r.imgByte coord pad (lo + j) = .halves (.mem va high) (.fill v) →
              (∀ i < len, i ≠ j → va ∉ (r.imgByte coord pad (lo + i)).vas) →
              let low := (c.gotByte (T.va + lo + j)).v.toNat % 16
              after va old todo = BitVec.ofNat 8 (if high then old.toNat % 16 + 16 * low else old.toNat / 16 * 16 + low)) ∧
          ∀ a, (∀ i < len, a ∉ (r.imgByte coord pad (lo + i)).vas) → ∀ old, after a old todo = old)

/-- R148, R158, R161, R163, R164, R252 to R264: how the engines' commands end: a COPY whose list is written takes its sectors and leaves its
queue; a walk tile counts; a BULK whose walk is over, an MCAST with room, an MCRECV with its tile copied: the tile's state, the holding
buffer, the sectors of the barrier, the end of the queue entry. That MCAST reads its whole tile as it parks is the model's reading (log entry
24). -/
def Sys2Proof.Claim.EngineEventResults : Prop :=
  (∀ (s : State) core c rest size lanes, (s.core core).copyQ = c :: rest → c.op = .copy size lanes → Ready s core c → c.moving = true →
    c.todo = [] → ∃ s', exec (.copyComplete core) s = .next s' ∧ (s'.core core).copyQ = (c :: rest).filter (fun y => y.id != c.id) ∧
      ∀ bk ∈ lanes.map (fun m => m.2.2.2), (∀ o ∈ lanes.map (fun m => m.2.2.2), o ≠ bk → Apart bk 16 o 16) →
        Credits s s' bk ((size * (lanes.filter fun m => m.2.2.2 == bk).length + 31) / 32)) ∧
  (∀ (s : State) core c n r coord out T, AtWork s core 1 (.walkTileComplete core) c → Ready s core c → c.moving = true → c.todo = [] →
    c.op.walk = some (n, r, coord, out) → tbGet (s.core core).tiles n = some T →
    let last := decide (r.imageBytes ≤ tileLo (c.walked + 1))
    Goes s core 1 (.walkTileComplete core) c
      (fun y => { y with walked := y.walked + 1, moving := false, todo := [], done := decide (r.imageBytes ≤ tileLo (y.walked + 1)) })
      fun s' => s'.mem = s.mem ∧
        tbGet (s'.core core).tiles n = some (if out && last then T else { T with progress := c.walked + 1 })) ∧
  (∀ (s : State) core c rest n r coord out T, (s.core core).bulkQ = c :: rest → c.op.walk = some (n, r, coord, out) →
    tbGet (s.core core).tiles n = some T →
    let step := exec (.bulkComplete core) s
    (c.done = false → step = .next s) ∧
    (c.done = true → Works s c.wg.gang → ∃ s', step = .next s' ∧
      (s'.core core).bulkQ = (c :: rest).filter (fun y => y.id != c.id) ∧ Credits s s' c.barKey ((r.imageBytes + 31) / 32) ∧
      (Lives s c.wg → tbGet (s'.core core).tiles n = some { T with state := if out then T.state else .ready }))) ∧
  (∀ (s : State) core c rest n mask channel T, (s.core core).mcastQ = c :: rest → c.op = .mcast n mask channel →
    tbGet (s.core core).tiles n = some T → T.va % 64 = 0 → T.size % 64 = 0 → s.reparkers core = [] →
    let step := exec (.mcastParked core) s
    let die := s.die (core / 64)
    let room := (die.holding.filter fun p => p.gang == c.wg.gang).length < 16 ∧ die.holding.length < 64 ∧
      ((die.holding.map fun p => (p.bytes.length + 16383) / 16384 * 16384).foldr (· + ·) 0) + (T.size + 16383) / 16384 * 16384 ≤ 1048576
    (¬room ∨ s.cmdReady core c = false → step = .next s) ∧
    (room → Ready s core c → (s.gang c.wg.gang).parked = [] → s.mcastAhead core c = false → ∀ s1 tab,
      CanMove s core c .engineRead (linesIn T.va T.size) s1 tab → ∃ s' bs, step = .next s' ∧ bs.length = T.size ∧
        (∀ i < T.size / 64, ∀ h, tbGet tab (T.va / 64 + i) = some h →
          LineBytes s1 c.wg.gang (T.va / 64 + i) h ((bs.drop (64 * i)).take 64)) ∧
        (s'.die (core / 64)).holding = die.holding ++ [⟨c.id, c.wg.gang, c.wg.member, channel, mask, [], [], bs⟩] ∧
        (s'.core core).mcastQ.map Cmd.id = (rest.filter fun y => y.id != c.id).map Cmd.id ∧
        Credits s s' c.barKey ((T.size + 31) / 32) ∧
        (Lives s c.wg → tbGet (s'.core core).tiles n = some { T with state := .empty }))) ∧
  ∀ (s : State) core c rest n sender channel T, (s.core core).mcastQ = c :: rest → c.op = .mcrecv n sender channel →
    tbGet (s.core core).tiles n = some T → Ready s core c → (s.gang c.wg.gang).parked = [] →
    let step := exec (.mcrecvComplete core) s
    let die := s.die (core / 64)
    (c.claim = none → (∀ p ∈ die.holding, ¬forMe c sender channel p) → step = .next s) ∧
    (c.claim = none → ∀ pre p post t w u, die.holding = pre ++ p :: post → (∀ q ∈ pre, ¬forMe c sender channel q) →
      forMe c sender channel p → (∀ q ∈ pre ++ post, q.id ≠ p.id) → c.srcs.head? = some t → p.bytes.length ≤ T.size →
      tbGet (s.warp t.warp).lanes t.lane = some u → u.wait = .mcrecv c.id w →
      ∃ s', step = .next s' ∧ s'.thread t = { u with wait := .ready, pc := w } ∧ s'.mem = s.mem ∧
        (s'.core core).mcastQ = alter (c :: rest) c (fun y => { y with claim := some p.id, bytes := p.bytes }) ∧
        (s'.die (core / 64)).holding = pre ++ { p with claimed := nsInsert p.claimed c.wg.member } :: post) ∧
    (∀ id, c.claim = some id → c.done = true → ∃ s', step = .next s' ∧
      (s'.core core).mcastQ.map Cmd.id = (rest.filter fun y => y.id != c.id).map Cmd.id ∧
      Credits s s' c.barKey ((c.bytes.length + 31) / 32) ∧
      (Lives s c.wg → tbGet (s'.core core).tiles n = some { T with state := .ready }) ∧
      ∀ p ∈ die.holding,
        (p.id ≠ id → p ∈ (s'.die (core / 64)).holding) ∧
        (p.id = id → (∃ m < 16, p.mask.testBit m = true ∧ m ≠ c.wg.member ∧ m ∉ p.drained) →
          { p with drained := nsInsert p.drained c.wg.member } ∈ (s'.die (core / 64)).holding) ∧
        (p.id = id → (∀ m < 16, p.mask.testBit m = true → m = c.wg.member ∨ m ∈ p.drained) →
          (∀ q ∈ die.holding, q.id = id → q = p) → ∀ q ∈ (s'.die (core / 64)).holding, q.id ≠ id)) ∧
    (∀ id, c.claim = some id → c.done = false → c.moving = true → c.todo = [] →
      Goes s core 2 (.mcrecvComplete core) c
        (fun y => { y with walked := y.walked + 1, moving := false, todo := [], done := decide (c.bytes.length ≤ tileLo (y.walked + 1)) })
        fun s' => tbGet (s'.core core).tiles n = some { T with progress := c.walked + 1 }) ∧
    ∀ id, c.claim = some id → c.done = false → c.moving = false → T.va % 64 = 0 → ∃ todo,
      Goes s core 2 (.mcrecvComplete core) c (fun y => { y with moving := true, got := [], todo := todo }) (fun s' => s'.mem = s.mem) ∧
      let lo := tileLo c.walked
      (∀ j < tileLen c.bytes.length c.walked, ∀ old, after (T.va + lo + j) old todo = (c.bytes.map PByte.v).getD (lo + j) 0) ∧
      ∀ a, a < T.va + lo ∨ T.va + lo + tileLen c.bytes.length c.walked ≤ a → ∀ old, after a old todo = old

namespace Sys2Proof.Claim

open Sys2Proof.Machine

/-- The number of a finite value. -/
def real (v : FVal) : ℝ :=
  match v with
  | .fin n m e => (number n m e : ℝ)
  | _ => 0

/-- The sign of a value. -/
def minusOf (v : FVal) : Bool :=
  match v with
  | .fin n _ _ => n
  | .inf n => n
  | .nan _ => false

/-- The value of a group of products in binary32 (R74, R75): CanonNaN for a NaN element, a product of 0 and an infinity, or infinities of
both signs; else the infinity among the products; else their exact sum rounded once, -0 only where every product is. -/
def GroupValue (g : Nat) (a b : Nat → FVal) (r : Nat) : Prop :=
  let zero := fun (v : FVal) => ∃ n e, v = .fin n 0 e
  let inf := fun (v : FVal) => ∃ n, v = .inf n
  let bad := ∃ k < g, (a k).isNaN = true ∨ (b k).isNaN = true ∨ (zero (a k) ∧ inf (b k)) ∨ (inf (a k) ∧ zero (b k))
  let infs := fun (n : Bool) => ∃ k < g, (inf (a k) ∨ inf (b k)) ∧ (minusOf (a k) != minusOf (b k)) = n
  (bad ∨ infs true ∧ infs false → r = 0x7FC00000) ∧
  (∀ n, ¬bad → infs n → ¬infs (!n) → r = if n then 0xFF800000 else 0x7F800000) ∧
  (¬bad → ¬infs true → ¬infs false → ∃ fl,
    Delivers f32 .rne false (∑ k ∈ Finset.range g, real (a k) * real (b k))
      (decide (∀ k < g, (minusOf (a k) != minusOf (b k)) = true)) ⟨r, fl⟩)

/-- An element of a float accumulator after a round (R74): group after group in ascending K; of F64 each product is added with one
rounding, of the other formats each group's value is added. -/
def FloatElement (f groups : Nat) (a b : Nat → FVal) (old new : Nat) : Prop :=
  ∃ acc : Nat → Nat, acc 0 = old ∧ acc groups = new ∧ ∀ i < groups,
    (f = 7 → (a i).isNaN = true ∨ (b i).isNaN = true → acc (i + 1) = 0x7FF8000000000000) ∧
    (f = 7 → (∃ n m e, a i = .fin n m e) → (∃ n m e, b i = .fin n m e) → finite f64 (acc i) → ∃ fl,
      Delivers f64 .rne false (real (a i) * real (b i) + (standsFor f64 (acc i) : ℝ))
        ((minusOf (a i) != minusOf (b i)) && (acc i).testBit 63) ⟨acc (i + 1), fl⟩) ∧
    (f ≠ 7 → ∃ r, GroupValue (if f = 6 then 8 else 32) (fun k => a (i * (if f = 6 then 8 else 32) + k))
      (fun k => b (i * (if f = 6 then 8 else 32) + k)) r ∧ FloatSum f32 (acc i) r (acc (i + 1)))

end Sys2Proof.Claim

/-- R74 to R76, R168, R181, R182, R265: the head of the matrix FIFO reads its operand slots once what it waits for is gone; when it
completes, an entry of an integer format adds to each element of its accumulator the sum of the products along K, modulo 2^32; one of a float
or block format adds the groups of products, each rounded once; under .nz the NaN elements read are counted; its barrier takes its
sectors and its place is free; the results of a gang that has ended are dropped. -/
def Sys2Proof.Claim.MatrixEventResults : Prop :=
  (∀ (s : State) core e rest, (s.core core).matQ = e :: rest →
    let c := s.core core
    let read := { e with started := true, a := tbGet c.slots (e.op.sword.toNat % 32), b := tbGet c.slots (e.op.sword.toNat / 256 % 32) }
    (e.started = true ∨ (∃ n ∈ e.behind, c.hasWork n = true) → exec (.matrixEntryStart core) s = .next s) ∧
    (e.started = false → (∀ n ∈ e.behind, c.hasWork n = false) →
      exec (.matrixEntryStart core) s = .next (s.setCore core { c with matQ := read :: rest }))) ∧
  ∀ (s : State) core e rest, (s.core core).matQ = e :: rest →
    let f := e.op.fword.toNat % 16
    let n := e.op.sword.toNat / 2 ^ 16 % 8
    (e.started = false → exec (.matrixEntryComplete core) s = .next s) ∧
    (e.started = true → e.dropped = true → ∃ s', exec (.matrixEntryComplete core) s = .next s' ∧ (s'.core core).matQ = rest ∧
      s'.mem = s.mem) ∧
    (∀ a b v, e.started = true → e.dropped = false → e.a = some a → e.b = some b → tbGet (s.core core).accs n = some v → f ≤ 1 →
      e.op.fword.toNat / 256 % 16 = 0 → e.op.fword.getLsbD 14 = false → e.wg.member < 16 → Lives s e.wg →
      ∃ s' v', exec (.matrixEntryComplete core) s = .next s' ∧ (s'.core core).matQ = rest ∧ tbGet (s'.core core).accs n = some v' ∧
        v'.owner = v.owner ∧ v'.nanc = v.nanc ∧
        (∀ i < 64, ∀ j < 64,
          ((smGet (0 : Word) v'.words (i * 64 + j)).toNat : Int) =
            ((smGet (0 : Word) v.words (i * 64 + j)).toNat +
              ∑ k ∈ Finset.range (if f = 0 then 64 else 128),
                a.int f (e.op.fword.getLsbD 12) i k * b.int f (e.op.fword.getLsbD 13) j k) % 2 ^ 32) ∧
        Credits s s' e.op.barKey 512) ∧
    ∀ a b v, e.started = true → e.dropped = false → e.a = some a → e.b = some b → tbGet (s.core core).accs n = some v → 2 ≤ f → f ≤ 7 →
      e.op.fword.toNat / 256 % 16 = (if f = 7 then 2 else 1) → e.wg.member < 16 → Lives s e.wg →
      let rows := if f ≤ 5 then 64 else if f = 6 then 32 else 16
      let len := if f = 2 then 64 else if f = 3 then 128 else 32
      let nz := e.op.fword.getLsbD 14
      let ta := e.op.fword.getLsbD 12
      let tb := e.op.fword.getLsbD 13
      let nans := fun (o : OpSlot) (u : Bool) =>
        ((Finset.range rows ×ˢ Finset.range len).filter fun c => (o.value f u false c.1 c.2).isNaN = true).card
      let poisoned := fun (o : OpSlot) (u : Bool) (r : Nat) => ∃ k < len, (if u then k * rows + r else r * len + k) ∈ o.poison
      ∃ s' v', exec (.matrixEntryComplete core) s = .next s' ∧ (s'.core core).matQ = rest ∧ tbGet (s'.core core).accs n = some v' ∧
        v'.owner = v.owner ∧
        v'.nanc = (if nz then min 0xFFFFFFFF (v.nanc + nans a ta + nans b tb) else v.nanc) ∧
        (∀ i < rows, ∀ j < rows,
          let u := if f = 7 then i * 16 + j else i * 64 + j
          let old := v.unit (if f = 7 then 2 else 1) u
          let new := v'.unit (if f = 7 then 2 else 1) u
          FloatElement f (if f = 7 then 32 else if f = 6 then 4 else len / 32) (fun k => a.value f ta nz i k) (fun k => b.value f tb nz j k)
            old.v new.v ∧
          (new.p = true ↔ old.p = true ∨ poisoned a ta i ∨ poisoned b tb j)) ∧
        Credits s s' e.op.barKey (if f = 7 then 64 else 512)

/-- The events of the engine queues and of the matrix FIFO. -/
def Obligations.EngineAndMatrixEventResults : Prop := Claim.EngineTransferResults ∧ Claim.EngineListResults ∧ Claim.EngineEventResults ∧ Claim.MatrixEventResults

namespace Sys2Proof.Claim

open Sys2Proof.Machine

/-- A record is performed with a status after the state s1 (R342): the function's next record is expected, and, where its vector 0 is masked
so that no message is sent, the status stands in the record and the vector is pending; nothing else of the device changes. -/
def Done (s1 s' : State) (fn status : Nat) : Prop :=
  s'.servedFn = fn ∧ (s'.fn fn).expected = (s1.fn fn).expected + 1 ∧ s'.parts = s1.parts ∧ s'.gangs = s1.gangs ∧ s'.wgs = s1.wgs ∧
    s'.warps = s1.warps ∧ s'.dies = s1.dies ∧ s'.keyNo = s1.keyNo ∧ (∀ k, isRemote k = false → s'.byteAt k = s1.byteAt k) ∧
    (∀ f, f ≠ fn → s'.fn f = s1.fn f) ∧
    ((s1.fn fn).masked 0 = true →
      s'.readNat (keyHost fn (((s1.fn fn).ringAt + 12) % 2 ^ 64)) 4 = status ∧ (s'.fn fn).pba.testBit 0 = true)

/-- It is the function's turn, and its next record is r, in sequence, of an op and with no reserved field set. -/
structure Rings (s : State) (fn op : Nat) (fields : List (Nat × Nat)) (r : CmdRec) : Prop where
  turn : s.fnTurn fn = true
  next : s.nextCmd fn = r
  seq : r.seq = (s.fn fn).expected
  op : r.op = op
  rest : r.restZero fields = true
  reserved : r.reserved = 0
  part : fn ≠ 0 → r.part = 0

/-- What every command of Table 17-2 does with a record (R342, R343): nothing out of its turn or for another op, status 4 for a record out
of sequence, of no op or with a reserved field set, status 7 for a physical-only op of a virtual function. -/
def Ladder (i : Nat → Instr) (op : Nat) (physical : Bool) (fields : List (Nat × Nat)) : Prop :=
  ∀ (s : State) fn,
    let r := s.nextCmd fn
    let bad := r.seq ≠ (s.fn fn).expected ∨ r.op = 0 ∨ 7 < r.op
    let ends := fun n => ∃ s', exec (i fn) s = .next s' ∧ Done s s' fn n
    (s.fnTurn fn = false → exec (i fn) s = .next s) ∧
    (s.fnTurn fn = true → bad → ends 4) ∧
    (s.fnTurn fn = true → ¬bad → r.op ≠ op → exec (i fn) s = .next s) ∧
    (s.fnTurn fn = true → ¬bad → r.op = op → physical = true → fn ≠ 0 → ends 7) ∧
    (s.fnTurn fn = true → ¬bad → r.op = op → ¬(physical = true ∧ fn ≠ 0) →
      r.restZero fields = false ∨ r.reserved ≠ 0 ∨ fn ≠ 0 ∧ r.part ≠ 0 → ends 4)

end Sys2Proof.Claim

/-- R342 and R343: how the records of the seven commands are taken, and that a join into a command cell keeps the larger value. -/
def Sys2Proof.Claim.CommandRecords : Prop :=
  Ladder .create 1 true [(0x10, 48)] ∧ Ladder .destroy 2 true [] ∧ Ladder .setreg 3 false [(0x10, 8), (0x18, 16)] ∧
  Ladder .getreg 4 false [(0x10, 8)] ∧ Ladder .suspend 5 true [] ∧ Ladder .resume 6 true [] ∧ Ladder .fencedie 7 true [(0x10, 8)] ∧
  ∀ (s : State) fn (v : Dword),
    exec (.commandCellWrite fn v) s = .next
      (if (fn = 0 ∨ s.hasPart (fn - 1) = true) ∧ ¬(((s.fn fn).tdisp = .locked ∨ (s.fn fn).tdisp = .run) ∧ (s.fn fn).ideKey = false) ∧
          (s.fn fn).tdisp ≠ .error then
        s.setFn fn { s.fn fn with cmdcell := max (s.fn fn).cmdcell v.toNat }
      else s)

/-- R344 to R347, R317, R354: the statuses and the effects of CREATE, DESTROY, SETREG, GETREG, SUSPEND, RESUME and FENCEDIE. Parts of it are
the model's choice: CREATE's argument ranges, an image of length 0 and the function's reset (log entry 44), the two firings of SUSPEND (57),
the registers GETREG and SETREG know (70). -/
def Sys2Proof.Claim.CommandResults : Prop :=
  (∀ (s : State) r, Rings s 0 1 [(0x10, 48)] r →
    let p := r.part
    let c : Claim := ⟨r.arg 0x10 4, r.arg 0x14 2, r.arg 0x18 8⟩
    let mode := r.arg 0x16 2
    let ilen := r.arg 0x28 8
    let h := headerOf (s.hostRead 0 (r.arg 0x20 8) 64)
    let ends := fun n => ∃ s', exec (.create 0) s = .next s' ∧ Done s s' 0 n
    let wrong := 16 ≤ p ∨ c.rows = 0 ∨ c.ports = 0 ∨ 3 < mode ∨ 2 ^ 48 ≤ c.ports ∨ (s.poolz ≠ 0 ∧ 2 ^ s.poolz ≤ c.pool) ∨ ilen = 0 ∨
      ilen % 65536 ≠ 0 ∨ 268435456 < ilen
    (s.hasPart p = true → ends 3) ∧
    (s.hasPart p = false → 16 ≤ s.parts.length → ends 8) ∧
    (s.hasPart p = false → s.parts.length < 16 →
      (wrong → ends 4) ∧
      (¬wrong →
        (s.claimReady c = false → ends 2) ∧
        (s.claimReady c = true → s.claimTaken c = true → ends 3) ∧
        (s.claimReady c = true → s.claimTaken c = false →
          (h.rootOk s.sliceLimit = false → ends 6) ∧
          (h.rootOk s.sliceLimit = true → ∃ s1 s', exec (.create 0) s = .next s' ∧ Done s1 s' 0 1 ∧
            s'.hasPart p = true ∧ s'.keyNo = s.keyNo + 1 ∧ s'.keySlot p = some (natBytes 64 (Config.deriveKey Config.rootKey p (s.keyNo + 1))) ∧
            (∀ n < 48, natBit c.ports n = true → tbGet s'.keyed n = some (p, s.keyNo + 1)) ∧
            (let q := s'.part p
             q.mode = mode ∧ q.rows = c.rows ∧ q.ports = c.ports ∧ q.pool = c.pool ∧ q.image = ilen ∧ q.keyNo = s.keyNo + 1 ∧
               q.nonce = r.arg 0x30 16 ∧ q.suspended = false) ∧
            s'.fn (p + 1) = Fn.reset ∧ (s'.gang (rootGang p)).state = .running ∧ (s'.gang (rootGang p)).topCore = rootCore c.rows ∧
            (∀ l < 32, let t := s'.thread ⟨⟨⟨rootGang p, 0⟩, 0⟩, l⟩
              t.pc = BitVec.ofNat 64 h.entry ∧ t.regs = [] ∧ t.wait = .ready ∧ t.inHandler = false) ∧
            ∀ core < 256, natBit c.rows (core / 8) = true → ∀ off < s.sliceLimit, s'.byteAt (keySram core off) = 0))))) ∧
  (∀ (s : State) r, Rings s 0 2 [] r →
    let p := r.part
    (s.hasPart p = false → ∃ s', exec (.destroy 0) s = .next s' ∧ Done s s' 0 5) ∧
    (s.hasPart p = true → ∃ s1 s', exec (.destroy 0) s = .next s' ∧ Done s1 s' 0 1 ∧ s'.hasPart p = false ∧ s'.keySlot p = none ∧
      s'.fn (p + 1) = Fn.reset ∧
      (∀ w ∈ s'.warps, w.1.wg.gang.part ≠ p) ∧ (∀ w ∈ s'.wgs, w.1.gang.part ≠ p) ∧ (∀ g ∈ s'.gangs, g.1.part ≠ p) ∧
      ∀ core < 256, natBit (s.part p).rows (core / 8) = true → ∀ off < s.sliceLimit, s'.byteAt (keySram core off) = 0)) ∧
  (∀ (s : State) fn r, Rings s fn 3 [(0x10, 8), (0x18, 16)] r →
    let p := if fn = 0 then r.part else fn - 1
    let n := r.arg 0x10 8
    let v := r.arg 0x18 16
    let ends := fun k => ∃ s', exec (.setreg fn) s = .next s' ∧ Done s s' fn k
    (partReg n = none → ends 4) ∧
    ∀ w setBy readBy, partReg n = some (w, setBy, readBy) →
      (s.hasPart p = false → ends 5) ∧
      (s.hasPart p = true → setBy.testBit (if fn = 0 then 0 else 1) = false → ends 7) ∧
      (s.hasPart p = true → setBy.testBit (if fn = 0 then 0 else 1) = true →
        let q := { s.part p with regs := smSet 0 (s.part p).regs n v }
        let fits := regValueOk n v = true ∧ (0x10 ≤ n → n ≤ 0x3F → natBit (s.part p).ports (n - 0x10) = false → v = 0) ∧ q.floorsOk = true
        (¬fits → ends 4) ∧
        (fits → ¬((s.part p).mode = 2 ∧ (n = 6 ∨ n = 7)) → ∃ s', exec (.setreg fn) s = .next s' ∧ Done (s.setPart p q) s' fn 1))) ∧
  (∀ (s : State) fn r, Rings s fn 4 [(0x10, 8)] r →
    let p := if fn = 0 then r.part else fn - 1
    let n := r.arg 0x10 8
    let ends := fun k => ∃ s', exec (.getreg fn) s = .next s' ∧ Done s s' fn k
    (partReg n = none → ends 4) ∧
    ∀ w setBy readBy, partReg n = some (w, setBy, readBy) →
      (s.hasPart p = false → ends 5) ∧
      (s.hasPart p = true → readBy.testBit (if fn = 0 then 0 else 1) = false → ends 7) ∧
      (s.hasPart p = true → readBy.testBit (if fn = 0 then 0 else 1) = true → ∃ s', exec (.getreg fn) s = .next s' ∧ Done s s' fn 1 ∧
        ((s.fn fn).masked 0 = true →
          s'.readNat (keyHost fn (((s.fn fn).ringAt + 0x18) % 2 ^ 64)) 16 = smGet 0 (s.part p).regs n % 2 ^ 128))) ∧
  (∀ (s : State) r, Rings s 0 5 [] r →
    let p := r.part
    let saving : State := { s with gangs := s.gangs.map fun g =>
      (g.1, if g.1.part = p ∧ g.2.state = .running ∧ (s.launch p g.1.launch).ending.isNone = true then { g.2 with state := .saving } else g.2) }
    let resident := ∃ g ∈ s.gangs, g.1.part = p ∧ g.2.state.resident = true
    (s.hasPart p = false → ∃ s', exec (.suspend 0) s = .next s' ∧ Done s s' 0 5) ∧
    (s.hasPart p = true → (s.part p).suspended = true → ∃ s', exec (.suspend 0) s = .next s' ∧ Done s s' 0 1) ∧
    (s.hasPart p = true → (s.part p).suspended = false →
      (resident → exec (.suspend 0) s = .next (saving.setPart p { s.part p with suspending := true })) ∧
      (¬resident → ∃ s1 s', exec (.suspend 0) s = .next s' ∧ Done s1 s' 0 1 ∧
        s'.part p = { s.part p with suspending := false, suspended := true }))) ∧
  (∀ (s : State) r, Rings s 0 6 [] r →
    (s.hasPart r.part = false → ∃ s', exec (.resume 0) s = .next s' ∧ Done s s' 0 5) ∧
    (s.hasPart r.part = true → ∃ s', exec (.resume 0) s = .next s' ∧
      Done (s.setPart r.part { s.part r.part with suspended := false }) s' 0 1)) ∧
  ∀ (s : State) r, Rings s 0 7 [(0x10, 8)] r →
    let d := r.arg 0x10 8
    (4 ≤ d ∨ r.part ≠ 0 → ∃ s', exec (.fencedie 0) s = .next s' ∧ Done s s' 0 4) ∧
    (d < 4 → r.part = 0 → ∃ s1 s', exec (.dieFence d) s = .next s1 ∧ exec (.fencedie 0) s = .next s' ∧ Done s1 s' 0 1)

/-- Nightjar's commands: how a record is taken, and what each does. -/
def Obligations.CommandResults : Prop := Claim.CommandRecords ∧ Claim.CommandResults

namespace Sys2Proof.Claim

open Sys2Proof.Machine

/-- A rectangle of a gang's shape: its die, and the cores of it by row, aligned (R269). -/
def isRect (h : Header) (die top : Nat) : Prop :=
  let r := (shapeDims h.gshape).1
  let c := (shapeDims h.gshape).2
  top / 64 = die ∧ top / 8 % 8 % r = 0 ∧ top % 8 % c = 0

/-- The core of a member. -/
def memberCore (h : Header) (top m : Nat) : Nat := top + m / (shapeDims h.gshape).2 * 8 + m % (shapeDims h.gshape).2

/-- The members of a gang stand on a rectangle. -/
def standsAt (s : State) (g : GangId) (h : Header) (top : Nat) : Prop :=
  (s.gang g).topCore = top ∧ (s.gang g).die = top / 64 ∧ ∀ m < h.e1, (s.wg ⟨g, m⟩).core = memberCore h top m

/-- Of the ranges in a die's hands one is placed ahead of another (R267): of its partition, of a lower priority, or of its priority and not
discarded where it is. -/
def Ahead (s : State) (a b : Handed) : Prop :=
  let prio := fun (x : Handed) => (s.launch x.part x.launch).hdr.prio
  a.part = b.part ∧ (prio b < prio a ∨ prio a = prio b ∧ a.redo = true ∧ b.redo = false)

/-- The distributor acts on a range in its hands: it places a gang of it, or drops it (R267, R268). -/
def Acts (s : State) (x : Handed) : Prop :=
  (s.launch x.part x.launch).ending.isSome = true ∨ x.gangs = [] ∨ s.places x.part = true ∧ s.heldBack x = false

/-- Bytes of the scratch of a workgroup, in its slice. -/
def scratchAt (s : State) (w : WgId) (off : Nat) : Nat := (s.wg w).core * 16777216 + (s.wg w).base + off

end Sys2Proof.Claim

/-- R267 to R273, R286, R287, R217, R218: the events of Table 14-1. Of the queue, the first launch with room on the reporting die gives it a
range of at most 64 gangs, a launch's discarded gangs before the others of its priority; the die's distributor places the first gang of the
first range that nothing holds back, with zero-filled scratch and every lane at the entry; PLACING to RUNNING, RUNNING to RETIRING to RETIRED,
DRAINING to SAVING, SAVING to SAVED with the scratch in frames of the partition's HBM, SAVED to RESUMING to RUNNING. What is not due changes
nothing. The model's choice are the place of an image and of the scratch in it (log entry 56), the wait of a root gang's placing (58), what waits in
RESUMING (67), what may resume before what (49). -/
def Obligations.GangEventResults : Prop :=
  (∀ (s : State) p die,
    let step := exec (.gangRangeHandout p die) s
    let late := ∃ d, (s.part p).lastHand = some (s.clk, d) ∧ die < d
    let freeDie := ∀ r ∈ (s.die die).reserved, r.1 ≠ p
    (s.places p = false ∨ die ∉ s.diesOf p ∨ late ∨ freeDie ∧ (s.part p).queue = [] → step = .next s) ∧
    ∀ pre (x : Queued) post, s.places p = true → die ∈ s.diesOf p → ¬late → freeDie → (s.part p).queue = pre ++ x :: post →
      (∀ y ∈ pre ++ [x], s.resumeFirst p y.l.hdr.prio = false ∧ s.logPage p y.no = none) →
      (∀ y ∈ pre, y.l.hdr.cooperative = false ∧ s.anyReports (firstGang p y.no ((s.part p).nextGangs y)) y.l.hdr = false) →
      let n := x.no
      let l := x.l
      let gs := (s.part p).nextGangs x
      let H : Handed := ⟨p, n, gs, x.redo⟩
      (l.hdr.cooperative = true → ∃ s', step = .next s' ∧ (s' = s ∨
        (s'.launch p n).unhanded = false ∧ ∀ k ∈ (s.part p).restGangs l, (s'.gang ⟨p, n, k⟩).state = .placing)) ∧
      (l.hdr.cooperative = false → s.reports die (firstGang p n gs) l.hdr = false → s.anyReports (firstGang p n gs) l.hdr = true →
        step = .next s) ∧
      (l.hdr.cooperative = false → s.reports die (firstGang p n gs) l.hdr = true → s.launch p n = l → ∃ s', step = .next s' ∧
        gs.length ≤ 64 ∧ (s'.part p).lastHand = some (s.clk, die) ∧
        (∃ l r, (s.die die).handed = l ++ r ∧ (s'.die die).handed = l ++ H :: r ∧ (∀ y ∈ l, ¬Ahead s H y) ∧ ∀ y ∈ r.head?, Ahead s H y) ∧
        (∀ k ∈ gs, (s'.gang ⟨p, n, k⟩).state = .queued) ∧
        (x.redo = true → (s'.launch p n).walk = l.walk ∧ (s'.launch p n).again = l.again ∧
          ∀ k ∈ (s'.launch p n).redo, k ∈ l.redo ∧ k ∉ gs) ∧
        (x.redo = false → l.again = [] → (s'.launch p n).walk = l.walk + gs.length ∧ (s'.launch p n).again = []) ∧
        (x.redo = false → l.again ≠ [] → (s'.launch p n).walk = l.walk ∧ ∀ k ∈ (s'.launch p n).again, k ∈ l.again ∧ k ∉ gs))) ∧
  (∀ (s : State) die, (∀ x ∈ (s.die die).handed, ¬Acts s x) → exec (.gangPlace die) s = .next s) ∧
  (∀ (s : State) die pre H k ks rest, (s.die die).handed = pre ++ H :: rest → (∀ x ∈ pre, ¬Acts s x) → H.gangs = k :: ks →
    let g : GangId := ⟨H.part, H.launch, k⟩
    let h := s.header g
    let step := exec (.gangPlace die) s
    let L := s.launch H.part H.launch
    (L.ending.isSome = true → step = .next (s.setDie die { s.die die with handed := pre ++ rest })) ∧
    (L.ending = none → s.places H.part = true → s.heldBack H = false → s.logPage H.part H.launch = none →
      (s.chooseRect g h die = none → ∃ s', step = .next s' ∧ (s'.die die).handed = pre ++ rest ∧
        ∀ x ∈ H.gangs, x ∈ if H.redo then (s'.launch H.part H.launch).redo else (s'.launch H.part H.launch).again) ∧
      ∀ top, s.chooseRect g h die = some top → h.valid s.sliceLimit = true → die < 4 → isRect h die top ∧
        s.spillFits H.part h = true ∧
        (∀ m < h.e1, let core := memberCore h top m
          (s.part H.part).rows.testBit (core / 8) = true ∧ s.usedSlots core + h.copies * h.warps ≤ 32 ∧
            s.usedRegs core + h.copies * h.regs * 32 * h.warps ≤ 131072) ∧
        ∃ s', step = .next s' ∧ (s'.gang g).state = .placing ∧ standsAt s' g h top ∧
          (s'.die die).handed = pre ++ (if ks = [] then rest else { H with gangs := ks } :: rest) ∧
          ∀ m < h.e1, (s'.wg ⟨g, m⟩).k = [] ∧ (∀ off < (h.scratch + 65535) / 65536 * 65536, s'.byteAt (scratchAt s' ⟨g, m⟩ off) = 0) ∧
            ∀ u < h.e0,
              let t := s'.thread ⟨⟨⟨g, m⟩, u / 32⟩, u % 32⟩
              t.pc = BitVec.ofNat 64 h.entry ∧ t.regs = [] ∧ t.preds = 0 ∧ t.fflags = 0 ∧ t.fmode = 0 ∧ t.wd = 0 ∧ t.deadline = h.deadline ∧
                t.wait = .ready ∧ t.inHandler = false)) ∧
  (∀ (s : State) g,
    let q := s.gang g
    let L := s.launch g.part g.launch
    let step := exec (.placementComplete g) s
    let whole := L.hdr.cooperative = true → L.redo = [] ∧ L.again = [] ∧ L.hdr.gangs ≤ L.walk
    (g.launch ≠ 0 → q.state = .placing → whole → step = .next (s.setGang g { q with state := .running })) ∧
    (g.launch = 0 → q.state = .placing →
      (s.coreFits g.part q.topCore (s.header (rootGang g.part)) = false → step = .next s) ∧
      (s.coreFits g.part q.topCore (s.header (rootGang g.part)) = true → ∃ s', step = .next s' ∧
        (s'.gang (rootGang g.part)).state = .running ∧ (s'.gang (rootGang g.part)).topCore = q.topCore)) ∧
    (q.state ≠ .placing ∨ g.launch ≠ 0 ∧ ¬whole → step = .next s)) ∧
  (∀ (s : State) g,
    let q := s.gang g
    let step := exec (.gangRetire g) s
    let lanes := fun (ok : Wait → Prop) => ∀ t ∈ s.threadsOf g, ok (s.thread t).wait
    let done := lanes fun w => w = .exited ∨ w = .exitWait
    let into := ∃ w ∈ s.warps, ∃ l ∈ w.2.lanes, ∃ st ∈ l.2.stores, s.inGang g st.key = true
    let ended := (s.launch g.part g.launch).ending.isSome = true
    (q.state ≠ .running ∧ q.state ≠ .retiring ∧ ¬(q.state = .draining ∧ ended) ∨ q.state = .running ∧ g.launch = 0 → step = .next s) ∧
    ((s.warps.map Prod.fst).Nodup → (∀ w ∈ s.warps, (w.2.lanes.map Prod.fst).Nodup) →
      (q.state = .running → g.launch ≠ 0 →
        (¬done → step = .next s) ∧ (done → step = .next (s.setGang g { q with state := .retiring }))) ∧
      (q.state = .retiring ∨ q.state = .draining ∧ ended →
        (¬(lanes (· = .exited)) ∨ s.gangQuiet g = false ∨ into → step = .next s) ∧
        (lanes (· = .exited) → s.gangQuiet g = true → ¬into → ∃ s', step = .next s' ∧ (s'.gang g).state = .retired ∧
          (∀ w ∈ s'.warps, w.1.wg.gang ≠ g) ∧ (∀ w ∈ s'.wgs, w.1.gang ≠ g) ∧
          (∀ c ∈ s'.cores, ∀ x ∈ c.2.slots, x.2.owner.gang = g → 16 ≤ x.2.owner.member) ∧
          ((s.part g.part).mode ≤ 1 → ∀ w ∈ s.wgsOf g, ∀ off < ((s.header g).scratch + 65535) / 65536 * 65536,
            s'.byteAt (scratchAt s w off) = 0))))) ∧
  (∀ (s : State) g,
    let q := s.gang g
    let step := exec (.drainComplete g) s
    let runs := fun (t : ThreadId) =>
      (s.thread t).wait = .ready ∧ s.held t = false ∨
      (∃ id d wide mates m, (s.thread t).wait = .atomic id d wide mates m) ∧ s.atGate t = false ∨
      (∃ mates here m, (s.thread t).wait = .together mates here m ∧
        ∀ l ∈ mates, s.atGate ⟨t.warp, l⟩ = false ∧ s.held ⟨t.warp, l⟩ = false) ∨
      ∃ a b c, (s.thread t).wait = .logged a b c
    let ended := (s.launch g.part g.launch).ending.isSome = true
    (q.state = .draining → ¬ended → (∀ t ∈ s.threadsOf g, ¬runs t) → step = .next (s.setGang g { q with state := .saving })) ∧
    (q.state ≠ .draining ∨ ended ∨ (∃ t ∈ s.threadsOf g, runs t) → step = .next s)) ∧
  (∀ (s : State) g,
    let step := exec (.saveComplete g) s
    let s1 := s.rollbackGang g
    let n := fun (w : WgId) => (s.header w.gang).scratch
    let ports := (s.part g.part).ports
    let room := fun (w : WgId) => (s.wg w).core < 256 ∧ (s.wg w).base + n w ≤ 16777216
    ((s.gang g).state ≠ .saving → step = .next s) ∧
    ((s.gang g).state = .saving →
      (s1.gangQuiet g = false ∨ s1.enginesStand g = false ∨ s1.gangLanded g = false ∨ s1.scratchQuiet g = false → step = .next s1) ∧
      (s1.gangQuiet g = true → s1.enginesStand g = true → s1.gangLanded g = true → s1.scratchQuiet g = true → ∀ s2 ms, s1.imagePlaces g (s1.wgsOf g) = some (s2, ms) →
        (∀ w ∈ s.wgsOf g, room w) → ((s.wgsOf g).Pairwise fun v w => Apart (scratchAt s v 0) (n v) (scratchAt s w 0) (n w)) →
        (ms.Pairwise fun a b => Apart a.2.1 a.2.2 b.2.1 b.2.2) →
        (∀ m ∈ ms, ∀ off < n m.1, (hbmKey ports (m.2.1 + off)).isSome = true) →
        ∃ s', step = .next s' ∧ (s'.gang g).state = .saved ∧ ms.map Prod.fst = s.wgsOf g ∧
          (∀ m ∈ ms, (s'.wg m.1).base = m.2.1 ∧ (s'.wg m.1).image = m.2.2 ∧ ∀ off < n m.1,
            s'.byteAt (scratchAt s m.1 off) = 0 ∧ ∀ k, hbmKey ports (m.2.1 + off) = some k → s'.byteAt k = s.byteAt (scratchAt s m.1 off)) ∧
          (∀ w ∈ s.wgsOf g, ∀ x ∈ (s'.core (s.wg w).core).slots, x.2.owner.gang = g → 16 ≤ x.2.owner.member) ∧
          (∀ t ∈ s.threadsOf g, (s.warp t.warp).cur = none →
            (s'.thread t).regs = (s.thread t).regs ∧ (s'.thread t).preds = (s.thread t).preds) ∧
          ∀ t, t.gang ≠ g → (s.thread t).ctx = some (g, none) → (s'.thread t).ctx = some (g, some 0)))) ∧
  (∀ (s : State) g,
    let h := s.header g
    let step := exec (.gangResume g) s
    ((s.gang g).state ≠ .saved → step = .next s) ∧
    ((s.gang g).state = .saved → s.lostImage g = false →
      (s.mayResume g = false ∨ s.imageQuiet g = false ∧ h.cooperative = false → step = .next s) ∧
      (s.mayResume g = true → s.imageQuiet g = true → h.cooperative = false →
        (s.resumeRect g = none → step = .next s) ∧
        ∀ top, s.resumeRect g = some top → s.imageDead g = false → h.valid s.sliceLimit = true → (g.launch ≠ 0 → isRect h (top / 64) top) ∧
          ∃ s', step = .next s' ∧ (s'.gang g).state = .resuming ∧ standsAt s' g h top ∧
            (h.e1 = 1 → top < 256 → ∀ off < h.scratch, ∀ k, hbmKey (s.part g.part).ports ((s.wg ⟨g, 0⟩).base + off) = some k →
              s'.byteAt (scratchAt s' ⟨g, 0⟩ off) = s.byteAt k)))) ∧
  ∀ (s : State) g,
    let step := exec (.resumeComplete g) s
    let waits := fun (x : GangId) => ∃ d ∈ s.deltas, d.id ∈ (s.gang x).flush
    let mates := fun (x : GangId) => x = g ∨
      (s.header g).cooperative = true ∧ x ∈ s.gangsOf g.part g.launch ∧ (s.gang x).state = .resuming
    let goes := fun (s' : State) => s'.mem = s.mem ∧ ∀ x, mates x → (s'.gang x).state = .running ∧
      ∀ t m, t.gang = x → (s.thread t).wait = .drained m → (s'.thread t).wait = .ready ∧ (s'.thread t).pc = m
    ((s.gang g).state ≠ .resuming ∨ (∃ x, mates x ∧ waits x) → step = .next s) ∧
    ((s.gang g).state = .resuming → (∀ x, mates x → ¬waits x) →
      ((s.header g).cooperative = false → s.canRestore g = false → step = .next s) ∧
      ((s.header g).cooperative = false → s.canRestore g = true → ∃ s', step = .next s' ∧ goes s') ∧
      ((s.header g).cooperative = true → ∃ s', step = .next s' ∧ (s' = s ∨ goes s')))

namespace Sys2Proof.Claim

open Sys2Proof.Machine

/-- T and C of a choice of a gang, at cpi sixteenths of a clk per instruction (R283). -/
def timeOf (s : State) (g : GangId) (cpi : Nat) : Choice → Nat
  | .drain => (s.dmax g * cpi + 15) / 16 + (s.maxImage g true + 141) / 142 + 128
  | .save => (s.maxImage g false + 141) / 142 + 128
  | .discard => 256

/-- The cost of a choice (R283). -/
def costOf (s : State) (g : GangId) (cpi : Nat) : Choice → Nat
  | .discard => (s.gang g).runClk
  | c => timeOf s g cpi c

/-- The preference on a tie (R284). -/
def prefer : Choice → Nat
  | .drain => 0
  | .save => 1
  | .discard => 2

/-- The choice R284 gives. -/
def Chosen (s : State) (g : GangId) (budget cpi : Nat) (c : Choice) : Prop :=
  let legal := fun (x : Choice) => x = .discard → (s.gang g).clean = true ∨ (s.part g.part).mode = 1
  let meets := fun x => legal x ∧ timeOf s g cpi x ≤ budget
  let least := fun (f : Choice → Nat) (among : Choice → Prop) =>
    among c ∧ ∀ x, among x → f c < f x ∨ f c = f x ∧ prefer c ≤ prefer x
  ((∃ x, meets x) → least (costOf s g cpi) meets) ∧ ((¬∃ x, meets x) → least (timeOf s g cpi) legal)

end Sys2Proof.Claim

/-- R281 to R284: pre-emption starts for the head gang of a partition with a budget, after 1,024 clk without a rectangle and with a rectangle of
lower gangs that all run; a single victim goes to DRAINING, SAVING or QUEUED by its choice, at the cpi measured; the rectangle is kept. Else nothing. -/
def Obligations.PreemptionResults : Prop :=
  ∀ (s : State) p,
    let step := exec (.preemptionStart p) s
    let budget := (s.part p).reg 1 % 2 ^ 32
    let gap := max 1 ((s.part p).reg 1 / 2 ^ 40 % 2 ^ 8)
    (budget = 0 ∨ s.headGang p = none → step = .next s) ∧
    let waited := fun (w : Waiting) => ∃ g since, (s.part p).starved = some (g, since) ∧ since + 1024 ≤ s.clk ∧
      (w.gang = g ∨ w.hdr.cooperative = true ∧ w.gang.part = g.part ∧ w.gang.launch = g.launch)
    (∀ w, s.headGang p = some w → w.gang.part = p →
      ¬waited w ∨ s.isReserved w.gang = true ∨ s.noRect w = false ∨ s.chooseVictims w = none → step = .next s) ∧
    ∀ w top, s.headGang p = some w → s.chooseVictims w = some top → w.gang.part = p →
      isRect w.hdr (top / 64) top ∧
      (∀ v ∈ s.gangsIn (rectCores w.hdr.gshape top),
        v.launch ≠ 0 ∧ (s.gang v).state = .running ∧ (s.launch v.part v.launch).ending = none ∧ (s.header v).prio + gap ≤ w.hdr.prio) ∧
      (budget ≠ 0 → s.places p = true → waited w → s.isReserved w.gang = false → s.noRect w = true →
        ∀ v, s.victims (rectCores w.hdr.gshape top) = [v] → (s.header v).cooperative = false →
          let kept := s.reserve w.gang (rectCores w.hdr.gshape top)
          ∃ s' c, step = .next s' ∧ 1 ≤ kept.cpi v ∧ kept.cpi v ≤ 4095 ∧ Chosen kept v budget (kept.cpi v) c ∧
            (∃ d, (p, rectCores w.hdr.gshape top, w.gang) ∈ (s'.die d).reserved) ∧
            (c = .drain → (s'.gang v).state = .draining) ∧ (c = .save → (s'.gang v).state = .saving) ∧
            (c = .discard → (s'.gang v).state = .queued ∧ v.gang ∈ (s'.launch v.part v.launch).redo))

/-- R98, R266, R312 to R316, R326 to R328, R337 to R339: the merge of a MERGE launch, the end of a launch with its record and its arrival, a
gang-level fault of the device and the fate it gives the gang, a gate's time-out, the admission of a held access of a stuck launch. What is not
due changes nothing. That any other kind than 0x17 and 0x1B changes nothing is the model's choice (log entry 13), and so are the arrival dropped
where donebar has another home now (43), which lanes are stuck, and the rectangle kept (48). -/
def Obligations.LaunchEventResults : Prop :=
  (∀ (s : State) p n,
    let L := s.launch p n
    let step := exec (.launchMerge p n) s
    let due := (s.part p).mode = 1 ∧ s.allRetired p n = true ∧ L.ending = none ∧ L.merged = false
    let order := s.byRank p n
    let gang := fun k => s.gang (⟨p, n, k⟩ : GangId)
    (¬due → step = .next s) ∧
    (due → ∀ k, k ∈ order → order.Nodup → (∀ j ∈ order, j ≠ k → (gang j).stored = [] ∧ (gang j).atoms = []) → (gang k).atoms = [] →
      (∀ va ∈ (gang k).stored, s.settling p (va - va % 8) = false) →
      (∀ va ∈ (gang k).stored, ∀ u, u / 8 = va / 8 → ∀ key, s.sharedKey p u = some key → isRemote key = false) →
      ∃ s', step = .next s' ∧ (s'.launch p n).merged = true ∧ (s'.launch p n).ending = none ∧
        ∀ va ∈ (gang k).stored, ∀ key, s.sharedKey p va = some key →
          (∀ u ∈ (gang k).stored, u ≠ va → s.sharedKey p u ≠ some key) →
          s'.byteAt key = ((tbGet (gang k).view va).getD ⟨0, false⟩).v) ∧
    (due → ∀ j ∈ order, ∀ k ∈ order, order.Nodup → j ≠ k → ∀ va, va ∈ (gang j).stored → va ∈ (gang k).stored →
      ∃ s' g, step = .next s' ∧ (s'.launch p n).ending = some (4, 0x15, 0, g) ∧ g ∈ order)) ∧
  (∀ (s : State) p n,
    let L := s.launch p n
    let step := exec (.launchEnd p n) s
    let due := s.allRetired p n = true ∧ ((s.part p).mode = 1 → L.ending.isSome = true ∨ L.merged = true) ∧
      ∀ id, L.recordId = some id → (∀ a ∈ s.inFlight, a.id ≠ id) ∧ ∀ g ∈ s.gangs, ∀ a ∈ g.2.gated, a.id ≠ id
    let record := match L.ending with
      | some (status, kind, die, gang) => statusBytes status die kind n gang
      | none => match L.divergent with
        | g :: _ => statusBytes 4 0 0x16 n g
        | [] => statusBytes 1 0 0 n 0
    let failed : Bool := L.ending.isSome && (L.ending.map Prod.fst != some 1) || L.ending.isNone && L.divergent != []
    (¬due → step = .next s) ∧
    (due → ∃ s', step = .next s' ∧ s'.hasLaunch p n = false ∧ s'.gangsOf p n = [] ∧
      (L.chunks = [] → L.versions = [] → (s.part p).held = [] →
        (L.hdr.donebar = 0 → L.status ≠ 0 → ∀ leaf key, s.devTarget p L.status = .ready leaf key → isRemote key = false →
          Apart leaf.place 8 key 16 → ∀ j < 16, s'.byteAt (key + j) = record.getD j 0) ∧
        (L.status = 0 → L.hdr.donebar ≠ 0 → ∀ leaf key, s.devTarget p L.hdr.donebar = .ready leaf key → Apart leaf.place 8 key 16 →
          (L.doneKey = key → pteKind leaf.entry = 4 → s.tagged key = true → s'.readNat key 16 = arrival (s.readNat key 16) failed 0) ∧
          (L.doneKey ≠ key → (s.part p).logCount = 0 → s'.mem = s.mem)) ∧
        (L.status = 0 → L.hdr.donebar = 0 → s'.mem = s.mem)))) ∧
  (∀ (s : State) g (kind : Byte),
    let step := exec (.gangLevelFault g kind) s
    let k := kind.toNat
    let L := s.launch g.part g.launch
    let h := s.header g
    let there := (s.gang g).state.resident = true ∨ (s.gang g).state = .saved
    let stands := there ∧ L.ending = none
    let relaunched := (tbGet L.relaunches g.gang).getD 0
    let held := h.contained = true ∨ (s.part g.part).mode = 1
    let clean := (s.gang g).clean = true ∨ (s.part g.part).mode = 1
    (k ≠ 0x17 → k ≠ 0x1B → step = .next s) ∧
    (k = 0x17 ∨ k = 0x1B →
      (g.launch = 0 → ∃ s', step = .next s' ∧ ∀ t ∈ s'.threadsOf g, (s'.thread t).wait = .exited) ∧
      (g.launch ≠ 0 → ¬there → ∃ s', step = .next s' ∧ s'.gangs = s.gangs ∧ s'.warps = s.warps ∧
        (s'.launch g.part g.launch).ending = L.ending) ∧
      (g.launch ≠ 0 → there → L.ending ≠ none → ∃ s', step = .next s' ∧ (∀ t ∈ s'.threadsOf g, (s'.thread t).wait = .exited) ∧
        (s'.launch g.part g.launch).ending = L.ending) ∧
      (g.launch ≠ 0 → stands → ¬held → ∃ s', step = .next s' ∧ (s'.launch g.part g.launch).ending = some (4, k, 0, g.gang))) ∧
    (k = 0x17 ∨ k = 0x1B → g.launch ≠ 0 → stands → held →
      (relaunched < 2 → clean → h.cooperative = false → ∃ s', step = .next s' ∧ (s'.gang g).state = .queued ∧
        g.gang ∈ (s'.launch g.part g.launch).redo ∧ tbGet (s'.launch g.part g.launch).relaunches g.gang = some (relaunched + 1) ∧
        (s'.launch g.part g.launch).ending = none) ∧
      (2 ≤ relaunched ∨ ¬clean →
        (L.replays < 2 → ∃ s', step = .next s' ∧ (∀ x ∈ s'.gangsOf g.part g.launch, (s'.gang x).state = .queued) ∧ (s'.launch g.part g.launch).walk = 0 ∧
          (s'.launch g.part g.launch).again = [] ∧ (s'.launch g.part g.launch).redo = [] ∧ (s'.launch g.part g.launch).replays = L.replays + 1) ∧
        (2 ≤ L.replays → ∃ s', step = .next s' ∧ (s'.launch g.part g.launch).ending = some (4, k, 0, g.gang))))) ∧
  (∀ (s : State) id,
    let step := exec (.replayGateTimeout id) s
    (s.gateQ.find? (fun a => a.id == id) = none → step = .next s) ∧
    ∀ a, s.gateQ.find? (fun b => b.id == id) = some a →
      let list := (tbGet (s.launch a.gang.part a.gang.launch).lists (a.va - a.va % 8)).getD []
      (list = [] → step = .next s) ∧
      ∀ k c rest, list = (k, c) :: rest →
        let g : GangId := ⟨a.gang.part, a.gang.launch, k⟩
        let waits := (s.gang g).state = .queued ∨ (s.gang g).state = .saved
        let due := a.heldSince + 65536 ≤ s.clk ∧ waits ∧ (s.launch g.part g.launch).ending = none ∧ k < (s.header g).gangs
        let kept := ∃ d ∈ s.dies, ∃ r ∈ d.2.reserved, r.2.2 = g ∧ r.2.1 ≠ []
        (¬due → step = .next s) ∧
        (due → ¬kept → s.noRect ⟨g, s.header g⟩ = false → step = .next s) ∧
        (due → ¬kept → s.noRect ⟨g, s.header g⟩ = true →
          ∀ o more, s.gateQ.filter (fun b => b.gang.part == g.part && b.gang.launch == g.launch) = o :: more →
            ∃ s', step = .next s' ∧
              (∃ d, (g.part, rectCores (s.header g).gshape (s.gang o.gang).topCore, g) ∈ (s'.die d).reserved) ∧
              ((s.gang o.gang).state = .running ∨ (s.gang o.gang).state = .retiring → (s'.gang o.gang).state = .saving))) ∧
  ∀ (s : State) p n,
    let step := exec (.replayStuckAdmit p n) s
    let held := s.gateQ.filter fun b => b.gang.part == p && b.gang.launch == n
    let stuck := ∀ g ∈ s.gangsOf p n, (s.gang g).state.resident = true → ∀ t ∈ s.threadsOf g, s.laneStuck t = true
    (held = [] ∨ (s.part p).mode ≠ 3 ∨ s.nonePlacing p n = false ∨ ¬stuck → step = .next s) ∧
    ∀ a more, held = a :: more → (s.part p).mode = 3 → s.nonePlacing p n = true → stuck →
      ∃ s', step = .next s' ∧ a.gang.gang ∈ (s'.launch p n).divergent ∧
        ((s.part p).logCount = 0 → more = [] → a.snap = false → isRemote a.key = false → ∀ op ty b q w, a.op = .atom op ty b q w → op ≤ 6 →
          (a.size = 4 ∧ ty < 2 ∨ a.size = 8 ∧ 2 ≤ ty) → b < 2 ^ (8 * a.size) →
          (∀ x ∈ s'.gateQ, x.id ≠ a.id) ∧ ∃ out, Wrote s s' a.key out ∧ out.length = a.size ∧
            natOfBytes (out.map PByte.v) = atomicValue op ty (8 * a.size) (s.readNat a.key a.size) b)

namespace Sys2Proof.Claim

open Sys2Proof.Machine

/-- The device's memory, the partitions and the gangs are as they were: nothing but registers of functions, of the package and of Nightjar
has changed, and messages to the host. -/
def Idle (s s' : State) : Prop :=
  s'.parts = s.parts ∧ s'.gangs = s.gangs ∧ s'.wgs = s.wgs ∧ s'.warps = s.warps ∧ s'.cores = s.cores ∧ s'.dies = s.dies ∧
    ∀ k, isRemote k = false → s'.byteAt k = s.byteAt k

/-- What a start-up function waits for (Table 18-4): the number of a bit, or power-good, which is 128 here. -/
def waitsFor (bit : Nat) : Nat :=
  if bit < 4 ∨ 36 ≤ bit ∧ bit < 48 ∨ bit = 76 then 77
  else if bit < 36 then (bit - 4) / 8
  else if bit < 72 then (bit - 48) / 6
  else if bit < 76 then bit - 72
  else 128

/-- The bound of a start-up function in clk, the manual's seconds at 1.05 GHz (Table 18-4). -/
def boundOf (bit : Nat) : Option Nat :=
  if bit < 4 then some (1500 * 1050000)
  else if bit < 36 then some (100 * 1050000)
  else if bit < 48 then some (2000 * 1050000)
  else if bit < 72 then some (3000 * 1050000)
  else if bit = 77 then some (300 * 1050000)
  else none

/-- A start-up function runs: since t what it waits for stands, and its own bit does not. -/
structure Starts (s : State) (bit t : Nat) : Prop where
  power : s.power = true
  number : bit < 78
  clear : s.ready.getLsbD bit = false
  met : bit ∉ s.missed
  live : ¬(bit < 4 ∧ (s.die bit).fenced = true)
  since : tbGet s.risen (waitsFor bit) = some t
  stands : waitsFor bit = 128 ∨ s.ready.getLsbD (waitsFor bit) = true

end Sys2Proof.Claim

/-- R367 to R371, R354: power-good, the start-up functions in the order and within the bounds of Table 18-4, failures, the cap and the
heat. The model's choice are the flags that throttling and the cap leave (log entry 46), a function that has missed its bound or failed and stays so
(51), and what outlives a power-off (55). -/
def Obligations.PowerEventResults : Prop :=
  (∀ s : State, exec .powerGood s = .next (if s.power then s else { s with power := true, risen := tbSet s.risen 128 s.clk })) ∧
  (∀ (s : State) bit,
    let within := fun t => ∀ b, boundOf bit = some b → s.clk - t ≤ b
    let bits := fun (s' : State) (on : Bool) => ∀ k < 128, s'.ready.getLsbD k = if k = bit then on else s.ready.getLsbD k
    (∀ t, Starts s bit t → within t → exec (.startupBoundExpiry bit) s = .next s ∧
      ∃ s', exec (.functionStartupComplete bit) s = .next s' ∧ bits s' true ∧ s'.risen = tbSet s.risen bit s.clk ∧ s'.parts = s.parts ∧
        ∀ k, isRemote k = false → s'.byteAt k =
          if bit < 4 ∧ isSram k = true ∧ k / 16777216 / 64 = bit ∨ 36 ≤ bit ∧ bit < 48 ∧ isHbm k = true ∧ stackOf k = bit - 36 then 0
          else s.byteAt k) ∧
    (∀ t, Starts s bit t → ¬within t → exec (.functionStartupComplete bit) s = .next s ∧
      exec (.startupBoundExpiry bit) s = .next { s with missed := nsInsert s.missed bit }) ∧
    ((∀ t, ¬Starts s bit t) → exec (.functionStartupComplete bit) s = .next s ∧ exec (.startupBoundExpiry bit) s = .next s) ∧
    (s.ready.getLsbD bit = false → exec (.functionFailure bit) s = .next s) ∧
    (s.ready.getLsbD bit = true →
      (bit < 4 → exec (.functionFailure bit) s = exec (.dieFence bit) s) ∧
      (4 ≤ bit → bit < 36 → exec (.functionFailure bit) s = exec (.dieFence ((bit - 4) / 8)) s) ∧
      (36 ≤ bit → bit < 48 → exec (.functionFailure bit) s = .next { s with badStacks := nsInsert s.badStacks (bit - 36) }) ∧
      (48 ≤ bit → bit < 128 → ∃ s', exec (.functionFailure bit) s = .next s' ∧ bits s' false ∧ bit ∈ s'.missed ∧ Idle s s'))) ∧
  (∀ s : State, exec .thermalThrottle s = .next { s with throttled := true } ∧ exec .powerAboveCap s = .next { s with overCap := true } ∧
    ∀ v : Word, exec (.powercapWrite v) s =
      .next (if 1200 ≤ v.toNat ∧ v.toNat ≤ 3400 then { s with powercap := v.toNat, overCap := false } else s)) ∧
  ∀ s : State, ∃ s', exec .thermalPowerOff s = .next s' ∧ s'.power = false ∧ s'.parts = [] ∧ s'.gangs = [] ∧ s'.warps = [] ∧ s'.cores = [] ∧
    s'.fns = [] ∧ s'.ready = 0 ∧ s'.keyNo = s.keyNo ∧ (∀ k, isRemote k = false → s'.byteAt k = 0) ∧
    ∀ k, isRemote k = true → s'.byteAt k = s.byteAt k

/-- R350, R351, R362 to R366: a slice of an engine goes to the first waiting bytes by priority, then by remaining budget, and is deducted; a
budget's grant, which register 0x02 sets at the next millisecond; a link that fails; a peer without acknowledgement; the route table; requests of
peers in sequence, under a grant, and none before a link or a port is up. The model's choice are that a retransmission changes nothing (log entry
54), the first sequence number 0, the route write that reaches a peer again and the addresses of a peer's partition (50), and a link that stays
missed (51). -/
def Obligations.LinkEventResults : Prop :=
  (∀ (s : State) (e : DmaEngine),
    let n := match e with
      | .host => 0
      | .xouth => 1
      | .ethernet => 2
    (s.nextSlice n = none → exec (.engineSliceStart e) s = .next s) ∧
    ∀ p x, s.nextSlice n = some (p, x) →
      let q := s.part p
      let moved := min 65536 x.bytes
      let units := (moved + 4095) / 4096
      let free := q.grant = 0xFFFFFFFF
      x.engine = n ∧ x.bytes ≠ 0 ∧ 0 < q.budget ∧
      (∀ r ∈ s.parts.map Prod.fst, ∀ y ∈ s.waitingSlices r n, y.prio ≤ x.prio ∧ (y.prio = x.prio → (s.part r).budget ≤ q.budget)) ∧
      ((∀ va, x.owner ≠ .device va) → ∃ s', exec (.engineSliceStart e) s = .next s' ∧ tbGet s'.served n = some p ∧
        (s'.part p).budget = (if free then q.budget else q.budget - units) ∧
        (s'.part p).slices = q.slices.map (fun y => if y.owner = x.owner then { y with bytes := y.bytes - moved } else y) ∧
        (free → (s'.part p).counters = q.counters) ∧ s'.mem = s.mem)) ∧
  (∀ s : State,
    (s.clk < (s.refills + 1) * 1050000 → exec .budgetRefill s = .next s) ∧
    ((s.refills + 1) * 1050000 ≤ s.clk → exec .budgetRefill s = .next
      { s with refills := s.refills + 1
               parts := s.parts.map fun q =>
                 (q.1, { q.2 with grant := q.2.reg 2
                                  budget := min (q.2.budget + (q.2.reg 2 : Int)) (q.2.reg 2 : Int) }) })) ∧
  (∀ (s : State) l,
    (24 ≤ l ∨ s.ready.getLsbD (48 + l) = false → exec (.linkRetryFailure l) s = .next s) ∧
    (l < 24 → s.ready.getLsbD (48 + l) = true → ∃ s', exec (.linkRetryFailure l) s = .next s' ∧ Idle s s' ∧ 48 + l ∈ s'.missed ∧
      ∀ k < 128, s'.ready.getLsbD k = if k = 48 + l then false else s.ready.getLsbD k)) ∧
  (∀ (s : State) dev,
    let silent := ∃ a, (a ∈ s.coreQ ∨ a ∈ s.dieQ) ∧ 2 ^ 80 ≤ a.key ∧ (a.key - 2 ^ 80) / 2 ^ 64 = dev ∧ a.heldSince + 1050000000 ≤ s.clk
    (silent → exec (.peerUnreachableTimeout dev) s = .next { s with unreachable := nsInsert s.unreachable dev }) ∧
    (¬silent → exec (.peerUnreachableTimeout dev) s = .next s)) ∧
  (∀ (s : State) dev (e : BitVec 256),
    (256 ≤ dev → exec (.peerRouteWrite dev e) s = .next s) ∧
    (dev < 256 → ∃ s', exec (.peerRouteWrite dev e) s = .next s' ∧ dev ∉ s'.unreachable ∧ s'.mem = s.mem ∧ s'.parts = s.parts ∧
      (∀ k, (smGet 0 s'.peers dev).getLsbD k = (e.getLsbD k && (decide (k < 34) || decide (128 ≤ k)))) ∧
      ∀ d, d ≠ dev → smGet 0 s'.peers d = smGet 0 s.peers d)) ∧
  (∀ (s : State) port, exec (.ethernetRetransmit port) s = .next s) ∧
  ∀ (s : State) (r : PeerRequest),
    let step := exec (.peerRequestReceive r) s
    let expected := (tbGet s.peerSeq (r.device, r.lane)).getD 0
    let q := s.part r.target
    let granted := s.hasPart r.target = true ∧ ∃ g < 8,
      let v := smGet 0 q.regs (0x40 + g)
      v.testBit 24 = true ∧ v / 2 ^ 16 % 256 = r.device ∧ v / 2 ^ 8 % 16 = r.part
    let keys := (natsFrom r.pa r.len).map (hbmKey q.ports)
    let backed := ∀ k ∈ keys, k ≠ none
    let after := fun (s' : State) => (tbGet s'.peerSeq (r.device, r.lane)) = some ((r.seq + 1) % 2 ^ 32)
    let up := ∃ k, 48 ≤ k ∧ k < 76 ∧ s.ready.getLsbD k = true
    let bytesOf := fun (a : State) => (keys.filterMap id).map fun k => (⟨a.byteAt k, a.poisonAt k⟩ : PByte)
    (¬up → step = .next s) ∧
    (up → r.device = s.devid → step = .next { s with errcount := (s.errcount + 1) % 2 ^ 64 }) ∧
    (up → r.device ≠ s.devid → r.seq ≠ expected → step = .next s) ∧
    (up → r.device ≠ s.devid → r.seq = expected →
      (¬granted ∨ ¬backed → ∃ s', step = .next s' ∧ after s' ∧ s'.mem = s.mem ∧ s'.errcount = (s.errcount + 1) % 2 ^ 64 ∧
        ((∀ bs, r.op ≠ .write bs) → s'.reply.length = r.len ∧ ∀ b ∈ s'.reply, b.p = true)) ∧
      (granted → backed → keys.Nodup →
        (r.op = .read → ∃ s', step = .next s' ∧ after s' ∧ s'.mem = s.mem ∧ s'.reply = bytesOf s) ∧
        (∀ bs, r.op = .write bs → bs.length = r.len → ∃ s', step = .next s' ∧ after s' ∧ s'.reply = [] ∧
          (∀ i < r.len, ∀ k, keys.getD i none = some k → s'.byteAt k = bs.getD i 0) ∧ ∀ k, some k ∉ keys → s'.byteAt k = s.byteAt k) ∧
        (∀ op ty v, r.op = .atom op ty v → op ≤ 6 → (r.len = 4 ∧ ty < 2 ∨ r.len = 8 ∧ ty = 2 ∨ r.len = 8 ∧ ty = 3) → v < 2 ^ (8 * r.len) →
          ∃ s', step = .next s' ∧ after s' ∧ s'.reply = bytesOf s ∧
            natOfBytes ((bytesOf s').map PByte.v) = atomicValue op ty (8 * r.len) (natOfBytes ((bytesOf s).map PByte.v)) v ∧
            ∀ k, some k ∉ keys → s'.byteAt k = s.byteAt k)))

namespace Sys2Proof.Claim

open Sys2Proof.Machine

/-- The function is there: the physical one, or that of a partition. -/
def there (s : State) (fn : Nat) : Prop := fn = 0 ∨ fn ≤ 16 ∧ s.hasPart (fn - 1) = true

/-- An access of the function's BAR arrives (R361): it is there, and its locked interface, if it is, has the key of its stream. -/
def hears (s : State) (fn : Nat) : Prop :=
  there s fn ∧ ¬(((s.fn fn).tdisp = .locked ∨ (s.fn fn).tdisp = .run) ∧ (s.fn fn).ideKey = false)

/-- A change of one function's registers and of nothing else but what it sends the host. -/
def OnlyFn (s s' : State) (fn : Nat) : Prop := Idle s s' ∧ ∀ k, k ≠ fn → s'.fn k = s.fn k

/-- A message of R355 is answered, Nightjar ready and the function there: the responder goes on where it stands in a state that the message
needs (log entry 14). -/
def Answers (i : Nat → Instr) (needs : Nat → Prop) (go : Nat → Nat) : Prop :=
  ∀ (s : State) fn,
    let ready := s.ready.getLsbD 77 = true ∧ there s fn
    (¬ready → exec (i fn) s = .next s) ∧
    (ready → ∃ s', exec (i fn) s = .next s' ∧ OnlyFn s s' fn ∧ s'.mem = s.mem ∧ (s'.fn fn).mailbox ≠ [] ∧
      (s'.fn fn).tdisp = (s.fn fn).tdisp ∧
      (needs (s.fn fn).spdm → (s'.fn fn).spdm = go (s.fn fn).spdm) ∧ (¬needs (s.fn fn).spdm → (s'.fn fn).spdm = (s.fn fn).spdm))

end Sys2Proof.Claim

/-- R341, R342, R357, R360, R361, R363: a write of BAR0 is always answered by a next state: at its register's own width it sets it, but for ring
registers of a locked interface; anything else, and all off the stream of a locked interface, is discarded. A read answers the register at its own
width, anything else zero. That bases are taken down to a multiple of 64 is the model's choice (log entry 44). -/
def Obligations.BarWriteResults : Prop :=
  (∀ (s : State) fn off width (value : BitVec 128),
    let v := value.toNat % 2 ^ (8 * width)
    let f := s.fn fn
    let free := f.tdisp = .unlocked
    let ring := (off = 0x1000 ∨ off = 0x1010) ∧ width = 8 ∨ off = 0x1008 ∧ width = 4
    let queue := fn ≠ 0 ∧ (off = 0x1018 ∧ width = 8 ∨ off = 0x1020 ∧ width = 4 ∨ off = 0x1030 ∧ width = 16)
    let msix := 0x3000 ≤ off ∧ off < 0x3800 ∧ (width = 4 ∨ width = 8) ∧ off % width = 0
    let physical := fn = 0 ∧ ((off = 0x2010 ∨ off = 0x2020) ∧ width = 4 ∨ off = 0x2028 ∧ width = 1)
    let at_ := off % 32
    let route := fn = 0 ∧ 0x4000 ≤ off ∧ off < 0x6000 ∧
      (at_ = 0 ∧ (width = 4 ∨ width = 32) ∨ at_ = 4 ∧ width = 4 ∨ at_ = 8 ∧ width = 8 ∨ at_ = 16 ∧ width = 16)
    ∃ t, exec (.barRegisterWrite fn off width value) s = .next t ∧
      (¬hears s fn ∨ ¬(off < 0x1000 ∨ ring ∨ queue ∨ msix ∨ physical ∨ route) → t = s) ∧
      (hears s fn →
        (off < 0x1000 → exec (.latticeWindowWrite fn off width value) s = .next t) ∧
        (off = 0x1000 ∨ off = 0x1008 → ¬free → t = s) ∧
        (off = 0x1000 → width = 8 → free → t = s.setFn fn { f with ringbase := v / 64 * 64 }) ∧
        (off = 0x1008 → width = 4 → free → t = s.setFn fn { f with ringlog := v }) ∧
        (off = 0x1010 → width = 8 → exec (.commandCellWrite fn (BitVec.ofNat 64 v)) s = .next t) ∧
        (fn ≠ 0 → f.fqbaseNext = none → f.fqlogNext = none → (s.part (fn - 1)).hostLine = [] →
          (off = 0x1018 → width = 8 → OnlyFn s t fn ∧ t.fn fn =
            if (s.part (fn - 1)).hostEntries = [] then { f with fqbase := v / 64 * 64 } else { f with fqbaseNext := some (v / 64 * 64) }) ∧
          (off = 0x1020 → width = 4 → OnlyFn s t fn ∧ t.fn fn =
            if (s.part (fn - 1)).hostEntries = [] then { f with fqlog := v } else { f with fqlogNext := some v })) ∧
        (off = 0x1030 → width = 16 → fn ≠ 0 →
          exec (.faultReply fn (BitVec.ofNat 64 v) (BitVec.ofNat 64 (v / 2 ^ 64))) s = .next t) ∧
        (fn = 0 → off = 0x2010 → width = 4 → t = if s.parts = [] ∧ 1 ≤ v ∧ v ≤ 16 then { s with poolz := v } else s) ∧
        (fn = 0 → off = 0x2020 → width = 4 → exec (.powercapWrite (BitVec.ofNat 32 v)) s = .next t) ∧
        (fn = 0 → off = 0x2028 → width = 1 → t = if s.parts = [] then { s with devid := v } else s) ∧
        (route → let dev := (off - 0x4000) / 32
          dev ∉ t.unreachable ∧ t.mem = s.mem ∧ t.parts = s.parts ∧ (∀ d, d ≠ dev → smGet 0 t.peers d = smGet 0 s.peers d) ∧
            ∀ k < 256, (smGet 0 t.peers dev).getLsbD k =
              ((decide (k < 34) || decide (128 ≤ k)) &&
                if 8 * at_ ≤ k ∧ k < 8 * (at_ + width) then v.testBit (k - 8 * at_) else (smGet 0 s.peers dev).getLsbD k)) ∧
        (msix → OnlyFn s t fn ∧ ∀ o, (t.fn fn).msixByte o =
          if off - 0x3000 ≤ o ∧ o < off - 0x3000 + width then BitVec.ofNat 8 (v / 256 ^ (o + 0x3000 - off)) else f.msixByte o))) ∧
  ∀ (s : State) fn off width,
    let r := s.barRead fn off width
    let f := s.fn fn
    let peers := fun (at_ bits : Nat) => (smGet 0 s.peers ((off - 0x4000) / 32)).toNat / 2 ^ at_ % 2 ^ bits
    (¬hears s fn → r = 0) ∧
    (hears s fn →
      (off = 0x1000 → r = if width = 8 then f.ringbase else 0) ∧ (off = 0x1008 → r = if width = 4 then f.ringlog else 0) ∧
      (off = 0x1010 → r = if width = 8 then f.cmdcell else 0) ∧
      (off = 0x1018 → r = if width = 8 ∧ fn ≠ 0 then f.fqbaseNext.getD f.fqbase else 0) ∧
      (off = 0x1020 → r = if width = 4 ∧ fn ≠ 0 then f.fqlogNext.getD f.fqlog else 0) ∧
      (off = 0x2000 → r = if width = 16 ∧ fn = 0 then s.ready.toNat else 0) ∧
      (off = 0x2010 → r = if width = 4 ∧ fn = 0 then s.poolz else 0) ∧
      (off = 0x2018 → r = if width = 8 ∧ fn = 0 then s.errcount else 0) ∧
      (off = 0x2020 → r = if width = 4 ∧ fn = 0 then s.powercap else 0) ∧
      (off = 0x2028 → r = if width = 1 ∧ fn = 0 then s.devid else 0) ∧
      (0x3000 ≤ off → off < 0x3800 → width = 4 ∨ width = 8 → off % width = 0 →
        r = natOfBytes ((List.range width).map fun i => f.msixByte (off - 0x3000 + i))) ∧
      (off = 0x3800 → r = if width = 8 then f.pba else 0) ∧
      (fn ≠ 0 → 0x4000 ≤ off → r = 0) ∧
      (fn = 0 → 0x4000 ≤ off → off < 0x6000 → off % 32 = 0 →
        r = if width = 32 then peers 0 256 else if width = 4 then peers 0 32 else 0) ∧
      (fn = 0 → 0x4000 ≤ off → off < 0x6000 → off % 32 = 4 → r = if width = 4 then peers 32 32 else 0) ∧
      (fn = 0 → 0x4000 ≤ off → off < 0x6000 → off % 32 = 8 → r = if width = 8 then peers 64 64 else 0) ∧
      (fn = 0 → 0x4000 ≤ off → off < 0x6000 → off % 32 = 16 → r = if width = 16 then peers 128 128 else 0) ∧
      (0x6000 ≤ off → r = 0) ∧ (0x3808 ≤ off → off < 0x4000 → r = 0))

/-- R355, R361: a message of a function that is there, Nightjar ready, is answered in the mailbox and moves the responder; IDE_KM, LOCK, START and
STOP of a function in a session move its keys and its interface, a breach of a locked one puts it in ERROR; anything else changes nothing.
The order of the messages is the model's (log entry 14). -/
def Obligations.SecurityEventResults : Prop :=
  Answers .getVersion (fun _ => True) (fun _ => 1) ∧ Answers .getCapabilities (· = 1) (fun _ => 2) ∧
  Answers .negotiateAlgorithms (· = 2) (fun _ => 3) ∧ Answers .getDigests (3 ≤ ·) (fun n => n) ∧
  Answers .getCertificate (3 ≤ ·) (fun n => n) ∧ Answers .challenge (3 ≤ ·) (fun n => n) ∧ Answers .getMeasurements (3 ≤ ·) (fun n => n) ∧
  Answers .keyExchange (3 ≤ ·) (fun _ => 4) ∧ Answers .finish (· = 4) (fun _ => 5) ∧
  (∀ (s : State) fn, s.ready.getLsbD 77 = true → there s fn → 3 ≤ (s.fn fn).spdm → ∃ s', exec (.getMeasurements fn) s = .next s' ∧
    (∃ dies, tbGet (s'.fn fn).measured 3 = some [s.ready.toNat, s.poolz, dies] ∧ dies < 16 ∧
      ∀ d < 4, dies.testBit d = (s.die d).fenced) ∧
    (fn ≠ 0 → ∃ more, let q := s.part (fn - 1)
      tbGet (s'.fn fn).measured 0x10 = some ([q.imageHash, q.nonce, q.rows, q.ports, q.pool, q.mode] ++ more)) ∧
    (fn = 0 → tbGet (s'.fn fn).measured 0x10 = none) ∧
    ∃ before after, (s'.fn fn).mailbox = before ++ ((s'.fn fn).measured.flatMap fun m => natBytes 1 m.1 ++ m.2.flatMap (natBytes 48)) ++ after) ∧
  ∀ (s : State) fn,
    let f := s.fn fn
    let session := s.ready.getLsbD 77 = true ∧ there s fn ∧ f.spdm = 5
    let moves := fun (i : Instr) (need : Tdisp → Prop) (go : Tdisp) =>
      (fn ≠ 0 → session → need f.tdisp → exec i s = .next (s.setFn fn { f with tdisp := go })) ∧
      (fn = 0 ∨ ¬session ∨ ¬need f.tdisp → exec i s = .next s)
    (session → exec (.ideKm fn) s = .next (s.setFn fn { f with ideKey := true })) ∧ (¬session → exec (.ideKm fn) s = .next s) ∧
    moves (.lockInterface fn) (· = .unlocked) .locked ∧ moves (.startInterface fn) (· = .locked) .run ∧
    moves (.stopInterface fn) (· ≠ .unlocked) .unlocked ∧
    (fn ≠ 0 → there s fn → f.tdisp = .locked ∨ f.tdisp = .run → exec (.tdispBreach fn) s = .next (s.setFn fn { f with tdisp := .error })) ∧
    (fn = 0 ∨ ¬there s fn ∨ f.tdisp = .unlocked ∨ f.tdisp = .error → exec (.tdispBreach fn) s = .next s)

/-- R8, R341, R357, R368, R370, Table 18-1: the machine at reset: no power, no partition, no gang, no thread, no function ready, all memory zero,
a cap of 3,400 W. That memory outside the device reads zero, and the values of log entry 4, are the
model's. -/
def Obligations.ResetState : Prop :=
  let s := State.reset
  s.power = false ∧ s.ready = 0 ∧ s.powercap = 3400 ∧ s.poolz = 0 ∧ s.errcount = 0 ∧ s.parts = [] ∧ s.gangs = [] ∧ s.warps = [] ∧
    s.keyNo = 0 ∧ s.clk = 0 ∧ (∀ k, s.byteAt k = 0 ∧ s.tagged k = false) ∧
    (∀ fn, (s.fn fn).ringbase = 0 ∧ (s.fn fn).cmdcell = 0 ∧ (s.fn fn).expected = 1 ∧ (s.fn fn).tdisp = .unlocked ∧
      ∀ n < 128, (s.fn fn).masked n = true)

/-- The memory of the machine at reset is in canonical form. -/
def Obligations.ResetMeetsInvariant : Prop := Memory.wf State.reset.mem = true

/-- An invariant of every step from every state: memory keeps its canonical form (addresses strictly rising, no entry equal to what an
unlisted byte reads as), so that equal memories are equal data. -/
def Obligations.StepKeepsMemoryCanonical : Prop :=
  ∀ s s' : State, Memory.wf s.mem = true → step s = .next s' → Memory.wf s'.mem = true

/-- R35 to R48: the decoder reads every well-formed instruction back from the words the encoder gives it, whatever bytes follow. -/
def Obligations.DecodeReadsBackEncode : Prop := ∀ i : Instr, Laws.EncodeRoundTrip.Statement i

/-- R35, R37, R38, R42, R47: words written out from the encoding tables decode to what they stand for: IAMIN.i32.sat g10, g11, g12, g13; SHFL.rot
g5, g4, 1, p1; IADD64_BASE g8, #4; a reserved major opcode does not decode. -/
def Obligations.WordsDecode : Prop :=
  (∃ x : Ext, decodeWords [0x08070705, 0x0030160A, 0x0000000D] = .ok (.iamin x) ∧ x.d = 10 ∧ x.a = 11 ∧ x.b = 12 ∧ x.c = 13 ∧
    x.guard = 7 ∧ x.modA = 2 ∧ x.lit = none) ∧
  (∃ x : Ext, decodeWords [0x04070029, 0x00000805, 0x0010D200] = .ok (.shfl x) ∧ x.d = 5 ∧ x.a = 4) ∧
  (∃ d : RegIdx, decodeWords [0x28000806, 4, 0] = .ok (.iadd64Base d 0 (some 4)) ∧ d = 8) ∧
  ∃ e, decodeWords [0x000000FC] = .error e

namespace Sys2Proof.Claim

open Sys2Proof.Machine

/-- A warp's turn comes: n clk pass, the free issue slots are given, the listed errors strike memory, no warp of the same clk that had to
come later has moved (log entry 65), and its gang, whose launch has not ended, issues; s1 is the state then. -/
structure WarpTurn (s : State) (id : WarpId) (s1 : State) : Prop where
  turn : ∃ n rest us, s.turns = ⟨n, .warp id, us⟩ :: rest ∧
    let s0 := us.foldl State.strike (({ s with turns := rest } : State).passTurn n)
    s0.outOfTurn id = false ∧ s1 = s0.noteTurn id
  issues : s1.issues id.gang = true
  goes : (s1.launch id.gang.part id.gang.launch).ending = none

/-- The group at work in the warp, in the first run of its span, fetches the words ws at its PC, their slices started, after which the
state is s2. -/
structure GroupFetches (s1 : State) (id : WarpId) (g : Issue) (ws : List Word) (s2 : State) : Prop where
  cur : (s1.warp id).cur = some g
  phase : g.phase = .run
  inTime : g.overrun = none
  fresh : g.held = none
  fetch : ∃ s', s1.fetch ⟨id, g.lanes.headD 0⟩ g.pc = (s', .words ws) ∧
    s'.takeSlices id.gang.part (s'.fetchSlices ⟨id, g.lanes.headD 0⟩ g.pc ws.length) = (s2, true)

/-- The checks of Table 2-9 an instruction passes for a group: assigned and well-formed with its slot in range, privileged lanes where it
asks for them, register indices below the launch's count, no lookahead rule broken; windows end with their span (R45). -/
structure DecodesFor (s2 : State) (id : WarpId) (g : Issue) (ws : List Word) (i : Instr) : Prop where
  words : decodeWords ws = .ok i
  slot : slotOk i (s2.header id.gang).spillw = true
  privilege : i.form.privileged = true → ∀ l ∈ g.lanes, s2.privileged id ((s2.warp id).thread l) g.pc = true
  regs : regsOk i (s2.header id.gang).regs = true
  window : (i.ext.la = 0 ∨ i.form.longLatency = true) ∧
    (i.form.boundary = false → g.count < 24 → windowClash g.windows i = false)

/-- The group at work in the warp has an instruction: it has fetched and decoded it now, or decoded it before and kept it; in the first
run of its span, or behind its seal. -/
structure GroupHas (s1 : State) (id : WarpId) (g : Issue) (s2 : State) (i : Instr) : Prop where
  cur : (s1.warp id).cur = some g
  inTime : g.overrun = none
  has : g.held = some i ∧ s2 = s1 ∧ (g.phase = .run ∨ g.phase = .sealed) ∨
    ∃ ws, GroupFetches s1 id g ws s2 ∧ DecodesFor s2 id g ws i

/-- The instruction waits for no landed result of the seal: all have landed, or it is a SEAL, which waits itself (R79, R85). -/
def behindSeal (s2 : State) (id : WarpId) (g : Issue) (i : Instr) : Prop :=
  (s2.warp id).landed g.lanes = true ∨ (∃ x, i = .sealExt x) ∨ ∃ a b, i = .sealBase a b

/-- One warp comes before another in R278: while either has waited 4,096 clk, the longer waiting; else the higher launch priority, then the
longer waiting, then the lower workgroup slot, then the lower warp number. -/
def ComesBefore (s : State) (a b : WarpId × Warp) : Prop :=
  let wa := s.clk - s.lastMove a
  let wb := s.clk - s.lastMove b
  let pa := (s.header a.1.gang).prio
  let pb := (s.header b.1.gang).prio
  let sa := (s.wg a.1.wg).slot
  let sb := (s.wg b.1.wg).slot
  let longer := wb < wa ∨ wa = wb ∧ (sa < sb ∨ sa = sb ∧ a.1.warp < b.1.warp)
  if 4096 ≤ wa ∨ 4096 ≤ wb then longer else pb < pa ∨ pa = pb ∧ longer

/-- Issue groups and slots (R2, R80, R276 to R278): a warp's group is its ready lanes at the PC whose lanes have waited longest, among those
that are not held at their instruction (log entry 61); a core gives a free slot to the warp that comes first, and never holds more than four. -/
def GroupsForm : Prop :=
  (∀ (s : State) id pc, s.nextPc (id, s.warp id) = some pc →
    (∃ l ∈ (s.warp id).lanes, l.2.wait = .ready ∧ l.2.pc = pc ∧ s.lastMove (id, s.warp id) = l.2.lastIssue ∧
      (l.2.stalled = false ∨ s.groupHeld id pc = false) ∧
      ∀ k ∈ (s.warp id).lanes, k.2.wait = .ready → k.2.stalled = false ∨ s.groupHeld id k.2.pc = false →
        l.2.lastIssue ≤ k.2.lastIssue) ∧
    ∃ g, ((s.formGroup id pc).warp id).cur = some g ∧ g.entry = pc ∧ g.pc = pc ∧ g.count = 0 ∧ g.phase = .run ∧ g.held = none ∧
      ∀ l, l ∈ g.lanes ↔ l < 32 ∧ ∃ t, tbGet (s.warp id).lanes l = some t ∧ t.wait = .ready ∧ t.pc = pc) ∧
  (∀ (s : State) x pc, (s.warps.map Prod.fst).Nodup → x ∈ s.warps → s.seeksSlot x = true → s.nextPc x = some pc →
    s.slotsHeld (s.coreOf x.1) < 4 → (∀ y ∈ s.warps, s.coreOf y.1 = s.coreOf x.1 → ∀ l ∈ y.2.lanes, l.2.stalled = false) →
    (∀ y ∈ s.warps, y.1 ≠ x.1 → s.seeksSlot y = true → s.coreOf y.1 = s.coreOf x.1 → ComesBefore s x y) →
    ∃ n, s.grantSlots.warp x.1 = (({ s with nextId := n } : State).formGroup x.1 pc).warp x.1) ∧
  ∀ (s : State) c, s.slotsHeld c ≤ 4 → s.grantSlots.slotsHeld c ≤ 4

/-- What a fetch reads (R35, R36): a word is the four bytes at its translated PC; the length bits of the first say how many follow. -/
def FetchesWords : Prop :=
  (∀ (s : State) t (pc : Dword) s1 key rec, canonical pc.toNat = true → pc.toNat % 2 ^ 56 < 0xFE000000000000 →
    s.translate (s.who t) .fetch pc.toNat 4 = (s1, .ok key false rec none) →
      let w := BitVec.ofNat 32 (s1.readNat key 4)
      s1.lostPeer key = false → w % 4 = 0 → s.fetch t pc = (s1.countRead t.gang.part key (s1.readBytes key 4), .words [w])) ∧
  ∀ (s : State) t (pc : Dword) s1 key rec s2 key2 rec2 s3 key3 rec3,
    (∀ p ∈ [pc, pc + 4, pc + 8], canonical p.toNat = true ∧ p.toNat % 2 ^ 56 < 0xFE000000000000) →
    let c1 := s1.countRead t.gang.part key (s1.readBytes key 4)
    let c2 := s2.countRead t.gang.part key2 (s2.readBytes key2 4)
    s.translate (s.who t) .fetch pc.toNat 4 = (s1, .ok key false rec none) →
    c1.translate (c1.who t) .fetch (pc + 4).toNat 4 = (s2, .ok key2 false rec2 none) →
    c2.translate (c2.who t) .fetch (pc + 8).toNat 4 = (s3, .ok key3 false rec3 none) →
      let w := BitVec.ofNat 32 (s1.readNat key 4)
      s1.lostPeer key = false → s2.lostPeer key2 = false → s3.lostPeer key3 = false → w % 4 = 1 ∨ w % 4 = 2 →
        s.fetch t pc = (s3.countRead t.gang.part key3 (s3.readBytes key3 4),
          .words [w, BitVec.ofNat 32 (s2.readNat key2 4), BitVec.ofNat 32 (s3.readNat key3 4)])

/-- Time and what comes with it (R21, R231, R282, R346): a turn's clk pass for the device and for every partition that is not suspended; where a
budget is set, the gang at the head of the queues is kept with the clk since which it has had no free rectangle; an error that cannot be
corrected makes its ECC word poison, and none changes a byte. -/
def TimePasses : Prop :=
  (∀ (s : State) n, let s' := s.passTurn n
    s'.clk = s.clk + n ∧ s'.mem = s.mem ∧
    ∀ p, s.hasPart p = true → (s.parts.map Prod.fst).Nodup →
      ((s'.part p).ticks = if (s.part p).suspended then (s.part p).ticks else (s.part p).ticks + n) ∧
      (n ≠ 0 → (s.part p).reg 1 % 2 ^ 32 ≠ 0 →
        (s.headGang p = none → (s'.part p).starved = none) ∧
        ∀ w, s.headGang p = some w →
          (s.noRect w = false → (s'.part p).starved = none) ∧
          (s.noRect w = true →
            (∀ since, (s.part p).starved = some (w.gang, since) → (s'.part p).starved = some (w.gang, since)) ∧
            ((s.part p).starved = none → (s'.part p).starved = some (w.gang, s.clk)) ∧
            ∀ g since, (s.part p).starved = some (g, since) → w.gang ≠ g →
              ¬(w.hdr.cooperative = true ∧ w.gang.part = g.part ∧ w.gang.launch = g.launch) →
              (s'.part p).starved = some (w.gang, s.clk)))) ∧
  ∀ (s : State) u, (s.strike u).mem = s.mem ∧ (u.corrected = true → ∀ k, (s.strike u).poisonAt k = s.poisonAt k) ∧
    (u.corrected = false → isSram u.word = true ∨ isHbm u.word = true →
      ∀ k, (s.strike u).poisonAt k = (s.poisonAt k || decide (eccBase k = eccBase u.word)))

end Sys2Proof.Claim

/-- R35, R36, R45, R51, R79, R80, R90, R270, R277, R278: in a warp's turn, the instruction its group fetches and decodes at its PC is run as
soon as nothing holds it: step is exec of that instruction; before a boundary instruction, and before the 25th instruction of a span, the
span seals; a lane past its deadline takes the watchdog; a span whose results have landed frees its slot. How groups form, slots are
given, words are fetched and time passes. An event the state lists is performed, time passing first. That a decoded instruction is kept,
and the turn's order, are the model's (log entries 1, 64, 65). -/
def Obligations.StepRunsDecodedInstruction : Prop :=
  (∀ s id s1 g s2 i, WarpTurn s id s1 → GroupHas s1 id g s2 i →
    let s3 := s2.setWarp id { s2.warp id with cur := some { g with held := some i } }
    let free := (s2.warp id).scoreboard g i = false ∧ s2.nancBusy id i = false
    (i.form.boundary = false → g.phase = .run → g.count < 24 → free → step s = exec i { s3 with focus := some id }) ∧
    (i.form.boundary = false → g.phase = .run → 24 ≤ g.count → step s = exec (.spanSeal id) { s2 with focus := some id }) ∧
    (i.form.boundary = false → g.phase = .sealed → (s2.warp id).landed g.lanes = true →
      step s = .next (s2.setWarp id { s2.warp id with cur := none })) ∧
    (i.form.boundary = true → g.phase = .run → g.count ≠ 0 → step s = exec (.spanSeal id) { s3 with focus := some id }) ∧
    (i.form.boundary = true → g.phase = .sealed ∨ g.count = 0 → behindSeal s2 id g i → free →
      step s = exec i { s3 with focus := some id })) ∧
  (∀ s id s1 g l, WarpTurn s id s1 → (s1.warp id).cur = some g → g.overrun = some l →
    step s = exec (.watchdogFault ⟨id, l⟩) { s1 with focus := some id }) ∧
  (∀ (s : State) n i us rest, s.turns = ⟨n, .event i, us⟩ :: rest → i.form.ok = false → i.words = 0 →
    step s = exec i { us.foldl State.strike (({ s with turns := rest } : State).passTurn n) with focus := none }) ∧
  Claim.GroupsForm ∧ Claim.FetchesWords ∧ Claim.TimePasses

/-- R51, R83, R94, R290, R298: words that no instruction has, an index or a live count beyond the launch's registers, a lookahead rule
broken, or a privileged instruction without privilege, fault the lowest lane concerned at the span's entry, its span rolled back: it enters its
launch's handler with the record written; with no handler, or in a handler already, its launch ends. Stated of a span's first 24
instructions; the 25th is met by the next span (log entry 64). -/
def Obligations.DecodeFaultResults : Prop :=
  ∀ s id s1 g ws s2, WarpTurn s id s1 → GroupFetches s1 id g ws s2 → g.count < 24 →
    (∀ l ∈ g.lanes, ((s2.warp id).thread l).flt = none) → g.lanes.Nodup → g.lanes ≠ [] →
    let low := g.lanes.headD 0
    let h := s2.header id.gang
    let faults := fun (l kind : Nat) =>
      let t := rolledBack ((s2.warp id).thread l) g.entry
      (h.handler ≠ 0 → t.inHandler = false → ∃ s', step s = .next s' ∧ s'.mem = s2.mem ∧
        s'.thread ⟨id, l⟩ =
          entered t l ⟨kind, g.pc.toNat, (ws.headD 0).toNat⟩ g.entry g.entry (BitVec.ofNat 64 h.handler)) ∧
      (h.handler = 0 ∨ t.inHandler = true → id.gang.launch ≠ 0 → ∃ s', step s = .next s' ∧
        (s'.launch id.gang.part id.gang.launch).ending = some (4, kind, 0, id.gang.gang))
    ((∃ e, decodeWords ws = .error e) → faults low 1) ∧
    ∀ i, decodeWords ws = .ok i →
      let l0 := (g.lanes.filter fun l => !s2.privileged id ((s2.warp id).thread l) g.pc).head?
      (slotOk i h.spillw = false → faults low 1) ∧
      (slotOk i h.spillw = true →
        (∀ l, i.form.privileged = true → l0 = some l → faults l 5) ∧
        (i.form.privileged = false ∨ l0 = none →
          (regsOk i h.regs = false → faults low 2) ∧
          (regsOk i h.regs = true →
            i.ext.la ≠ 0 ∧ i.form.longLatency = false ∨ i.form.boundary = false ∧ windowClash g.windows i = true → faults low 3)))
end

