-- ==== Sys2Proof/Laws/Table.lean ====
section
/-! SUPPORT. Laws of the tables: reading after writing, and the canonical form of sparse maps. -/

namespace Sys2Proof.Machine

section assoc
variable {α β : Type} [DecidableEq α]

@[simp] theorem tbGet_nil (k : α) : tbGet ([] : List (α × β)) k = none := rfl

theorem tbGet_cons (a : α) (v : β) (m : List (α × β)) (k : α) :
    tbGet ((a, v) :: m) k = if a = k then some v else tbGet m k := rfl

/-- A table reads back what was written. -/
@[simp] theorem tbGet_tbSet_self (m : List (α × β)) (k : α) (v : β) : tbGet (tbSet m k v) k = some v := by
  induction m with
  | nil => simp [tbSet, tbGet]
  | cons h m ih =>
    obtain ⟨a, w⟩ := h
    by_cases e : a = k <;> simp [tbSet, tbGet, e, ih]

/-- Every other key keeps its entry. -/
theorem tbGet_tbSet_ne (m : List (α × β)) {k k' : α} (v : β) (h : k ≠ k') : tbGet (tbSet m k v) k' = tbGet m k' := by
  induction m with
  | nil => simp [tbSet, tbGet, h]
  | cons e m ih =>
    obtain ⟨a, w⟩ := e
    by_cases e : a = k
    · subst e; simp [tbSet, tbGet, h]
    · simp only [tbSet, e, if_false, tbGet, ih]

theorem tbGet_tbSet (m : List (α × β)) (k k' : α) (v : β) :
    tbGet (tbSet m k v) k' = if k = k' then some v else tbGet m k' := by
  by_cases h : k = k'
  · subst h; simp
  · simp [h, tbGet_tbSet_ne]

theorem tbGet_tbModify (m : List (α × β)) (k k' : α) (f : β → β) :
    tbGet (tbModify m k f) k' = if k = k' then (tbGet m k').map f else tbGet m k' := by
  induction m with
  | nil => simp [tbModify, tbGet]
  | cons e m ih =>
    obtain ⟨a, w⟩ := e
    by_cases e : a = k
    · subst e; by_cases h : a = k' <;> simp [tbModify, tbGet, h]
    · by_cases e' : a = k' <;> simp_all [tbModify, tbGet, eq_comm]

theorem tbGet_tbErase (m : List (α × β)) (k k' : α) : tbGet (tbErase m k) k' = if k = k' then none else tbGet m k' := by
  induction m with
  | nil => simp [tbErase, tbGet]
  | cons e m ih =>
    obtain ⟨a, w⟩ := e
    by_cases e : a = k
    · subst e; by_cases h : a = k' <;> simp_all [tbErase, tbGet]
    · by_cases e' : a = k' <;> simp_all [tbErase, tbGet, eq_comm]

/-- Changing every value of a table changes the value that is read. -/
theorem tbGet_mapVal (m : List (α × β)) (f : α → β → β) (k : α) :
    tbGet (m.map fun e => (e.1, f e.1 e.2)) k = (tbGet m k).map (f k) := by
  induction m with
  | nil => rfl
  | cons e m ih =>
    obtain ⟨a, w⟩ := e
    by_cases e : a = k
    · subst e; simp [tbGet]
    · simp [tbGet, e, ih]

end assoc

section sparse
variable {β : Type} [DecidableEq β] {d : β}

omit [DecidableEq β] in
@[simp] theorem smGet_nil (k : Nat) : smGet d [] k = d := rfl

omit [DecidableEq β] in
theorem smGet_smErase (m : List (Nat × β)) (k k' : Nat) :
    smGet d (smErase m k) k' = if k = k' then d else smGet d m k' := by
  induction m with
  | nil => simp [smErase, smGet]
  | cons e m ih =>
    obtain ⟨a, w⟩ := e
    by_cases e : a = k
    · subst e; by_cases h : a = k' <;> simp_all [smErase, smGet]
    · by_cases e' : a = k' <;> simp_all [smErase, smGet, eq_comm]

omit [DecidableEq β] in
theorem smGet_smInsert (m : List (Nat × β)) (k k' : Nat) (v : β) (h : ∀ e ∈ m, e.1 ≠ k) :
    smGet d (smInsert m k v) k' = if k = k' then v else smGet d m k' := by
  induction m with
  | nil => simp [smInsert, smGet]
  | cons e m ih =>
    obtain ⟨a, w⟩ := e
    have ha : a ≠ k := h _ (List.mem_cons_self ..)
    have ih := ih fun e he => h e (List.mem_cons_of_mem _ he)
    by_cases hk : k < a
    · simp [smInsert, hk, smGet]
    · simp only [smInsert, hk, if_false, smGet, ih]
      split <;> split <;> simp_all

omit [DecidableEq β] in
theorem smErase_ne (m : List (Nat × β)) (k : Nat) : ∀ e ∈ smErase m k, e.1 ≠ k := by
  induction m with
  | nil => simp [smErase]
  | cons e m ih =>
    obtain ⟨a, w⟩ := e
    by_cases e : a = k
    · simpa [smErase, e] using ih
    · simp only [smErase, e, if_false, List.mem_cons]
      rintro e (rfl | he)
      · assumption
      · exact ih e he

/-- A sparse map reads back what was written; every other key keeps its value. -/
theorem smGet_smSet (m : List (Nat × β)) (k k' : Nat) (v : β) :
    smGet d (smSet d m k v) k' = if k = k' then v else smGet d m k' := by
  by_cases h : v = d
  · simp only [smSet, h, if_true, smGet_smErase]
  · simp only [smSet, h, if_false]
    rw [smGet_smInsert _ _ _ _ (smErase_ne m k), smGet_smErase]
    by_cases e : k = k' <;> simp [e]

@[simp] theorem smGet_smSet_self (m : List (Nat × β)) (k : Nat) (v : β) : smGet d (smSet d m k v) k = v := by
  rw [smGet_smSet, if_pos rfl]

theorem smGet_smSet_ne (m : List (Nat × β)) {k k' : Nat} (v : β) (h : k ≠ k') :
    smGet d (smSet d m k v) k' = smGet d m k' := by rw [smGet_smSet, if_neg h]

/-- The canonical form, entry by entry: no default, and every key above `lo`. -/
def smAbove (d : β) : List (Nat × β) → Nat → Prop
  | [], _ => True
  | (a, v) :: m, lo => lo ≤ a ∧ v ≠ d ∧ smAbove d m (a + 1)

theorem smWf_above (m : List (Nat × β)) : smWf d m = true ↔ smAbove d m 0 := by
  suffices h : ∀ (m : List (Nat × β)) (a : Nat) (v : β), smWf d ((a, v) :: m) = true ↔ v ≠ d ∧ smAbove d m (a + 1) by
    cases m with
    | nil => simp [smWf, smAbove]
    | cons e m => obtain ⟨a, v⟩ := e; simp [h, smAbove]
  intro m
  induction m with
  | nil => intro a v; simp [smWf, smAbove]
  | cons e m ih =>
    obtain ⟨b, w⟩ := e
    intro a v
    simp only [smWf, Bool.and_eq_true, decide_eq_true_eq, ih, smAbove]
    constructor
    · rintro ⟨⟨h1, h2⟩, h3, h4⟩; exact ⟨h2, h1, h3, h4⟩
    · rintro ⟨h2, h1, h3, h4⟩; exact ⟨⟨h1, h2⟩, h3, h4⟩

omit [DecidableEq β] in
theorem smAbove_mono {m : List (Nat × β)} {lo hi : Nat} (h : hi ≤ lo) (hm : smAbove d m lo) : smAbove d m hi := by
  cases m with
  | nil => trivial
  | cons e m => exact ⟨Nat.le_trans h hm.1, hm.2⟩

omit [DecidableEq β] in
theorem smAbove_smErase {m : List (Nat × β)} {lo : Nat} (k : Nat) (hm : smAbove d m lo) : smAbove d (smErase m k) lo := by
  induction m generalizing lo with
  | nil => trivial
  | cons e m ih =>
    obtain ⟨a, w⟩ := e
    by_cases e : a = k
    · simpa [smErase, e] using smAbove_mono (by have := hm.1; omega) (ih hm.2.2)
    · simp only [smErase, e, if_false]; exact ⟨hm.1, hm.2.1, ih hm.2.2⟩

omit [DecidableEq β] in
theorem smAbove_smInsert {m : List (Nat × β)} {lo k : Nat} {v : β} (hlo : lo ≤ k) (hv : v ≠ d) (hk : ∀ e ∈ m, e.1 ≠ k)
    (hm : smAbove d m lo) : smAbove d (smInsert m k v) lo := by
  induction m generalizing lo with
  | nil => exact ⟨hlo, hv, trivial⟩
  | cons e m ih =>
    obtain ⟨a, w⟩ := e
    have ha : a ≠ k := hk _ (List.mem_cons_self ..)
    by_cases h : k < a
    · simp only [smInsert, h, if_true]; exact ⟨hlo, hv, h, hm.2.1, hm.2.2⟩
    · simp only [smInsert, h, if_false]
      exact ⟨hm.1, hm.2.1, ih (by omega) (fun e he => hk e (List.mem_cons_of_mem _ he)) hm.2.2⟩

omit [DecidableEq β] in
theorem smAbove_smFilter {m : List (Nat × β)} {lo : Nat} (p : Nat → Bool) (hm : smAbove d m lo) :
    smAbove d (smFilter p m) lo := by
  induction m generalizing lo with
  | nil => trivial
  | cons e m ih =>
    obtain ⟨a, w⟩ := e
    by_cases e : p a = true
    · simp only [smFilter, e, if_true]; exact ⟨hm.1, hm.2.1, ih hm.2.2⟩
    · simp only [smFilter, e]; exact smAbove_mono (by have := hm.1; omega) (ih hm.2.2)

/-- Writing keeps the canonical form. -/
theorem smWf_smSet {m : List (Nat × β)} (k : Nat) (v : β) (hm : smWf d m = true) : smWf d (smSet d m k v) = true := by
  rw [smWf_above] at hm ⊢
  unfold smSet
  split
  · exact smAbove_smErase k hm
  · exact smAbove_smInsert (Nat.zero_le _) ‹_› (smErase_ne m k) (smAbove_smErase k hm)

theorem smWf_smSetAll {m : List (Nat × β)} (cells : List (Nat × β)) (hm : smWf d m = true) :
    smWf d (smSetAll d m cells) = true := by
  induction cells generalizing m with
  | nil => exact hm
  | cons c cs ih => exact ih (smWf_smSet _ _ hm)

/-- Filtering keeps the canonical form. -/
theorem smWf_smFilter {m : List (Nat × β)} (p : Nat → Bool) (hm : smWf d m = true) : smWf d (smFilter p m) = true := by
  rw [smWf_above] at hm ⊢; exact smAbove_smFilter p hm

end sparse

end Sys2Proof.Machine
end

