-- ==== Sys2Proof/Laws/State.lean ====
section
/-! SUPPORT. What each update of the state leaves as it was, field by field, and what reading back gives. -/

namespace Sys2Proof.Machine

section setWarp_fields
variable (s : State) (w : WarpId) (v : Warp)
@[simp] theorem State.setWarp_wgs : (s.setWarp w v).wgs = s.wgs := rfl
@[simp] theorem State.setWarp_gangs : (s.setWarp w v).gangs = s.gangs := rfl
@[simp] theorem State.setWarp_parts : (s.setWarp w v).parts = s.parts := rfl
@[simp] theorem State.setWarp_cores : (s.setWarp w v).cores = s.cores := rfl
@[simp] theorem State.setWarp_dies : (s.setWarp w v).dies = s.dies := rfl
@[simp] theorem State.setWarp_fns : (s.setWarp w v).fns = s.fns := rfl
@[simp] theorem State.setWarp_mem : (s.setWarp w v).mem = s.mem := rfl
@[simp] theorem State.setWarp_poison : (s.setWarp w v).poison = s.poison := rfl
@[simp] theorem State.setWarp_fine : (s.setWarp w v).fine = s.fine := rfl
@[simp] theorem State.setWarp_struck : (s.setWarp w v).struck = s.struck := rfl
@[simp] theorem State.setWarp_tags : (s.setWarp w v).tags = s.tags := rfl
@[simp] theorem State.setWarp_coreQ : (s.setWarp w v).coreQ = s.coreQ := rfl
@[simp] theorem State.setWarp_dieQ : (s.setWarp w v).dieQ = s.dieQ := rfl
@[simp] theorem State.setWarp_gateQ : (s.setWarp w v).gateQ = s.gateQ := rfl
@[simp] theorem State.setWarp_past : (s.setWarp w v).past = s.past := rfl
@[simp] theorem State.setWarp_raced : (s.setWarp w v).raced = s.raced := rfl
@[simp] theorem State.setWarp_seqs : (s.setWarp w v).seqs = s.seqs := rfl
@[simp] theorem State.setWarp_barSync : (s.setWarp w v).barSync = s.barSync := rfl
@[simp] theorem State.setWarp_deltas : (s.setWarp w v).deltas = s.deltas := rfl
@[simp] theorem State.setWarp_ready : (s.setWarp w v).ready = s.ready := rfl
@[simp] theorem State.setWarp_risen : (s.setWarp w v).risen = s.risen := rfl
@[simp] theorem State.setWarp_missed : (s.setWarp w v).missed = s.missed := rfl
@[simp] theorem State.setWarp_badStacks : (s.setWarp w v).badStacks = s.badStacks := rfl
@[simp] theorem State.setWarp_poolz : (s.setWarp w v).poolz = s.poolz := rfl
@[simp] theorem State.setWarp_devid : (s.setWarp w v).devid = s.devid := rfl
@[simp] theorem State.setWarp_powercap : (s.setWarp w v).powercap = s.powercap := rfl
@[simp] theorem State.setWarp_errcount : (s.setWarp w v).errcount = s.errcount := rfl
@[simp] theorem State.setWarp_peers : (s.setWarp w v).peers = s.peers := rfl
@[simp] theorem State.setWarp_peerSeq : (s.setWarp w v).peerSeq = s.peerSeq := rfl
@[simp] theorem State.setWarp_unreachable : (s.setWarp w v).unreachable = s.unreachable := rfl
@[simp] theorem State.setWarp_keyNo : (s.setWarp w v).keyNo = s.keyNo := rfl
@[simp] theorem State.setWarp_keyed : (s.setWarp w v).keyed = s.keyed := rfl
@[simp] theorem State.setWarp_power : (s.setWarp w v).power = s.power := rfl
@[simp] theorem State.setWarp_throttled : (s.setWarp w v).throttled = s.throttled := rfl
@[simp] theorem State.setWarp_overCap : (s.setWarp w v).overCap = s.overCap := rfl
@[simp] theorem State.setWarp_servedFn : (s.setWarp w v).servedFn = s.servedFn := rfl
@[simp] theorem State.setWarp_served : (s.setWarp w v).served = s.served := rfl
@[simp] theorem State.setWarp_reply : (s.setWarp w v).reply = s.reply := rfl
@[simp] theorem State.setWarp_refills : (s.setWarp w v).refills = s.refills := rfl
@[simp] theorem State.setWarp_clk : (s.setWarp w v).clk = s.clk := rfl
@[simp] theorem State.setWarp_nextId : (s.setWarp w v).nextId = s.nextId := rfl
@[simp] theorem State.setWarp_fresh : (s.setWarp w v).fresh = s.fresh := rfl
@[simp] theorem State.setWarp_lastTurns : (s.setWarp w v).lastTurns = s.lastTurns := rfl
@[simp] theorem State.setWarp_turns : (s.setWarp w v).turns = s.turns := rfl
@[simp] theorem State.setWarp_focus : (s.setWarp w v).focus = s.focus := rfl
end setWarp_fields

section modWarp_fields
variable (s : State) (w : WarpId) (f : Warp → Warp)
@[simp] theorem State.modWarp_wgs : (s.modWarp w f).wgs = s.wgs := rfl
@[simp] theorem State.modWarp_gangs : (s.modWarp w f).gangs = s.gangs := rfl
@[simp] theorem State.modWarp_parts : (s.modWarp w f).parts = s.parts := rfl
@[simp] theorem State.modWarp_cores : (s.modWarp w f).cores = s.cores := rfl
@[simp] theorem State.modWarp_dies : (s.modWarp w f).dies = s.dies := rfl
@[simp] theorem State.modWarp_fns : (s.modWarp w f).fns = s.fns := rfl
@[simp] theorem State.modWarp_mem : (s.modWarp w f).mem = s.mem := rfl
@[simp] theorem State.modWarp_poison : (s.modWarp w f).poison = s.poison := rfl
@[simp] theorem State.modWarp_fine : (s.modWarp w f).fine = s.fine := rfl
@[simp] theorem State.modWarp_struck : (s.modWarp w f).struck = s.struck := rfl
@[simp] theorem State.modWarp_tags : (s.modWarp w f).tags = s.tags := rfl
@[simp] theorem State.modWarp_coreQ : (s.modWarp w f).coreQ = s.coreQ := rfl
@[simp] theorem State.modWarp_dieQ : (s.modWarp w f).dieQ = s.dieQ := rfl
@[simp] theorem State.modWarp_gateQ : (s.modWarp w f).gateQ = s.gateQ := rfl
@[simp] theorem State.modWarp_past : (s.modWarp w f).past = s.past := rfl
@[simp] theorem State.modWarp_raced : (s.modWarp w f).raced = s.raced := rfl
@[simp] theorem State.modWarp_seqs : (s.modWarp w f).seqs = s.seqs := rfl
@[simp] theorem State.modWarp_barSync : (s.modWarp w f).barSync = s.barSync := rfl
@[simp] theorem State.modWarp_deltas : (s.modWarp w f).deltas = s.deltas := rfl
@[simp] theorem State.modWarp_ready : (s.modWarp w f).ready = s.ready := rfl
@[simp] theorem State.modWarp_risen : (s.modWarp w f).risen = s.risen := rfl
@[simp] theorem State.modWarp_missed : (s.modWarp w f).missed = s.missed := rfl
@[simp] theorem State.modWarp_badStacks : (s.modWarp w f).badStacks = s.badStacks := rfl
@[simp] theorem State.modWarp_poolz : (s.modWarp w f).poolz = s.poolz := rfl
@[simp] theorem State.modWarp_devid : (s.modWarp w f).devid = s.devid := rfl
@[simp] theorem State.modWarp_powercap : (s.modWarp w f).powercap = s.powercap := rfl
@[simp] theorem State.modWarp_errcount : (s.modWarp w f).errcount = s.errcount := rfl
@[simp] theorem State.modWarp_peers : (s.modWarp w f).peers = s.peers := rfl
@[simp] theorem State.modWarp_peerSeq : (s.modWarp w f).peerSeq = s.peerSeq := rfl
@[simp] theorem State.modWarp_unreachable : (s.modWarp w f).unreachable = s.unreachable := rfl
@[simp] theorem State.modWarp_keyNo : (s.modWarp w f).keyNo = s.keyNo := rfl
@[simp] theorem State.modWarp_keyed : (s.modWarp w f).keyed = s.keyed := rfl
@[simp] theorem State.modWarp_power : (s.modWarp w f).power = s.power := rfl
@[simp] theorem State.modWarp_throttled : (s.modWarp w f).throttled = s.throttled := rfl
@[simp] theorem State.modWarp_overCap : (s.modWarp w f).overCap = s.overCap := rfl
@[simp] theorem State.modWarp_servedFn : (s.modWarp w f).servedFn = s.servedFn := rfl
@[simp] theorem State.modWarp_served : (s.modWarp w f).served = s.served := rfl
@[simp] theorem State.modWarp_reply : (s.modWarp w f).reply = s.reply := rfl
@[simp] theorem State.modWarp_refills : (s.modWarp w f).refills = s.refills := rfl
@[simp] theorem State.modWarp_clk : (s.modWarp w f).clk = s.clk := rfl
@[simp] theorem State.modWarp_nextId : (s.modWarp w f).nextId = s.nextId := rfl
@[simp] theorem State.modWarp_fresh : (s.modWarp w f).fresh = s.fresh := rfl
@[simp] theorem State.modWarp_lastTurns : (s.modWarp w f).lastTurns = s.lastTurns := rfl
@[simp] theorem State.modWarp_turns : (s.modWarp w f).turns = s.turns := rfl
@[simp] theorem State.modWarp_focus : (s.modWarp w f).focus = s.focus := rfl
end modWarp_fields

section setWg_fields
variable (s : State) (w : WgId) (v : Wg)
@[simp] theorem State.setWg_warps : (s.setWg w v).warps = s.warps := rfl
@[simp] theorem State.setWg_gangs : (s.setWg w v).gangs = s.gangs := rfl
@[simp] theorem State.setWg_parts : (s.setWg w v).parts = s.parts := rfl
@[simp] theorem State.setWg_cores : (s.setWg w v).cores = s.cores := rfl
@[simp] theorem State.setWg_dies : (s.setWg w v).dies = s.dies := rfl
@[simp] theorem State.setWg_fns : (s.setWg w v).fns = s.fns := rfl
@[simp] theorem State.setWg_mem : (s.setWg w v).mem = s.mem := rfl
@[simp] theorem State.setWg_poison : (s.setWg w v).poison = s.poison := rfl
@[simp] theorem State.setWg_fine : (s.setWg w v).fine = s.fine := rfl
@[simp] theorem State.setWg_struck : (s.setWg w v).struck = s.struck := rfl
@[simp] theorem State.setWg_tags : (s.setWg w v).tags = s.tags := rfl
@[simp] theorem State.setWg_coreQ : (s.setWg w v).coreQ = s.coreQ := rfl
@[simp] theorem State.setWg_dieQ : (s.setWg w v).dieQ = s.dieQ := rfl
@[simp] theorem State.setWg_gateQ : (s.setWg w v).gateQ = s.gateQ := rfl
@[simp] theorem State.setWg_past : (s.setWg w v).past = s.past := rfl
@[simp] theorem State.setWg_raced : (s.setWg w v).raced = s.raced := rfl
@[simp] theorem State.setWg_seqs : (s.setWg w v).seqs = s.seqs := rfl
@[simp] theorem State.setWg_barSync : (s.setWg w v).barSync = s.barSync := rfl
@[simp] theorem State.setWg_deltas : (s.setWg w v).deltas = s.deltas := rfl
@[simp] theorem State.setWg_ready : (s.setWg w v).ready = s.ready := rfl
@[simp] theorem State.setWg_risen : (s.setWg w v).risen = s.risen := rfl
@[simp] theorem State.setWg_missed : (s.setWg w v).missed = s.missed := rfl
@[simp] theorem State.setWg_badStacks : (s.setWg w v).badStacks = s.badStacks := rfl
@[simp] theorem State.setWg_poolz : (s.setWg w v).poolz = s.poolz := rfl
@[simp] theorem State.setWg_devid : (s.setWg w v).devid = s.devid := rfl
@[simp] theorem State.setWg_powercap : (s.setWg w v).powercap = s.powercap := rfl
@[simp] theorem State.setWg_errcount : (s.setWg w v).errcount = s.errcount := rfl
@[simp] theorem State.setWg_peers : (s.setWg w v).peers = s.peers := rfl
@[simp] theorem State.setWg_peerSeq : (s.setWg w v).peerSeq = s.peerSeq := rfl
@[simp] theorem State.setWg_unreachable : (s.setWg w v).unreachable = s.unreachable := rfl
@[simp] theorem State.setWg_keyNo : (s.setWg w v).keyNo = s.keyNo := rfl
@[simp] theorem State.setWg_keyed : (s.setWg w v).keyed = s.keyed := rfl
@[simp] theorem State.setWg_power : (s.setWg w v).power = s.power := rfl
@[simp] theorem State.setWg_throttled : (s.setWg w v).throttled = s.throttled := rfl
@[simp] theorem State.setWg_overCap : (s.setWg w v).overCap = s.overCap := rfl
@[simp] theorem State.setWg_servedFn : (s.setWg w v).servedFn = s.servedFn := rfl
@[simp] theorem State.setWg_served : (s.setWg w v).served = s.served := rfl
@[simp] theorem State.setWg_reply : (s.setWg w v).reply = s.reply := rfl
@[simp] theorem State.setWg_refills : (s.setWg w v).refills = s.refills := rfl
@[simp] theorem State.setWg_clk : (s.setWg w v).clk = s.clk := rfl
@[simp] theorem State.setWg_nextId : (s.setWg w v).nextId = s.nextId := rfl
@[simp] theorem State.setWg_fresh : (s.setWg w v).fresh = s.fresh := rfl
@[simp] theorem State.setWg_lastTurns : (s.setWg w v).lastTurns = s.lastTurns := rfl
@[simp] theorem State.setWg_turns : (s.setWg w v).turns = s.turns := rfl
@[simp] theorem State.setWg_focus : (s.setWg w v).focus = s.focus := rfl
end setWg_fields

section setGang_fields
variable (s : State) (g : GangId) (v : Gang)
@[simp] theorem State.setGang_warps : (s.setGang g v).warps = s.warps := rfl
@[simp] theorem State.setGang_wgs : (s.setGang g v).wgs = s.wgs := rfl
@[simp] theorem State.setGang_parts : (s.setGang g v).parts = s.parts := rfl
@[simp] theorem State.setGang_cores : (s.setGang g v).cores = s.cores := rfl
@[simp] theorem State.setGang_dies : (s.setGang g v).dies = s.dies := rfl
@[simp] theorem State.setGang_fns : (s.setGang g v).fns = s.fns := rfl
@[simp] theorem State.setGang_mem : (s.setGang g v).mem = s.mem := rfl
@[simp] theorem State.setGang_poison : (s.setGang g v).poison = s.poison := rfl
@[simp] theorem State.setGang_fine : (s.setGang g v).fine = s.fine := rfl
@[simp] theorem State.setGang_struck : (s.setGang g v).struck = s.struck := rfl
@[simp] theorem State.setGang_tags : (s.setGang g v).tags = s.tags := rfl
@[simp] theorem State.setGang_coreQ : (s.setGang g v).coreQ = s.coreQ := rfl
@[simp] theorem State.setGang_dieQ : (s.setGang g v).dieQ = s.dieQ := rfl
@[simp] theorem State.setGang_gateQ : (s.setGang g v).gateQ = s.gateQ := rfl
@[simp] theorem State.setGang_past : (s.setGang g v).past = s.past := rfl
@[simp] theorem State.setGang_raced : (s.setGang g v).raced = s.raced := rfl
@[simp] theorem State.setGang_seqs : (s.setGang g v).seqs = s.seqs := rfl
@[simp] theorem State.setGang_barSync : (s.setGang g v).barSync = s.barSync := rfl
@[simp] theorem State.setGang_deltas : (s.setGang g v).deltas = s.deltas := rfl
@[simp] theorem State.setGang_ready : (s.setGang g v).ready = s.ready := rfl
@[simp] theorem State.setGang_risen : (s.setGang g v).risen = s.risen := rfl
@[simp] theorem State.setGang_missed : (s.setGang g v).missed = s.missed := rfl
@[simp] theorem State.setGang_badStacks : (s.setGang g v).badStacks = s.badStacks := rfl
@[simp] theorem State.setGang_poolz : (s.setGang g v).poolz = s.poolz := rfl
@[simp] theorem State.setGang_devid : (s.setGang g v).devid = s.devid := rfl
@[simp] theorem State.setGang_powercap : (s.setGang g v).powercap = s.powercap := rfl
@[simp] theorem State.setGang_errcount : (s.setGang g v).errcount = s.errcount := rfl
@[simp] theorem State.setGang_peers : (s.setGang g v).peers = s.peers := rfl
@[simp] theorem State.setGang_peerSeq : (s.setGang g v).peerSeq = s.peerSeq := rfl
@[simp] theorem State.setGang_unreachable : (s.setGang g v).unreachable = s.unreachable := rfl
@[simp] theorem State.setGang_keyNo : (s.setGang g v).keyNo = s.keyNo := rfl
@[simp] theorem State.setGang_keyed : (s.setGang g v).keyed = s.keyed := rfl
@[simp] theorem State.setGang_power : (s.setGang g v).power = s.power := rfl
@[simp] theorem State.setGang_throttled : (s.setGang g v).throttled = s.throttled := rfl
@[simp] theorem State.setGang_overCap : (s.setGang g v).overCap = s.overCap := rfl
@[simp] theorem State.setGang_servedFn : (s.setGang g v).servedFn = s.servedFn := rfl
@[simp] theorem State.setGang_served : (s.setGang g v).served = s.served := rfl
@[simp] theorem State.setGang_reply : (s.setGang g v).reply = s.reply := rfl
@[simp] theorem State.setGang_refills : (s.setGang g v).refills = s.refills := rfl
@[simp] theorem State.setGang_clk : (s.setGang g v).clk = s.clk := rfl
@[simp] theorem State.setGang_nextId : (s.setGang g v).nextId = s.nextId := rfl
@[simp] theorem State.setGang_fresh : (s.setGang g v).fresh = s.fresh := rfl
@[simp] theorem State.setGang_lastTurns : (s.setGang g v).lastTurns = s.lastTurns := rfl
@[simp] theorem State.setGang_turns : (s.setGang g v).turns = s.turns := rfl
@[simp] theorem State.setGang_focus : (s.setGang g v).focus = s.focus := rfl
end setGang_fields

section setPart_fields
variable (s : State) (p : Nat) (v : Part)
@[simp] theorem State.setPart_warps : (s.setPart p v).warps = s.warps := rfl
@[simp] theorem State.setPart_wgs : (s.setPart p v).wgs = s.wgs := rfl
@[simp] theorem State.setPart_gangs : (s.setPart p v).gangs = s.gangs := rfl
@[simp] theorem State.setPart_cores : (s.setPart p v).cores = s.cores := rfl
@[simp] theorem State.setPart_dies : (s.setPart p v).dies = s.dies := rfl
@[simp] theorem State.setPart_fns : (s.setPart p v).fns = s.fns := rfl
@[simp] theorem State.setPart_mem : (s.setPart p v).mem = s.mem := rfl
@[simp] theorem State.setPart_poison : (s.setPart p v).poison = s.poison := rfl
@[simp] theorem State.setPart_fine : (s.setPart p v).fine = s.fine := rfl
@[simp] theorem State.setPart_struck : (s.setPart p v).struck = s.struck := rfl
@[simp] theorem State.setPart_tags : (s.setPart p v).tags = s.tags := rfl
@[simp] theorem State.setPart_coreQ : (s.setPart p v).coreQ = s.coreQ := rfl
@[simp] theorem State.setPart_dieQ : (s.setPart p v).dieQ = s.dieQ := rfl
@[simp] theorem State.setPart_gateQ : (s.setPart p v).gateQ = s.gateQ := rfl
@[simp] theorem State.setPart_past : (s.setPart p v).past = s.past := rfl
@[simp] theorem State.setPart_raced : (s.setPart p v).raced = s.raced := rfl
@[simp] theorem State.setPart_seqs : (s.setPart p v).seqs = s.seqs := rfl
@[simp] theorem State.setPart_barSync : (s.setPart p v).barSync = s.barSync := rfl
@[simp] theorem State.setPart_deltas : (s.setPart p v).deltas = s.deltas := rfl
@[simp] theorem State.setPart_ready : (s.setPart p v).ready = s.ready := rfl
@[simp] theorem State.setPart_risen : (s.setPart p v).risen = s.risen := rfl
@[simp] theorem State.setPart_missed : (s.setPart p v).missed = s.missed := rfl
@[simp] theorem State.setPart_badStacks : (s.setPart p v).badStacks = s.badStacks := rfl
@[simp] theorem State.setPart_poolz : (s.setPart p v).poolz = s.poolz := rfl
@[simp] theorem State.setPart_devid : (s.setPart p v).devid = s.devid := rfl
@[simp] theorem State.setPart_powercap : (s.setPart p v).powercap = s.powercap := rfl
@[simp] theorem State.setPart_errcount : (s.setPart p v).errcount = s.errcount := rfl
@[simp] theorem State.setPart_peers : (s.setPart p v).peers = s.peers := rfl
@[simp] theorem State.setPart_peerSeq : (s.setPart p v).peerSeq = s.peerSeq := rfl
@[simp] theorem State.setPart_unreachable : (s.setPart p v).unreachable = s.unreachable := rfl
@[simp] theorem State.setPart_keyNo : (s.setPart p v).keyNo = s.keyNo := rfl
@[simp] theorem State.setPart_keyed : (s.setPart p v).keyed = s.keyed := rfl
@[simp] theorem State.setPart_power : (s.setPart p v).power = s.power := rfl
@[simp] theorem State.setPart_throttled : (s.setPart p v).throttled = s.throttled := rfl
@[simp] theorem State.setPart_overCap : (s.setPart p v).overCap = s.overCap := rfl
@[simp] theorem State.setPart_servedFn : (s.setPart p v).servedFn = s.servedFn := rfl
@[simp] theorem State.setPart_served : (s.setPart p v).served = s.served := rfl
@[simp] theorem State.setPart_reply : (s.setPart p v).reply = s.reply := rfl
@[simp] theorem State.setPart_refills : (s.setPart p v).refills = s.refills := rfl
@[simp] theorem State.setPart_clk : (s.setPart p v).clk = s.clk := rfl
@[simp] theorem State.setPart_nextId : (s.setPart p v).nextId = s.nextId := rfl
@[simp] theorem State.setPart_fresh : (s.setPart p v).fresh = s.fresh := rfl
@[simp] theorem State.setPart_lastTurns : (s.setPart p v).lastTurns = s.lastTurns := rfl
@[simp] theorem State.setPart_turns : (s.setPart p v).turns = s.turns := rfl
@[simp] theorem State.setPart_focus : (s.setPart p v).focus = s.focus := rfl
end setPart_fields

section setCore_fields
variable (s : State) (c : Nat) (v : Core)
@[simp] theorem State.setCore_warps : (s.setCore c v).warps = s.warps := rfl
@[simp] theorem State.setCore_wgs : (s.setCore c v).wgs = s.wgs := rfl
@[simp] theorem State.setCore_gangs : (s.setCore c v).gangs = s.gangs := rfl
@[simp] theorem State.setCore_parts : (s.setCore c v).parts = s.parts := rfl
@[simp] theorem State.setCore_dies : (s.setCore c v).dies = s.dies := rfl
@[simp] theorem State.setCore_fns : (s.setCore c v).fns = s.fns := rfl
@[simp] theorem State.setCore_mem : (s.setCore c v).mem = s.mem := rfl
@[simp] theorem State.setCore_poison : (s.setCore c v).poison = s.poison := rfl
@[simp] theorem State.setCore_fine : (s.setCore c v).fine = s.fine := rfl
@[simp] theorem State.setCore_struck : (s.setCore c v).struck = s.struck := rfl
@[simp] theorem State.setCore_tags : (s.setCore c v).tags = s.tags := rfl
@[simp] theorem State.setCore_coreQ : (s.setCore c v).coreQ = s.coreQ := rfl
@[simp] theorem State.setCore_dieQ : (s.setCore c v).dieQ = s.dieQ := rfl
@[simp] theorem State.setCore_gateQ : (s.setCore c v).gateQ = s.gateQ := rfl
@[simp] theorem State.setCore_past : (s.setCore c v).past = s.past := rfl
@[simp] theorem State.setCore_raced : (s.setCore c v).raced = s.raced := rfl
@[simp] theorem State.setCore_seqs : (s.setCore c v).seqs = s.seqs := rfl
@[simp] theorem State.setCore_barSync : (s.setCore c v).barSync = s.barSync := rfl
@[simp] theorem State.setCore_deltas : (s.setCore c v).deltas = s.deltas := rfl
@[simp] theorem State.setCore_ready : (s.setCore c v).ready = s.ready := rfl
@[simp] theorem State.setCore_risen : (s.setCore c v).risen = s.risen := rfl
@[simp] theorem State.setCore_missed : (s.setCore c v).missed = s.missed := rfl
@[simp] theorem State.setCore_badStacks : (s.setCore c v).badStacks = s.badStacks := rfl
@[simp] theorem State.setCore_poolz : (s.setCore c v).poolz = s.poolz := rfl
@[simp] theorem State.setCore_devid : (s.setCore c v).devid = s.devid := rfl
@[simp] theorem State.setCore_powercap : (s.setCore c v).powercap = s.powercap := rfl
@[simp] theorem State.setCore_errcount : (s.setCore c v).errcount = s.errcount := rfl
@[simp] theorem State.setCore_peers : (s.setCore c v).peers = s.peers := rfl
@[simp] theorem State.setCore_peerSeq : (s.setCore c v).peerSeq = s.peerSeq := rfl
@[simp] theorem State.setCore_unreachable : (s.setCore c v).unreachable = s.unreachable := rfl
@[simp] theorem State.setCore_keyNo : (s.setCore c v).keyNo = s.keyNo := rfl
@[simp] theorem State.setCore_keyed : (s.setCore c v).keyed = s.keyed := rfl
@[simp] theorem State.setCore_power : (s.setCore c v).power = s.power := rfl
@[simp] theorem State.setCore_throttled : (s.setCore c v).throttled = s.throttled := rfl
@[simp] theorem State.setCore_overCap : (s.setCore c v).overCap = s.overCap := rfl
@[simp] theorem State.setCore_servedFn : (s.setCore c v).servedFn = s.servedFn := rfl
@[simp] theorem State.setCore_served : (s.setCore c v).served = s.served := rfl
@[simp] theorem State.setCore_reply : (s.setCore c v).reply = s.reply := rfl
@[simp] theorem State.setCore_refills : (s.setCore c v).refills = s.refills := rfl
@[simp] theorem State.setCore_clk : (s.setCore c v).clk = s.clk := rfl
@[simp] theorem State.setCore_nextId : (s.setCore c v).nextId = s.nextId := rfl
@[simp] theorem State.setCore_fresh : (s.setCore c v).fresh = s.fresh := rfl
@[simp] theorem State.setCore_lastTurns : (s.setCore c v).lastTurns = s.lastTurns := rfl
@[simp] theorem State.setCore_turns : (s.setCore c v).turns = s.turns := rfl
@[simp] theorem State.setCore_focus : (s.setCore c v).focus = s.focus := rfl
end setCore_fields

section setDie_fields
variable (s : State) (d : Nat) (v : Die)
@[simp] theorem State.setDie_warps : (s.setDie d v).warps = s.warps := rfl
@[simp] theorem State.setDie_wgs : (s.setDie d v).wgs = s.wgs := rfl
@[simp] theorem State.setDie_gangs : (s.setDie d v).gangs = s.gangs := rfl
@[simp] theorem State.setDie_parts : (s.setDie d v).parts = s.parts := rfl
@[simp] theorem State.setDie_cores : (s.setDie d v).cores = s.cores := rfl
@[simp] theorem State.setDie_fns : (s.setDie d v).fns = s.fns := rfl
@[simp] theorem State.setDie_mem : (s.setDie d v).mem = s.mem := rfl
@[simp] theorem State.setDie_poison : (s.setDie d v).poison = s.poison := rfl
@[simp] theorem State.setDie_fine : (s.setDie d v).fine = s.fine := rfl
@[simp] theorem State.setDie_struck : (s.setDie d v).struck = s.struck := rfl
@[simp] theorem State.setDie_tags : (s.setDie d v).tags = s.tags := rfl
@[simp] theorem State.setDie_coreQ : (s.setDie d v).coreQ = s.coreQ := rfl
@[simp] theorem State.setDie_dieQ : (s.setDie d v).dieQ = s.dieQ := rfl
@[simp] theorem State.setDie_gateQ : (s.setDie d v).gateQ = s.gateQ := rfl
@[simp] theorem State.setDie_past : (s.setDie d v).past = s.past := rfl
@[simp] theorem State.setDie_raced : (s.setDie d v).raced = s.raced := rfl
@[simp] theorem State.setDie_seqs : (s.setDie d v).seqs = s.seqs := rfl
@[simp] theorem State.setDie_barSync : (s.setDie d v).barSync = s.barSync := rfl
@[simp] theorem State.setDie_deltas : (s.setDie d v).deltas = s.deltas := rfl
@[simp] theorem State.setDie_ready : (s.setDie d v).ready = s.ready := rfl
@[simp] theorem State.setDie_risen : (s.setDie d v).risen = s.risen := rfl
@[simp] theorem State.setDie_missed : (s.setDie d v).missed = s.missed := rfl
@[simp] theorem State.setDie_badStacks : (s.setDie d v).badStacks = s.badStacks := rfl
@[simp] theorem State.setDie_poolz : (s.setDie d v).poolz = s.poolz := rfl
@[simp] theorem State.setDie_devid : (s.setDie d v).devid = s.devid := rfl
@[simp] theorem State.setDie_powercap : (s.setDie d v).powercap = s.powercap := rfl
@[simp] theorem State.setDie_errcount : (s.setDie d v).errcount = s.errcount := rfl
@[simp] theorem State.setDie_peers : (s.setDie d v).peers = s.peers := rfl
@[simp] theorem State.setDie_peerSeq : (s.setDie d v).peerSeq = s.peerSeq := rfl
@[simp] theorem State.setDie_unreachable : (s.setDie d v).unreachable = s.unreachable := rfl
@[simp] theorem State.setDie_keyNo : (s.setDie d v).keyNo = s.keyNo := rfl
@[simp] theorem State.setDie_keyed : (s.setDie d v).keyed = s.keyed := rfl
@[simp] theorem State.setDie_power : (s.setDie d v).power = s.power := rfl
@[simp] theorem State.setDie_throttled : (s.setDie d v).throttled = s.throttled := rfl
@[simp] theorem State.setDie_overCap : (s.setDie d v).overCap = s.overCap := rfl
@[simp] theorem State.setDie_servedFn : (s.setDie d v).servedFn = s.servedFn := rfl
@[simp] theorem State.setDie_served : (s.setDie d v).served = s.served := rfl
@[simp] theorem State.setDie_reply : (s.setDie d v).reply = s.reply := rfl
@[simp] theorem State.setDie_refills : (s.setDie d v).refills = s.refills := rfl
@[simp] theorem State.setDie_clk : (s.setDie d v).clk = s.clk := rfl
@[simp] theorem State.setDie_nextId : (s.setDie d v).nextId = s.nextId := rfl
@[simp] theorem State.setDie_fresh : (s.setDie d v).fresh = s.fresh := rfl
@[simp] theorem State.setDie_lastTurns : (s.setDie d v).lastTurns = s.lastTurns := rfl
@[simp] theorem State.setDie_turns : (s.setDie d v).turns = s.turns := rfl
@[simp] theorem State.setDie_focus : (s.setDie d v).focus = s.focus := rfl
end setDie_fields

section setFn_fields
variable (s : State) (f : Nat) (v : Fn)
@[simp] theorem State.setFn_warps : (s.setFn f v).warps = s.warps := rfl
@[simp] theorem State.setFn_wgs : (s.setFn f v).wgs = s.wgs := rfl
@[simp] theorem State.setFn_gangs : (s.setFn f v).gangs = s.gangs := rfl
@[simp] theorem State.setFn_parts : (s.setFn f v).parts = s.parts := rfl
@[simp] theorem State.setFn_cores : (s.setFn f v).cores = s.cores := rfl
@[simp] theorem State.setFn_dies : (s.setFn f v).dies = s.dies := rfl
@[simp] theorem State.setFn_mem : (s.setFn f v).mem = s.mem := rfl
@[simp] theorem State.setFn_poison : (s.setFn f v).poison = s.poison := rfl
@[simp] theorem State.setFn_fine : (s.setFn f v).fine = s.fine := rfl
@[simp] theorem State.setFn_struck : (s.setFn f v).struck = s.struck := rfl
@[simp] theorem State.setFn_tags : (s.setFn f v).tags = s.tags := rfl
@[simp] theorem State.setFn_coreQ : (s.setFn f v).coreQ = s.coreQ := rfl
@[simp] theorem State.setFn_dieQ : (s.setFn f v).dieQ = s.dieQ := rfl
@[simp] theorem State.setFn_gateQ : (s.setFn f v).gateQ = s.gateQ := rfl
@[simp] theorem State.setFn_past : (s.setFn f v).past = s.past := rfl
@[simp] theorem State.setFn_raced : (s.setFn f v).raced = s.raced := rfl
@[simp] theorem State.setFn_seqs : (s.setFn f v).seqs = s.seqs := rfl
@[simp] theorem State.setFn_barSync : (s.setFn f v).barSync = s.barSync := rfl
@[simp] theorem State.setFn_deltas : (s.setFn f v).deltas = s.deltas := rfl
@[simp] theorem State.setFn_ready : (s.setFn f v).ready = s.ready := rfl
@[simp] theorem State.setFn_risen : (s.setFn f v).risen = s.risen := rfl
@[simp] theorem State.setFn_missed : (s.setFn f v).missed = s.missed := rfl
@[simp] theorem State.setFn_badStacks : (s.setFn f v).badStacks = s.badStacks := rfl
@[simp] theorem State.setFn_poolz : (s.setFn f v).poolz = s.poolz := rfl
@[simp] theorem State.setFn_devid : (s.setFn f v).devid = s.devid := rfl
@[simp] theorem State.setFn_powercap : (s.setFn f v).powercap = s.powercap := rfl
@[simp] theorem State.setFn_errcount : (s.setFn f v).errcount = s.errcount := rfl
@[simp] theorem State.setFn_peers : (s.setFn f v).peers = s.peers := rfl
@[simp] theorem State.setFn_peerSeq : (s.setFn f v).peerSeq = s.peerSeq := rfl
@[simp] theorem State.setFn_unreachable : (s.setFn f v).unreachable = s.unreachable := rfl
@[simp] theorem State.setFn_keyNo : (s.setFn f v).keyNo = s.keyNo := rfl
@[simp] theorem State.setFn_keyed : (s.setFn f v).keyed = s.keyed := rfl
@[simp] theorem State.setFn_power : (s.setFn f v).power = s.power := rfl
@[simp] theorem State.setFn_throttled : (s.setFn f v).throttled = s.throttled := rfl
@[simp] theorem State.setFn_overCap : (s.setFn f v).overCap = s.overCap := rfl
@[simp] theorem State.setFn_servedFn : (s.setFn f v).servedFn = s.servedFn := rfl
@[simp] theorem State.setFn_served : (s.setFn f v).served = s.served := rfl
@[simp] theorem State.setFn_reply : (s.setFn f v).reply = s.reply := rfl
@[simp] theorem State.setFn_refills : (s.setFn f v).refills = s.refills := rfl
@[simp] theorem State.setFn_clk : (s.setFn f v).clk = s.clk := rfl
@[simp] theorem State.setFn_nextId : (s.setFn f v).nextId = s.nextId := rfl
@[simp] theorem State.setFn_fresh : (s.setFn f v).fresh = s.fresh := rfl
@[simp] theorem State.setFn_lastTurns : (s.setFn f v).lastTurns = s.lastTurns := rfl
@[simp] theorem State.setFn_turns : (s.setFn f v).turns = s.turns := rfl
@[simp] theorem State.setFn_focus : (s.setFn f v).focus = s.focus := rfl
end setFn_fields

section writeBytes_fields
variable (s : State) (key : Nat) (bs : List PByte)
@[simp] theorem State.writeBytes_warps : (s.writeBytes key bs).warps = s.warps := rfl
@[simp] theorem State.writeBytes_wgs : (s.writeBytes key bs).wgs = s.wgs := rfl
@[simp] theorem State.writeBytes_gangs : (s.writeBytes key bs).gangs = s.gangs := rfl
@[simp] theorem State.writeBytes_parts : (s.writeBytes key bs).parts = s.parts := rfl
@[simp] theorem State.writeBytes_cores : (s.writeBytes key bs).cores = s.cores := rfl
@[simp] theorem State.writeBytes_dies : (s.writeBytes key bs).dies = s.dies := rfl
@[simp] theorem State.writeBytes_fns : (s.writeBytes key bs).fns = s.fns := rfl
@[simp] theorem State.writeBytes_tags : (s.writeBytes key bs).tags = s.tags := rfl
@[simp] theorem State.writeBytes_coreQ : (s.writeBytes key bs).coreQ = s.coreQ := rfl
@[simp] theorem State.writeBytes_dieQ : (s.writeBytes key bs).dieQ = s.dieQ := rfl
@[simp] theorem State.writeBytes_gateQ : (s.writeBytes key bs).gateQ = s.gateQ := rfl
@[simp] theorem State.writeBytes_past : (s.writeBytes key bs).past = s.past := rfl
@[simp] theorem State.writeBytes_raced : (s.writeBytes key bs).raced = s.raced := rfl
@[simp] theorem State.writeBytes_seqs : (s.writeBytes key bs).seqs = s.seqs := rfl
@[simp] theorem State.writeBytes_barSync : (s.writeBytes key bs).barSync = s.barSync := rfl
@[simp] theorem State.writeBytes_deltas : (s.writeBytes key bs).deltas = s.deltas := rfl
@[simp] theorem State.writeBytes_ready : (s.writeBytes key bs).ready = s.ready := rfl
@[simp] theorem State.writeBytes_risen : (s.writeBytes key bs).risen = s.risen := rfl
@[simp] theorem State.writeBytes_missed : (s.writeBytes key bs).missed = s.missed := rfl
@[simp] theorem State.writeBytes_badStacks : (s.writeBytes key bs).badStacks = s.badStacks := rfl
@[simp] theorem State.writeBytes_poolz : (s.writeBytes key bs).poolz = s.poolz := rfl
@[simp] theorem State.writeBytes_devid : (s.writeBytes key bs).devid = s.devid := rfl
@[simp] theorem State.writeBytes_powercap : (s.writeBytes key bs).powercap = s.powercap := rfl
@[simp] theorem State.writeBytes_errcount : (s.writeBytes key bs).errcount = s.errcount := rfl
@[simp] theorem State.writeBytes_peers : (s.writeBytes key bs).peers = s.peers := rfl
@[simp] theorem State.writeBytes_peerSeq : (s.writeBytes key bs).peerSeq = s.peerSeq := rfl
@[simp] theorem State.writeBytes_unreachable : (s.writeBytes key bs).unreachable = s.unreachable := rfl
@[simp] theorem State.writeBytes_keyNo : (s.writeBytes key bs).keyNo = s.keyNo := rfl
@[simp] theorem State.writeBytes_keyed : (s.writeBytes key bs).keyed = s.keyed := rfl
@[simp] theorem State.writeBytes_power : (s.writeBytes key bs).power = s.power := rfl
@[simp] theorem State.writeBytes_throttled : (s.writeBytes key bs).throttled = s.throttled := rfl
@[simp] theorem State.writeBytes_overCap : (s.writeBytes key bs).overCap = s.overCap := rfl
@[simp] theorem State.writeBytes_servedFn : (s.writeBytes key bs).servedFn = s.servedFn := rfl
@[simp] theorem State.writeBytes_served : (s.writeBytes key bs).served = s.served := rfl
@[simp] theorem State.writeBytes_reply : (s.writeBytes key bs).reply = s.reply := rfl
@[simp] theorem State.writeBytes_refills : (s.writeBytes key bs).refills = s.refills := rfl
@[simp] theorem State.writeBytes_clk : (s.writeBytes key bs).clk = s.clk := rfl
@[simp] theorem State.writeBytes_nextId : (s.writeBytes key bs).nextId = s.nextId := rfl
@[simp] theorem State.writeBytes_fresh : (s.writeBytes key bs).fresh = s.fresh := rfl
@[simp] theorem State.writeBytes_lastTurns : (s.writeBytes key bs).lastTurns = s.lastTurns := rfl
@[simp] theorem State.writeBytes_turns : (s.writeBytes key bs).turns = s.turns := rfl
@[simp] theorem State.writeBytes_focus : (s.writeBytes key bs).focus = s.focus := rfl
end writeBytes_fields

section zeroFill_fields
variable (s : State) (inside : Nat → Bool)
@[simp] theorem State.zeroFill_warps : (s.zeroFill inside).warps = s.warps := rfl
@[simp] theorem State.zeroFill_wgs : (s.zeroFill inside).wgs = s.wgs := rfl
@[simp] theorem State.zeroFill_gangs : (s.zeroFill inside).gangs = s.gangs := rfl
@[simp] theorem State.zeroFill_parts : (s.zeroFill inside).parts = s.parts := rfl
@[simp] theorem State.zeroFill_cores : (s.zeroFill inside).cores = s.cores := rfl
@[simp] theorem State.zeroFill_dies : (s.zeroFill inside).dies = s.dies := rfl
@[simp] theorem State.zeroFill_fns : (s.zeroFill inside).fns = s.fns := rfl
@[simp] theorem State.zeroFill_coreQ : (s.zeroFill inside).coreQ = s.coreQ := rfl
@[simp] theorem State.zeroFill_dieQ : (s.zeroFill inside).dieQ = s.dieQ := rfl
@[simp] theorem State.zeroFill_gateQ : (s.zeroFill inside).gateQ = s.gateQ := rfl
@[simp] theorem State.zeroFill_seqs : (s.zeroFill inside).seqs = s.seqs := rfl
@[simp] theorem State.zeroFill_deltas : (s.zeroFill inside).deltas = s.deltas := rfl
@[simp] theorem State.zeroFill_ready : (s.zeroFill inside).ready = s.ready := rfl
@[simp] theorem State.zeroFill_risen : (s.zeroFill inside).risen = s.risen := rfl
@[simp] theorem State.zeroFill_missed : (s.zeroFill inside).missed = s.missed := rfl
@[simp] theorem State.zeroFill_badStacks : (s.zeroFill inside).badStacks = s.badStacks := rfl
@[simp] theorem State.zeroFill_poolz : (s.zeroFill inside).poolz = s.poolz := rfl
@[simp] theorem State.zeroFill_devid : (s.zeroFill inside).devid = s.devid := rfl
@[simp] theorem State.zeroFill_powercap : (s.zeroFill inside).powercap = s.powercap := rfl
@[simp] theorem State.zeroFill_errcount : (s.zeroFill inside).errcount = s.errcount := rfl
@[simp] theorem State.zeroFill_peers : (s.zeroFill inside).peers = s.peers := rfl
@[simp] theorem State.zeroFill_peerSeq : (s.zeroFill inside).peerSeq = s.peerSeq := rfl
@[simp] theorem State.zeroFill_unreachable : (s.zeroFill inside).unreachable = s.unreachable := rfl
@[simp] theorem State.zeroFill_keyNo : (s.zeroFill inside).keyNo = s.keyNo := rfl
@[simp] theorem State.zeroFill_keyed : (s.zeroFill inside).keyed = s.keyed := rfl
@[simp] theorem State.zeroFill_power : (s.zeroFill inside).power = s.power := rfl
@[simp] theorem State.zeroFill_throttled : (s.zeroFill inside).throttled = s.throttled := rfl
@[simp] theorem State.zeroFill_overCap : (s.zeroFill inside).overCap = s.overCap := rfl
@[simp] theorem State.zeroFill_servedFn : (s.zeroFill inside).servedFn = s.servedFn := rfl
@[simp] theorem State.zeroFill_served : (s.zeroFill inside).served = s.served := rfl
@[simp] theorem State.zeroFill_reply : (s.zeroFill inside).reply = s.reply := rfl
@[simp] theorem State.zeroFill_refills : (s.zeroFill inside).refills = s.refills := rfl
@[simp] theorem State.zeroFill_clk : (s.zeroFill inside).clk = s.clk := rfl
@[simp] theorem State.zeroFill_nextId : (s.zeroFill inside).nextId = s.nextId := rfl
@[simp] theorem State.zeroFill_fresh : (s.zeroFill inside).fresh = s.fresh := rfl
@[simp] theorem State.zeroFill_lastTurns : (s.zeroFill inside).lastTurns = s.lastTurns := rfl
@[simp] theorem State.zeroFill_turns : (s.zeroFill inside).turns = s.turns := rfl
@[simp] theorem State.zeroFill_focus : (s.zeroFill inside).focus = s.focus := rfl
end zeroFill_fields

section count_fields
variable (s : State) (p event n : Nat)
@[simp] theorem State.count_warps : (s.count p event n).warps = s.warps := by unfold State.count; split <;> rfl
@[simp] theorem State.count_wgs : (s.count p event n).wgs = s.wgs := by unfold State.count; split <;> rfl
@[simp] theorem State.count_gangs : (s.count p event n).gangs = s.gangs := by unfold State.count; split <;> rfl
@[simp] theorem State.count_cores : (s.count p event n).cores = s.cores := by unfold State.count; split <;> rfl
@[simp] theorem State.count_dies : (s.count p event n).dies = s.dies := by unfold State.count; split <;> rfl
@[simp] theorem State.count_fns : (s.count p event n).fns = s.fns := by unfold State.count; split <;> rfl
@[simp] theorem State.count_mem : (s.count p event n).mem = s.mem := by unfold State.count; split <;> rfl
@[simp] theorem State.count_poison : (s.count p event n).poison = s.poison := by unfold State.count; split <;> rfl
@[simp] theorem State.count_fine : (s.count p event n).fine = s.fine := by unfold State.count; split <;> rfl
@[simp] theorem State.count_struck : (s.count p event n).struck = s.struck := by unfold State.count; split <;> rfl
@[simp] theorem State.count_tags : (s.count p event n).tags = s.tags := by unfold State.count; split <;> rfl
@[simp] theorem State.count_coreQ : (s.count p event n).coreQ = s.coreQ := by unfold State.count; split <;> rfl
@[simp] theorem State.count_dieQ : (s.count p event n).dieQ = s.dieQ := by unfold State.count; split <;> rfl
@[simp] theorem State.count_gateQ : (s.count p event n).gateQ = s.gateQ := by unfold State.count; split <;> rfl
@[simp] theorem State.count_past : (s.count p event n).past = s.past := by unfold State.count; split <;> rfl
@[simp] theorem State.count_raced : (s.count p event n).raced = s.raced := by unfold State.count; split <;> rfl
@[simp] theorem State.count_seqs : (s.count p event n).seqs = s.seqs := by unfold State.count; split <;> rfl
@[simp] theorem State.count_barSync : (s.count p event n).barSync = s.barSync := by unfold State.count; split <;> rfl
@[simp] theorem State.count_deltas : (s.count p event n).deltas = s.deltas := by unfold State.count; split <;> rfl
@[simp] theorem State.count_ready : (s.count p event n).ready = s.ready := by unfold State.count; split <;> rfl
@[simp] theorem State.count_risen : (s.count p event n).risen = s.risen := by unfold State.count; split <;> rfl
@[simp] theorem State.count_missed : (s.count p event n).missed = s.missed := by unfold State.count; split <;> rfl
@[simp] theorem State.count_badStacks : (s.count p event n).badStacks = s.badStacks := by unfold State.count; split <;> rfl
@[simp] theorem State.count_poolz : (s.count p event n).poolz = s.poolz := by unfold State.count; split <;> rfl
@[simp] theorem State.count_devid : (s.count p event n).devid = s.devid := by unfold State.count; split <;> rfl
@[simp] theorem State.count_powercap : (s.count p event n).powercap = s.powercap := by unfold State.count; split <;> rfl
@[simp] theorem State.count_errcount : (s.count p event n).errcount = s.errcount := by unfold State.count; split <;> rfl
@[simp] theorem State.count_peers : (s.count p event n).peers = s.peers := by unfold State.count; split <;> rfl
@[simp] theorem State.count_peerSeq : (s.count p event n).peerSeq = s.peerSeq := by unfold State.count; split <;> rfl
@[simp] theorem State.count_unreachable : (s.count p event n).unreachable = s.unreachable := by unfold State.count; split <;> rfl
@[simp] theorem State.count_keyNo : (s.count p event n).keyNo = s.keyNo := by unfold State.count; split <;> rfl
@[simp] theorem State.count_keyed : (s.count p event n).keyed = s.keyed := by unfold State.count; split <;> rfl
@[simp] theorem State.count_power : (s.count p event n).power = s.power := by unfold State.count; split <;> rfl
@[simp] theorem State.count_throttled : (s.count p event n).throttled = s.throttled := by unfold State.count; split <;> rfl
@[simp] theorem State.count_overCap : (s.count p event n).overCap = s.overCap := by unfold State.count; split <;> rfl
@[simp] theorem State.count_servedFn : (s.count p event n).servedFn = s.servedFn := by unfold State.count; split <;> rfl
@[simp] theorem State.count_served : (s.count p event n).served = s.served := by unfold State.count; split <;> rfl
@[simp] theorem State.count_reply : (s.count p event n).reply = s.reply := by unfold State.count; split <;> rfl
@[simp] theorem State.count_refills : (s.count p event n).refills = s.refills := by unfold State.count; split <;> rfl
@[simp] theorem State.count_clk : (s.count p event n).clk = s.clk := by unfold State.count; split <;> rfl
@[simp] theorem State.count_nextId : (s.count p event n).nextId = s.nextId := by unfold State.count; split <;> rfl
@[simp] theorem State.count_fresh : (s.count p event n).fresh = s.fresh := by unfold State.count; split <;> rfl
@[simp] theorem State.count_lastTurns : (s.count p event n).lastTurns = s.lastTurns := by unfold State.count; split <;> rfl
@[simp] theorem State.count_turns : (s.count p event n).turns = s.turns := by unfold State.count; split <;> rfl
@[simp] theorem State.count_focus : (s.count p event n).focus = s.focus := by unfold State.count; split <;> rfl
end count_fields

section countIssue_fields
variable (s : State) (id : WarpId)
@[simp] theorem State.countIssue_warps : (s.countIssue id).warps = s.warps := by simp [State.countIssue]
@[simp] theorem State.countIssue_gangs : (s.countIssue id).gangs = s.gangs := by simp [State.countIssue]
@[simp] theorem State.countIssue_cores : (s.countIssue id).cores = s.cores := by simp [State.countIssue]
@[simp] theorem State.countIssue_dies : (s.countIssue id).dies = s.dies := by simp [State.countIssue]
@[simp] theorem State.countIssue_fns : (s.countIssue id).fns = s.fns := by simp [State.countIssue]
@[simp] theorem State.countIssue_mem : (s.countIssue id).mem = s.mem := by simp [State.countIssue]
@[simp] theorem State.countIssue_poison : (s.countIssue id).poison = s.poison := by simp [State.countIssue]
@[simp] theorem State.countIssue_fine : (s.countIssue id).fine = s.fine := by simp [State.countIssue]
@[simp] theorem State.countIssue_struck : (s.countIssue id).struck = s.struck := by simp [State.countIssue]
@[simp] theorem State.countIssue_tags : (s.countIssue id).tags = s.tags := by simp [State.countIssue]
@[simp] theorem State.countIssue_coreQ : (s.countIssue id).coreQ = s.coreQ := by simp [State.countIssue]
@[simp] theorem State.countIssue_dieQ : (s.countIssue id).dieQ = s.dieQ := by simp [State.countIssue]
@[simp] theorem State.countIssue_gateQ : (s.countIssue id).gateQ = s.gateQ := by simp [State.countIssue]
@[simp] theorem State.countIssue_past : (s.countIssue id).past = s.past := by simp [State.countIssue]
@[simp] theorem State.countIssue_raced : (s.countIssue id).raced = s.raced := by simp [State.countIssue]
@[simp] theorem State.countIssue_seqs : (s.countIssue id).seqs = s.seqs := by simp [State.countIssue]
@[simp] theorem State.countIssue_barSync : (s.countIssue id).barSync = s.barSync := by simp [State.countIssue]
@[simp] theorem State.countIssue_deltas : (s.countIssue id).deltas = s.deltas := by simp [State.countIssue]
@[simp] theorem State.countIssue_ready : (s.countIssue id).ready = s.ready := by simp [State.countIssue]
@[simp] theorem State.countIssue_risen : (s.countIssue id).risen = s.risen := by simp [State.countIssue]
@[simp] theorem State.countIssue_missed : (s.countIssue id).missed = s.missed := by simp [State.countIssue]
@[simp] theorem State.countIssue_badStacks : (s.countIssue id).badStacks = s.badStacks := by simp [State.countIssue]
@[simp] theorem State.countIssue_poolz : (s.countIssue id).poolz = s.poolz := by simp [State.countIssue]
@[simp] theorem State.countIssue_devid : (s.countIssue id).devid = s.devid := by simp [State.countIssue]
@[simp] theorem State.countIssue_powercap : (s.countIssue id).powercap = s.powercap := by simp [State.countIssue]
@[simp] theorem State.countIssue_errcount : (s.countIssue id).errcount = s.errcount := by simp [State.countIssue]
@[simp] theorem State.countIssue_peers : (s.countIssue id).peers = s.peers := by simp [State.countIssue]
@[simp] theorem State.countIssue_peerSeq : (s.countIssue id).peerSeq = s.peerSeq := by simp [State.countIssue]
@[simp] theorem State.countIssue_unreachable : (s.countIssue id).unreachable = s.unreachable := by simp [State.countIssue]
@[simp] theorem State.countIssue_keyNo : (s.countIssue id).keyNo = s.keyNo := by simp [State.countIssue]
@[simp] theorem State.countIssue_keyed : (s.countIssue id).keyed = s.keyed := by simp [State.countIssue]
@[simp] theorem State.countIssue_power : (s.countIssue id).power = s.power := by simp [State.countIssue]
@[simp] theorem State.countIssue_throttled : (s.countIssue id).throttled = s.throttled := by simp [State.countIssue]
@[simp] theorem State.countIssue_overCap : (s.countIssue id).overCap = s.overCap := by simp [State.countIssue]
@[simp] theorem State.countIssue_servedFn : (s.countIssue id).servedFn = s.servedFn := by simp [State.countIssue]
@[simp] theorem State.countIssue_served : (s.countIssue id).served = s.served := by simp [State.countIssue]
@[simp] theorem State.countIssue_reply : (s.countIssue id).reply = s.reply := by simp [State.countIssue]
@[simp] theorem State.countIssue_refills : (s.countIssue id).refills = s.refills := by simp [State.countIssue]
@[simp] theorem State.countIssue_clk : (s.countIssue id).clk = s.clk := by simp [State.countIssue]
@[simp] theorem State.countIssue_nextId : (s.countIssue id).nextId = s.nextId := by simp [State.countIssue]
@[simp] theorem State.countIssue_fresh : (s.countIssue id).fresh = s.fresh := by simp [State.countIssue]
@[simp] theorem State.countIssue_lastTurns : (s.countIssue id).lastTurns = s.lastTurns := by simp [State.countIssue]
@[simp] theorem State.countIssue_turns : (s.countIssue id).turns = s.turns := by simp [State.countIssue]
@[simp] theorem State.countIssue_focus : (s.countIssue id).focus = s.focus := by simp [State.countIssue]
end countIssue_fields

/-- Reading back what setWarp put. -/
theorem State.warp_setWarp (s : State) (k k' : WarpId) (v : Warp) :
    (s.setWarp k v).warp k' = if k = k' then v else s.warp k' := by
  simp only [State.warp, State.setWarp, tbGet_tbSet]; split <;> rfl
@[simp] theorem State.warp_setWarp_self (s : State) (k : WarpId) (v : Warp) : (s.setWarp k v).warp k = v := by simp [State.warp_setWarp]

/-- Reading back what setWg put. -/
theorem State.wg_setWg (s : State) (k k' : WgId) (v : Wg) :
    (s.setWg k v).wg k' = if k = k' then v else s.wg k' := by
  simp only [State.wg, State.setWg, tbGet_tbSet]; split <;> rfl
@[simp] theorem State.wg_setWg_self (s : State) (k : WgId) (v : Wg) : (s.setWg k v).wg k = v := by simp [State.wg_setWg]

/-- Reading back what setGang put. -/
theorem State.gang_setGang (s : State) (k k' : GangId) (v : Gang) :
    (s.setGang k v).gang k' = if k = k' then v else s.gang k' := by
  simp only [State.gang, State.setGang, tbGet_tbSet]; split <;> rfl
@[simp] theorem State.gang_setGang_self (s : State) (k : GangId) (v : Gang) : (s.setGang k v).gang k = v := by simp [State.gang_setGang]

/-- Reading back what setPart put. -/
theorem State.part_setPart (s : State) (k k' : Nat) (v : Part) :
    (s.setPart k v).part k' = if k = k' then v else s.part k' := by
  simp only [State.part, State.setPart, tbGet_tbSet]; split <;> rfl
@[simp] theorem State.part_setPart_self (s : State) (k : Nat) (v : Part) : (s.setPart k v).part k = v := by simp [State.part_setPart]

/-- Reading back what setCore put. -/
theorem State.core_setCore (s : State) (k k' : Nat) (v : Core) :
    (s.setCore k v).core k' = if k = k' then v else s.core k' := by
  simp only [State.core, State.setCore, tbGet_tbSet]; split <;> rfl
@[simp] theorem State.core_setCore_self (s : State) (k : Nat) (v : Core) : (s.setCore k v).core k = v := by simp [State.core_setCore]

/-- Reading back what setDie put. -/
theorem State.die_setDie (s : State) (k k' : Nat) (v : Die) :
    (s.setDie k v).die k' = if k = k' then v else s.die k' := by
  simp only [State.die, State.setDie, tbGet_tbSet]; split <;> rfl
@[simp] theorem State.die_setDie_self (s : State) (k : Nat) (v : Die) : (s.setDie k v).die k = v := by simp [State.die_setDie]

/-- Reading back what setFn put. -/
theorem State.fn_setFn (s : State) (k k' : Nat) (v : Fn) :
    (s.setFn k v).fn k' = if k = k' then v else s.fn k' := by
  simp only [State.fn, State.setFn, tbGet_tbSet]; split <;> rfl
@[simp] theorem State.fn_setFn_self (s : State) (k : Nat) (v : Fn) : (s.setFn k v).fn k = v := by simp [State.fn_setFn]

@[simp] theorem State.warp_setWg (s : State) (w : WgId) (v : Wg) (k : WarpId) : (s.setWg w v).warp k = s.warp k := rfl
@[simp] theorem State.warp_setGang (s : State) (g : GangId) (v : Gang) (k : WarpId) : (s.setGang g v).warp k = s.warp k := rfl
@[simp] theorem State.warp_setPart (s : State) (p : Nat) (v : Part) (k : WarpId) : (s.setPart p v).warp k = s.warp k := rfl
@[simp] theorem State.warp_setCore (s : State) (c : Nat) (v : Core) (k : WarpId) : (s.setCore c v).warp k = s.warp k := rfl
@[simp] theorem State.warp_setDie (s : State) (d : Nat) (v : Die) (k : WarpId) : (s.setDie d v).warp k = s.warp k := rfl
@[simp] theorem State.warp_setFn (s : State) (f : Nat) (v : Fn) (k : WarpId) : (s.setFn f v).warp k = s.warp k := rfl
@[simp] theorem State.warp_writeBytes (s : State) (key : Nat) (bs : List PByte) (k : WarpId) : (s.writeBytes key bs).warp k = s.warp k := rfl
@[simp] theorem State.warp_zeroFill (s : State) (inside : Nat → Bool) (k : WarpId) : (s.zeroFill inside).warp k = s.warp k := rfl
@[simp] theorem State.warp_countIssue (s : State) (id : WarpId) (k : WarpId) : (s.countIssue id).warp k = s.warp k := by simp [State.warp]
@[simp] theorem State.warp_count (s : State) (p event n : Nat) (k : WarpId) : (s.count p event n).warp k = s.warp k := by
  unfold State.count; split <;> rfl
@[simp] theorem State.wg_setWarp (s : State) (w : WarpId) (v : Warp) (k : WgId) : (s.setWarp w v).wg k = s.wg k := rfl
@[simp] theorem State.wg_modWarp (s : State) (w : WarpId) (f : Warp → Warp) (k : WgId) : (s.modWarp w f).wg k = s.wg k := rfl
@[simp] theorem State.wg_setGang (s : State) (g : GangId) (v : Gang) (k : WgId) : (s.setGang g v).wg k = s.wg k := rfl
@[simp] theorem State.wg_setPart (s : State) (p : Nat) (v : Part) (k : WgId) : (s.setPart p v).wg k = s.wg k := rfl
@[simp] theorem State.wg_setCore (s : State) (c : Nat) (v : Core) (k : WgId) : (s.setCore c v).wg k = s.wg k := rfl
@[simp] theorem State.wg_setDie (s : State) (d : Nat) (v : Die) (k : WgId) : (s.setDie d v).wg k = s.wg k := rfl
@[simp] theorem State.wg_setFn (s : State) (f : Nat) (v : Fn) (k : WgId) : (s.setFn f v).wg k = s.wg k := rfl
@[simp] theorem State.wg_writeBytes (s : State) (key : Nat) (bs : List PByte) (k : WgId) : (s.writeBytes key bs).wg k = s.wg k := rfl
@[simp] theorem State.wg_zeroFill (s : State) (inside : Nat → Bool) (k : WgId) : (s.zeroFill inside).wg k = s.wg k := rfl
@[simp] theorem State.wg_count (s : State) (p event n : Nat) (k : WgId) : (s.count p event n).wg k = s.wg k := by
  unfold State.count; split <;> rfl
@[simp] theorem State.gang_setWarp (s : State) (w : WarpId) (v : Warp) (k : GangId) : (s.setWarp w v).gang k = s.gang k := rfl
@[simp] theorem State.gang_modWarp (s : State) (w : WarpId) (f : Warp → Warp) (k : GangId) : (s.modWarp w f).gang k = s.gang k := rfl
@[simp] theorem State.gang_setWg (s : State) (w : WgId) (v : Wg) (k : GangId) : (s.setWg w v).gang k = s.gang k := rfl
@[simp] theorem State.gang_setPart (s : State) (p : Nat) (v : Part) (k : GangId) : (s.setPart p v).gang k = s.gang k := rfl
@[simp] theorem State.gang_setCore (s : State) (c : Nat) (v : Core) (k : GangId) : (s.setCore c v).gang k = s.gang k := rfl
@[simp] theorem State.gang_setDie (s : State) (d : Nat) (v : Die) (k : GangId) : (s.setDie d v).gang k = s.gang k := rfl
@[simp] theorem State.gang_setFn (s : State) (f : Nat) (v : Fn) (k : GangId) : (s.setFn f v).gang k = s.gang k := rfl
@[simp] theorem State.gang_writeBytes (s : State) (key : Nat) (bs : List PByte) (k : GangId) : (s.writeBytes key bs).gang k = s.gang k := rfl
@[simp] theorem State.gang_zeroFill (s : State) (inside : Nat → Bool) (k : GangId) : (s.zeroFill inside).gang k = s.gang k := rfl
@[simp] theorem State.gang_countIssue (s : State) (id : WarpId) (k : GangId) : (s.countIssue id).gang k = s.gang k := by simp [State.gang]
@[simp] theorem State.gang_count (s : State) (p event n : Nat) (k : GangId) : (s.count p event n).gang k = s.gang k := by
  unfold State.count; split <;> rfl
@[simp] theorem State.part_setWarp (s : State) (w : WarpId) (v : Warp) (k : Nat) : (s.setWarp w v).part k = s.part k := rfl
@[simp] theorem State.part_modWarp (s : State) (w : WarpId) (f : Warp → Warp) (k : Nat) : (s.modWarp w f).part k = s.part k := rfl
@[simp] theorem State.part_setWg (s : State) (w : WgId) (v : Wg) (k : Nat) : (s.setWg w v).part k = s.part k := rfl
@[simp] theorem State.part_setGang (s : State) (g : GangId) (v : Gang) (k : Nat) : (s.setGang g v).part k = s.part k := rfl
@[simp] theorem State.part_setCore (s : State) (c : Nat) (v : Core) (k : Nat) : (s.setCore c v).part k = s.part k := rfl
@[simp] theorem State.part_setDie (s : State) (d : Nat) (v : Die) (k : Nat) : (s.setDie d v).part k = s.part k := rfl
@[simp] theorem State.part_setFn (s : State) (f : Nat) (v : Fn) (k : Nat) : (s.setFn f v).part k = s.part k := rfl
@[simp] theorem State.part_writeBytes (s : State) (key : Nat) (bs : List PByte) (k : Nat) : (s.writeBytes key bs).part k = s.part k := rfl
@[simp] theorem State.part_zeroFill (s : State) (inside : Nat → Bool) (k : Nat) : (s.zeroFill inside).part k = s.part k := rfl
@[simp] theorem State.core_setWarp (s : State) (w : WarpId) (v : Warp) (k : Nat) : (s.setWarp w v).core k = s.core k := rfl
@[simp] theorem State.core_modWarp (s : State) (w : WarpId) (f : Warp → Warp) (k : Nat) : (s.modWarp w f).core k = s.core k := rfl
@[simp] theorem State.core_setWg (s : State) (w : WgId) (v : Wg) (k : Nat) : (s.setWg w v).core k = s.core k := rfl
@[simp] theorem State.core_setGang (s : State) (g : GangId) (v : Gang) (k : Nat) : (s.setGang g v).core k = s.core k := rfl
@[simp] theorem State.core_setPart (s : State) (p : Nat) (v : Part) (k : Nat) : (s.setPart p v).core k = s.core k := rfl
@[simp] theorem State.core_setDie (s : State) (d : Nat) (v : Die) (k : Nat) : (s.setDie d v).core k = s.core k := rfl
@[simp] theorem State.core_setFn (s : State) (f : Nat) (v : Fn) (k : Nat) : (s.setFn f v).core k = s.core k := rfl
@[simp] theorem State.core_writeBytes (s : State) (key : Nat) (bs : List PByte) (k : Nat) : (s.writeBytes key bs).core k = s.core k := rfl
@[simp] theorem State.core_zeroFill (s : State) (inside : Nat → Bool) (k : Nat) : (s.zeroFill inside).core k = s.core k := rfl
@[simp] theorem State.core_countIssue (s : State) (id : WarpId) (k : Nat) : (s.countIssue id).core k = s.core k := by simp [State.core]
@[simp] theorem State.core_count (s : State) (p event n : Nat) (k : Nat) : (s.count p event n).core k = s.core k := by
  unfold State.count; split <;> rfl
@[simp] theorem State.die_setWarp (s : State) (w : WarpId) (v : Warp) (k : Nat) : (s.setWarp w v).die k = s.die k := rfl
@[simp] theorem State.die_modWarp (s : State) (w : WarpId) (f : Warp → Warp) (k : Nat) : (s.modWarp w f).die k = s.die k := rfl
@[simp] theorem State.die_setWg (s : State) (w : WgId) (v : Wg) (k : Nat) : (s.setWg w v).die k = s.die k := rfl
@[simp] theorem State.die_setGang (s : State) (g : GangId) (v : Gang) (k : Nat) : (s.setGang g v).die k = s.die k := rfl
@[simp] theorem State.die_setPart (s : State) (p : Nat) (v : Part) (k : Nat) : (s.setPart p v).die k = s.die k := rfl
@[simp] theorem State.die_setCore (s : State) (c : Nat) (v : Core) (k : Nat) : (s.setCore c v).die k = s.die k := rfl
@[simp] theorem State.die_setFn (s : State) (f : Nat) (v : Fn) (k : Nat) : (s.setFn f v).die k = s.die k := rfl
@[simp] theorem State.die_writeBytes (s : State) (key : Nat) (bs : List PByte) (k : Nat) : (s.writeBytes key bs).die k = s.die k := rfl
@[simp] theorem State.die_zeroFill (s : State) (inside : Nat → Bool) (k : Nat) : (s.zeroFill inside).die k = s.die k := rfl
@[simp] theorem State.die_countIssue (s : State) (id : WarpId) (k : Nat) : (s.countIssue id).die k = s.die k := by simp [State.die]
@[simp] theorem State.die_count (s : State) (p event n : Nat) (k : Nat) : (s.count p event n).die k = s.die k := by
  unfold State.count; split <;> rfl
@[simp] theorem State.fn_setWarp (s : State) (w : WarpId) (v : Warp) (k : Nat) : (s.setWarp w v).fn k = s.fn k := rfl
@[simp] theorem State.fn_modWarp (s : State) (w : WarpId) (f : Warp → Warp) (k : Nat) : (s.modWarp w f).fn k = s.fn k := rfl
@[simp] theorem State.fn_setWg (s : State) (w : WgId) (v : Wg) (k : Nat) : (s.setWg w v).fn k = s.fn k := rfl
@[simp] theorem State.fn_setGang (s : State) (g : GangId) (v : Gang) (k : Nat) : (s.setGang g v).fn k = s.fn k := rfl
@[simp] theorem State.fn_setPart (s : State) (p : Nat) (v : Part) (k : Nat) : (s.setPart p v).fn k = s.fn k := rfl
@[simp] theorem State.fn_setCore (s : State) (c : Nat) (v : Core) (k : Nat) : (s.setCore c v).fn k = s.fn k := rfl
@[simp] theorem State.fn_setDie (s : State) (d : Nat) (v : Die) (k : Nat) : (s.setDie d v).fn k = s.fn k := rfl
@[simp] theorem State.fn_writeBytes (s : State) (key : Nat) (bs : List PByte) (k : Nat) : (s.writeBytes key bs).fn k = s.fn k := rfl
@[simp] theorem State.fn_zeroFill (s : State) (inside : Nat → Bool) (k : Nat) : (s.zeroFill inside).fn k = s.fn k := rfl
@[simp] theorem State.fn_countIssue (s : State) (id : WarpId) (k : Nat) : (s.countIssue id).fn k = s.fn k := by simp [State.fn]
@[simp] theorem State.fn_count (s : State) (p event n : Nat) (k : Nat) : (s.count p event n).fn k = s.fn k := by
  unfold State.count; split <;> rfl

/-- A count touches the counters of one partition. -/
theorem State.part_count (s : State) (p event n q : Nat) :
    (s.count p event n).part q = { s.part q with counters := ((s.count p event n).part q).counters } := by
  unfold State.count
  split
  · rfl
  · simp only [State.modPart, State.part_setPart]
    split
    · subst_vars; rfl
    · rfl

@[simp] theorem State.launch_count (s : State) (p event n q k : Nat) : (s.count p event n).launch q k = s.launch q k := by
  simp only [State.launch]; rw [State.part_count]

@[simp] theorem State.header_count (s : State) (p event n : Nat) (g : GangId) : (s.count p event n).header g = s.header g := by
  simp only [State.header, State.launch_count]

@[simp] theorem State.header_countIssue (s : State) (id : WarpId) (g : GangId) : (s.countIssue id).header g = s.header g := by
  exact State.header_count s _ _ _ g

/-- Changing a warp changes it alone. -/
theorem State.warp_modWarp (s : State) (k k' : WarpId) (f : Warp → Warp) :
    (s.modWarp k f).warp k' = if k = k' then ((tbGet s.warps k).map f).getD Warp.absent else s.warp k' := by
  simp only [State.warp, State.modWarp, tbGet_tbModify]; split <;> simp_all

/-! ### Threads -/

@[simp] theorem Warp.thread_setThread_self (w : Warp) (l : Nat) (t : Thread) : (w.setThread l t).thread l = t := by
  simp [Warp.thread, Warp.setThread]

theorem Warp.thread_setThread (w : Warp) (l l' : Nat) (t : Thread) :
    (w.setThread l t).thread l' = if l = l' then t else w.thread l' := by
  simp only [Warp.thread, Warp.setThread, tbGet_tbSet]; split <;> rfl

/-- The thread a setThread puts. -/
@[simp] theorem State.thread_setThread_self (s : State) (t : ThreadId) (v : Thread) : (s.setThread t v).thread t = v := by
  simp [State.thread, State.setThread]

theorem State.thread_setThread (s : State) (t t' : ThreadId) (v : Thread) :
    (s.setThread t v).thread t' = if t = t' then v else s.thread t' := by
  obtain ⟨w, l⟩ := t
  obtain ⟨w', l'⟩ := t'
  simp only [State.thread, State.setThread, State.warp_setWarp, ThreadId.mk.injEq]
  by_cases h : w = w'
  · subst h; simp [Warp.thread_setThread]
  · simp [h]

/-! ### Registers -/

@[simp] theorem Thread.reg_zero (t : Thread) : t.reg 0 = .zero := rfl
@[simp] theorem Thread.writeReg_zero (t : Thread) (v : PWord) : t.writeReg 0 v = t := rfl

/-- A register reads back what was written; the others keep theirs (R10). -/
theorem Thread.reg_writeReg (t : Thread) (i : Nat) (r : RegIdx) (v : PWord) :
    (t.writeReg i v).reg r = if r = 0 then .zero else if i = r.toNat then v else t.reg r := by
  by_cases hr : r = 0
  · subst hr; rfl
  · have h0 : r.toNat ≠ 0 := fun h => hr (BitVec.eq_of_toNat_eq h)
    rw [if_neg hr]
    by_cases hi : i = 0
    · rw [hi, if_neg (Ne.symm h0)]; rfl
    · simp only [Thread.writeReg, if_neg hi, Thread.reg, if_neg hr, smGet_smSet]

end Sys2Proof.Machine
end

