-- ==== Sys2Proof/Laws/Lanes.lean ====
section
/-! SUPPORT. What a boundary instruction does in a group of one lane (spec/05 R84, R94). -/

namespace Sys2Proof.Machine

/-- The PC of the instruction after i in a group. -/
def Issue.after (g : Issue) (i : Instr) : Dword := g.pc + BitVec.ofNat 64 (4 * i.words)

/-- The state after a lane alone in its group has acted: `e` is its end, `s1` what its action made, `now` the clk it issued at. -/
def State.leftAlone (s1 : State) (i : Instr) (id : WarpId) (g : Issue) (l now : Nat) (whole : Bool) (e : LaneEnd) : State :=
  let w1 := s1.warp id
  let no := s1.nextId
  let logs := captured i no g.pc [(l, e)]
  let mates := (if whole && e.performed && !e.stops then [l] else []) ++ if e.performed then [] else [l]
  let w2 := w1.setThread l ((w1.thread l).leave e now no mates g.pc (g.after i))
  let s2 := { s1 with nextId := if logs = [] then no else no + 1 }.setWarp id
    { w2.syncShadow with cur := none, log := w2.log.filter LogEntry.boundary ++ logs }
  let s3 := if e.performed then s2.countIssue id else s2
  ((s3.endFault id g.pc (l, e)).deliverAll id g.pc [(l, e)]).modWarp id Warp.regroup

/-- A boundary instruction in a group of one lane whose guard is true. -/
theorem State.runLanes_alone {s : State} {i : Instr} {whole : Bool} {act : State → ThreadId → Dword → Dword → State × LaneEnd}
    {id : WarpId} {g : Issue} {l : Nat} (hf : s.focus = some id) (hc : (s.warp id).cur = some g) (hl : g.lanes = [l])
    (ho : (s.warp id).overrun i [l] = none) (hg : (s.thread ⟨id, l⟩).guard i.ext.guard = true) :
    s.runLanes i whole act =
      (act s ⟨id, l⟩ g.pc (g.after i)).1.leftAlone i id g l s.clk whole (act s ⟨id, l⟩ g.pc (g.after i)).2 := by
  rcases h : act s ⟨id, l⟩ g.pc (g.after i) with ⟨s1, e⟩
  simp only [Issue.after] at h
  have hr : runEach (fun a l => if (a.thread ⟨id, l⟩).guard i.ext.guard || !i.form.guarded then
      act a ⟨id, l⟩ g.pc (g.pc + BitVec.ofNat 64 (4 * i.words)) else (a, .go)) s [l] = (s1, [(l, e)]) := by
    simp only [runEach, hg, Bool.true_or, if_true, h]
    split <;> rfl
  simp only [State.runLanes, State.laneEnds, hf, hc, hl, hr]
  simp only [State.leftAlone, Issue.after]
  have hn : (s.warp id).overrun i [] = none := rfl
  cases e <;> cases whole <;> simp [LaneEnd.performed, LaneEnd.stops, tbGet, ho, hn]

/-- A lane alone whose guard is false falls through. -/
theorem State.runLanes_alone_off {s : State} {i : Instr} {whole : Bool} {act : State → ThreadId → Dword → Dword → State × LaneEnd}
    {id : WarpId} {g : Issue} {l : Nat} (hf : s.focus = some id) (hc : (s.warp id).cur = some g) (hl : g.lanes = [l])
    (ho : (s.warp id).overrun i [l] = none) (hi : i.form.guarded = true) (hg : (s.thread ⟨id, l⟩).guard i.ext.guard = false) :
    s.runLanes i whole act = s.leftAlone i id g l s.clk whole .go := by
  obtain ⟨s', hs⟩ : ∃ s', s' = s := ⟨_, rfl⟩
  have hr : runEach (fun a l => if (a.thread ⟨id, l⟩).guard i.ext.guard || !i.form.guarded then
      act a ⟨id, l⟩ g.pc (g.pc + BitVec.ofNat 64 (4 * i.words)) else (a, .go)) s [l] = (s', [(l, .go)]) := by
    simp [runEach, hg, hi, hs, LaneEnd.stops]
  simp only [State.runLanes, State.laneEnds, hf, hc, hl, hr]
  rw [← hs] at ho ⊢
  simp only [State.leftAlone, Issue.after]
  cases whole <;> simp [LaneEnd.performed, LaneEnd.stops, tbGet, ho]

/-- A logged instruction none of whose lanes ends logged runs as any other (R128). -/
theorem State.runLogged_eq {s : State} {i : Instr} {whole : Bool} {act : State → ThreadId → Dword → Dword → State × LaneEnd} {id : WarpId}
    {g : Issue} (hf : s.focus = some id) (hc : (s.warp id).cur = some g)
    (h : ¬ (4 ≤ (s.warp id).logged ∧ ((s.laneEnds i id g act).2.any fun e => e.2.isLog) = true)) :
    s.runLogged i whole act = s.runLanes i whole act := by
  simp only [State.runLogged, hf, hc, if_neg h]

/-- The end of a lane alone. -/
theorem State.laneEnds_alone {s : State} {i : Instr} {act : State → ThreadId → Dword → Dword → State × LaneEnd} {id : WarpId} {g : Issue}
    {l : Nat} (hl : g.lanes = [l]) (hg : (s.thread ⟨id, l⟩).guard i.ext.guard = true) :
    (s.laneEnds i id g act).2 = [(l, (act s ⟨id, l⟩ g.pc (g.after i)).2)] := by
  simp only [State.laneEnds, hl, runEach, hg, Bool.true_or, if_true, Issue.after]
  split <;> rfl

/-! ### Ends that neither fault nor wait for another lane -/

/-- Regrouping, lane by lane. -/
theorem Warp.regroup_thread (w : Warp) (l : Nat) :
    w.regroup.thread l =
      match (w.thread l).wait with
      | .together mates here next =>
        if mates.any (w.stillAt here) then w.thread l else { w.thread l with wait := .ready, pc := next }
      | _ => w.thread l := by
  have hm := tbGet_mapVal w.lanes (fun _ t => match t.wait with
    | .together mates here next => if mates.any (w.stillAt here) then t else { t with wait := .ready, pc := next }
    | _ => t) l
  simp only [Warp.thread, Warp.regroup, Warp.mapThreads]
  erw [hm]
  cases hw : tbGet w.lanes l with
  | none => rfl
  | some t => simp only [Option.map_some, Option.getD_some]

/-- The lane does not wait for the others of its group. -/
def Thread.notTogether (t : Thread) : Prop := ∀ m a n, t.wait ≠ .together m a n

theorem Thread.notTogether_ready {t : Thread} (h : t.wait = .ready) : t.notTogether := by
  intro m a n hh; rw [h] at hh; cases hh

/-- Regrouping leaves a lane that does not wait for its group. -/
theorem Warp.regroup_thread_of {w : Warp} {l : Nat} (h : (w.thread l).notTogether) : w.regroup.thread l = w.thread l := by
  rw [Warp.regroup_thread]
  split
  · rename_i heq; exact absurd heq (h _ _ _)
  · rfl

/-- The lane goes on or parks: its action is over and nothing faults. -/
def LaneEnd.plain : LaneEnd → Bool
  | .go => true
  | .jump _ => true
  | .park _ => true
  | _ => false

/-- The warp a lane alone leaves, before it is put back. -/
def Warp.leftAlone (w : Warp) (i : Instr) (g : Issue) (l now no : Nat) (whole : Bool) (e : LaneEnd) : Warp :=
  { (w.setThread l ((w.thread l).leave e now no (if whole then [l] else []) g.pc (g.after i))).syncShadow with cur := none, log := w.log.filter LogEntry.boundary }

theorem State.leftAlone_plain {s1 : State} {i : Instr} {id : WarpId} {g : Issue} {l now : Nat} {whole : Bool} {e : LaneEnd}
    (he : e.plain = true) :
    s1.leftAlone i id g l now whole e =
      ((s1.setWarp id ((s1.warp id).leftAlone i g l now s1.nextId whole e)).countIssue id).modWarp id Warp.regroup := by
  have hl : captured i s1.nextId g.pc [(l, e)] = [] := by cases e <;> first | rfl | cases he
  unfold State.leftAlone
  simp only [hl, List.append_nil]
  cases e <;> simp [LaneEnd.plain] at he <;> cases whole <;> rfl

theorem tbGet_setWarp_countIssue (s : State) (id : WarpId) (w : Warp) :
    tbGet ((s.setWarp id w).countIssue id).warps id = some w := by
  rw [State.countIssue_warps]; simp [State.setWarp]

/-- The warp after a plain end. -/
theorem State.leftAlone_warp {s1 : State} {i : Instr} {id : WarpId} {g : Issue} {l now : Nat} {whole : Bool} {e : LaneEnd}
    (he : e.plain = true) : (s1.leftAlone i id g l now whole e).warp id = ((s1.warp id).leftAlone i g l now s1.nextId whole e).regroup := by
  rw [State.leftAlone_plain he, State.warp_modWarp, if_pos rfl, tbGet_setWarp_countIssue]; rfl

/-- The lane's own thread there. -/
theorem Warp.leftAlone_thread (w : Warp) (i : Instr) (g : Issue) (l now no : Nat) (whole : Bool) (e : LaneEnd) :
    (w.leftAlone i g l now no whole e).thread l = (w.thread l).leave e now no (if whole then [l] else []) g.pc (g.after i) := by
  simp only [Warp.leftAlone, Warp.syncShadow, Warp.thread, Warp.setThread, tbGet_tbSet_self, Option.getD_some]

/-- A lane that goes on. -/
theorem State.leftAlone_go {s1 : State} {i : Instr} {id : WarpId} {g : Issue} {l now : Nat} {whole : Bool}
    (hw : (s1.thread ⟨id, l⟩).wait = .ready) :
    (s1.leftAlone i id g l now whole .go).thread ⟨id, l⟩ = { (s1.thread ⟨id, l⟩).issued now with arrived := none, pc := g.after i } := by
  simp only [State.thread] at hw ⊢
  rw [State.leftAlone_warp (by rfl)]
  cases whole with
  | false =>
    have h := Warp.leftAlone_thread (s1.warp id) i g l now s1.nextId false .go
    rw [Warp.regroup_thread_of, h]
    · rfl
    · rw [h]; exact Thread.notTogether_ready hw
  | true =>
    have h := Warp.leftAlone_thread (s1.warp id) i g l now s1.nextId true .go
    have h' : (((s1.warp id).thread l).leave .go now s1.nextId [l] g.pc (g.after i)) =
        { ((s1.warp id).thread l).issued now with arrived := none, wait := .together [l] g.pc (g.after i), pc := g.pc } := rfl
    rw [if_pos rfl, h'] at h
    have hs : ((s1.warp id).leftAlone i g l now s1.nextId true .go).stillAt g.pc l = false := by
      unfold Warp.stillAt
      rw [h]; exact Bool.and_false _
    rw [Warp.regroup_thread]
    generalize hx : (s1.warp id).leftAlone i g l now s1.nextId true .go = w at h hs ⊢
    have hy : (w.thread l).wait = .together [l] g.pc (g.after i) := by rw [h]
    rw [hy]
    simp only [List.any_cons, List.any_nil, hs, Bool.or_self, Bool.false_eq_true, if_false]
    rw [h]
    exact congrArg (fun x => { ((s1.warp id).thread l).issued now with arrived := none, wait := x, pc := g.after i }) hw.symm

/-- A lane that goes to a target. -/
theorem State.leftAlone_jump {s1 : State} {i : Instr} {id : WarpId} {g : Issue} {l now : Nat} {whole : Bool} {pc : Dword}
    (hw : (s1.thread ⟨id, l⟩).wait = .ready) :
    (s1.leftAlone i id g l now whole (.jump pc)).thread ⟨id, l⟩ = { (s1.thread ⟨id, l⟩).issued now with arrived := none, pc := pc } := by
  simp only [State.thread] at hw ⊢
  have h := Warp.leftAlone_thread (s1.warp id) i g l now s1.nextId whole (.jump pc)
  rw [State.leftAlone_warp (by rfl), Warp.regroup_thread_of, h]
  · rfl
  · rw [h]; exact Thread.notTogether_ready hw

/-- A lane that parks. -/
theorem State.leftAlone_park {s1 : State} {i : Instr} {id : WarpId} {g : Issue} {l now : Nat} {whole : Bool} {w : Wait}
    (hw : ∀ m a n, w ≠ .together m a n) :
    (s1.leftAlone i id g l now whole (.park w)).thread ⟨id, l⟩ =
      { (s1.thread ⟨id, l⟩).issued now with arrived := none, wait := w.withMates (if whole then [l] else []), pc := g.pc } := by
  simp only [State.thread]
  have h := Warp.leftAlone_thread (s1.warp id) i g l now s1.nextId whole (.park w)
  rw [State.leftAlone_warp (by rfl), Warp.regroup_thread_of, h]
  · rfl
  · rw [h]
    intro m a n hh
    have hh : w.withMates (if whole then [l] else []) = .together m a n := hh
    cases w <;> cases whole <;> simp [Wait.withMates] at hh <;> exact hw _ _ _ (by rw [hh.1, hh.2.1, hh.2.2])

/-- The other lanes of the warp, but those that waited for the group. -/
theorem State.leftAlone_lane {s1 : State} {i : Instr} {id : WarpId} {g : Issue} {l l' now : Nat} {whole : Bool} {e : LaneEnd}
    (he : e.plain = true) (h : l' ≠ l) (ht : (s1.thread ⟨id, l'⟩).notTogether) :
    (s1.leftAlone i id g l now whole e).thread ⟨id, l'⟩ = s1.thread ⟨id, l'⟩ := by
  simp only [State.thread] at ht ⊢
  have hl : ((s1.warp id).leftAlone i g l now s1.nextId whole e).thread l' = (s1.warp id).thread l' := by
    simp only [Warp.leftAlone, Warp.syncShadow, Warp.thread, Warp.setThread, tbGet_tbSet, if_neg (Ne.symm h)]
  rw [State.leftAlone_warp he, Warp.regroup_thread_of (by rw [hl]; exact ht), hl]

/-- The other warps. -/
theorem State.leftAlone_other {s1 : State} {i : Instr} {id id' : WarpId} {g : Issue} {l now : Nat} {whole : Bool} {e : LaneEnd}
    (he : e.plain = true) (h : id' ≠ id) : (s1.leftAlone i id g l now whole e).warp id' = s1.warp id' := by
  rw [State.leftAlone_plain he, State.warp_modWarp, if_neg (Ne.symm h), State.warp_countIssue, State.warp_setWarp, if_neg (Ne.symm h)]

/-- Outside the warps only the counters and the workgroup's rate move. -/
theorem State.leftAlone_rest {s1 : State} {i : Instr} {id : WarpId} {g : Issue} {l now : Nat} {whole : Bool} {e : LaneEnd}
    (he : e.plain = true) :
    s1.leftAlone i id g l now whole e =
      { s1 with warps := (s1.leftAlone i id g l now whole e).warps, wgs := (s1.countIssue id).wgs,
                parts := (s1.count id.gang.part 0x02 1).parts } := by
  rw [State.leftAlone_plain he]
  simp only [State.modWarp, State.countIssue]
  unfold State.count
  simp only [State.part_setWarp]
  split
  · rfl
  · rfl

/-! ### Ends that fault -/

/-- The thread a fault makes where the launch has a handler (R94, R298). -/
def Thread.faulted (t : Thread) (lane : Nat) (f : FaultInfo) (entry frpc handler : Dword) : Thread :=
  { t with
      fr := { kind := BitVec.ofNat 8 f.kind, pc := frpc, entry := entry, lane := BitVec.ofNat 32 lane,
              addr := BitVec.ofNat 64 f.addr, info := BitVec.ofNat 32 f.info }
      inHandler := true
      pc := handler
      wait := .ready }

/-- A fault of a lane outside its handler, where the launch has one. -/
theorem State.takeFault_handler {s : State} {t : ThreadId} {f : FaultInfo} {entry frpc here : Dword}
    (h1 : (s.thread t).inHandler = false) (h2 : (s.header t.gang).handler ≠ 0) :
    s.takeFault t f entry frpc here =
      s.setThread t ((s.thread t).faulted t.lane f entry frpc (BitVec.ofNat 64 (s.header t.gang).handler)) := by
  simp [State.takeFault, h1, h2, Thread.faulted]

/-- A lane alone in its group faults at a boundary instruction (R84, R94). -/
theorem State.leftAlone_fault {s1 : State} {i : Instr} {id : WarpId} {g : Issue} {l now : Nat} {whole : Bool} {f : FaultInfo}
    (h1 : (s1.thread ⟨id, l⟩).inHandler = false) (h2 : (s1.header id.gang).handler ≠ 0) :
    (s1.leftAlone i id g l now whole (.fault f)).thread ⟨id, l⟩ =
      { (s1.thread ⟨id, l⟩).issued now with arrived := none }.faulted l f g.pc g.pc (BitVec.ofNat 64 (s1.header id.gang).handler) := by
  obtain ⟨w, hw⟩ : ∃ w, w = { ((s1.warp id).setThread l { ((s1.warp id).thread l).issued now with arrived := none, pc := g.pc }).syncShadow with
      cur := none, log := (s1.warp id).log.filter LogEntry.boundary } := ⟨_, rfl⟩
  obtain ⟨s2, hs2⟩ : ∃ s2, s2 = (s1.setWarp id w).countIssue id := ⟨_, rfl⟩
  have e : s1.leftAlone i id g l now whole (.fault f) =
      (s2.takeFault ⟨id, l⟩ f g.pc g.pc g.pc).modWarp id Warp.regroup := by
    have hn : captured i s1.nextId g.pc [(l, .fault f)] = [] := rfl
    unfold State.leftAlone
    simp only [hn, List.append_nil]
    cases whole <;> subst hs2 hw <;> rfl
  have ht : s2.thread ⟨id, l⟩ = { (s1.thread ⟨id, l⟩).issued now with arrived := none, pc := g.pc } := by
    subst hs2 hw
    simp [State.thread, Warp.thread, Warp.setThread, Warp.syncShadow]
  have hh : s2.header id.gang = s1.header id.gang := by
    subst hs2; rw [State.header_countIssue]; rfl
  have hd : ({ (s1.thread ⟨id, l⟩).issued now with arrived := none, pc := g.pc } : Thread).inHandler = false := h1
  rw [e, State.takeFault_handler (by rw [ht]; exact hd) (by change (s2.header id.gang).handler ≠ 0; rw [hh]; exact h2)]
  simp only [State.thread, State.warp_modWarp, if_true, State.setThread, State.setWarp, tbGet_tbSet_self, Option.map_some,
    Option.getD_some]
  rw [Warp.regroup_thread_of]
  · simp only [Warp.thread_setThread_self]
    change (s2.thread ⟨id, l⟩).faulted l f g.pc g.pc (BitVec.ofNat 64 (s2.header id.gang).handler) = _
    rw [ht, hh]; rfl
  · simp only [Warp.thread_setThread_self]
    exact Thread.notTogether_ready rfl

end Sys2Proof.Machine
end

