-- ==== Sys2Proof/Laws/Memory.lean ====
section
/-! SUPPORT. Memory by its bytes: what a read gives after each operation on memory, and that each keeps the canonical form. -/

namespace Sys2Proof.Machine

/-- The bytes written from a key stand there; every other byte is as before. -/
theorem byteAt_writeCells (m : List Host.Cell) (key : Nat) (bs : List PByte) (k : Nat) :
    smGet memDefault (smSetAll memDefault m (writeCells key bs)) k =
      if key ≤ k ∧ k < key + bs.length then (bs.map PByte.v).getD (k - key) 0 else smGet memDefault m k := by
  induction bs generalizing m key with
  | nil =>
    have h : ¬(key ≤ k ∧ k < key + ([] : List PByte).length) := by simp
    rw [if_neg h]; rfl
  | cons b bs ih =>
    simp only [writeCells, smSetAll, ih, smGet_smSet, List.length_cons, List.map_cons]
    by_cases h : key = k
    · subst h
      rw [if_neg (by omega), if_pos rfl, if_pos (by omega), Nat.sub_self]; rfl
    · by_cases h1 : key + 1 ≤ k ∧ k < key + 1 + bs.length
      · rw [if_pos h1, if_pos (by omega), show k - key = k - (key + 1) + 1 by omega]; rfl
      · rw [if_neg h1, if_neg h, if_neg (by omega)]

/-- Read after write. -/
theorem State.byteAt_writeBytes (s : State) (key : Nat) (bs : List PByte) (k : Nat) :
    (s.writeBytes key bs).byteAt k =
      if key ≤ k ∧ k < key + bs.length then (bs.map PByte.v).getD (k - key) 0 else s.byteAt k :=
  byteAt_writeCells s.mem key bs k

/-- A write leaves every other byte alone. -/
theorem State.byteAt_writeBytes_other {s : State} {key k : Nat} {bs : List PByte} (h : ¬(key ≤ k ∧ k < key + bs.length)) :
    (s.writeBytes key bs).byteAt k = s.byteAt k := by rw [State.byteAt_writeBytes, if_neg h]

/-- Reading a filtered map. -/
theorem smGet_smFilter {β : Type} (d : β) (p : Nat → Bool) (m : List (Nat × β)) (k : Nat) :
    smGet d (smFilter p m) k = if p k then smGet d m k else d := by
  induction m with
  | nil => simp [smFilter, smGet]
  | cons e m ih =>
    obtain ⟨a, v⟩ := e
    by_cases h : p a = true
    · simp only [smFilter, h, if_true, smGet, ih]
      by_cases e : a = k
      · subst e; simp [h]
      · simp [e]
    · by_cases e : a = k
      · subst e; simp [smFilter, h, ih]
      · simp [smFilter, smGet, h, ih, e]

/-- A zero-filled byte reads zero, any other is as before. -/
theorem State.byteAt_zeroFill (s : State) (inside : Nat → Bool) (k : Nat) :
    (s.zeroFill inside).byteAt k = if inside k then 0 else s.byteAt k := by
  simp only [State.byteAt, State.zeroFill, smGet_smFilter]
  cases inside k <;> rfl

/-- The memory of the machine at reset is canonical. -/
theorem State.reset_canonical : Memory.wf State.reset.mem = true := rfl

/-- A write keeps the canonical form. -/
theorem State.writeBytes_canonical {s : State} (key : Nat) (bs : List PByte) (h : Memory.wf s.mem = true) :
    Memory.wf (s.writeBytes key bs).mem = true := smWf_smSetAll _ h

theorem State.writeNat_canonical {s : State} (key n x : Nat) (h : Memory.wf s.mem = true) :
    Memory.wf (s.writeNat key n x).mem = true := State.writeBytes_canonical _ _ h

/-- A zero-fill keeps the canonical form. -/
theorem State.zeroFill_canonical {s : State} (inside : Nat → Bool) (h : Memory.wf s.mem = true) :
    Memory.wf (s.zeroFill inside).mem = true := smWf_smFilter _ h

/-- A copy of a page keeps the canonical form. -/
theorem State.copyLines_canonical {s : State} (p n : Nat) (src dst : Nat → Option Nat) (h : Memory.wf s.mem = true) :
    Memory.wf (s.copyLines p n src dst).mem = true := by
  unfold State.copyLines
  generalize (natsFrom 0 (ceilDiv n 64)).filterMap _ = moved
  simp only [State.count_mem]
  induction moved generalizing s with
  | nil => exact h
  | cons m ms ih => exact ih (State.writeBytes_canonical _ _ h)

/-- The move of a range of homes keeps the canonical form. -/
theorem State.shift_canonical {s : State} (m : Shift) (h : Memory.wf s.mem = true) : Memory.wf (s.shift m).mem = true :=
  smWf_smSetAll _ (smWf_smFilter _ (State.zeroFill_canonical _ h))

/-- Power-off keeps the canonical form. -/
theorem State.powerOff_canonical {s : State} (h : Memory.wf s.mem = true) : Memory.wf s.powerOff.mem = true := smWf_smFilter _ h

end Sys2Proof.Machine
end

