-- ==== Sys2Proof/Laws/Span.lean ====
section
/-! SUPPORT. What a span instruction does: to the lanes of its group, and to nothing else (spec/05 R79; spec/01 R32). -/

namespace Sys2Proof.Machine

/-- A lane of the group in its first run: what the instruction makes of it. -/
def Thread.ranSpan (t : Thread) (i : Instr) (o : LaneOut) (now id : Nat) (g : Issue) : Thread :=
  match o.faultIn t with
  | some e => (t.issued now).noteFault e (g.count + 1) g.pc
  | none => (t.issued now).apply o id i.ext.la.toNat g.pc

theorem lanesApply_get (lanes : List (Nat × Thread)) (g : Issue) (guard : BitVec 4) (f : Nat → LaneOut) (now id window l : Nat) :
    tbGet (lanesApply lanes g guard f now id window) l =
      (tbGet lanes l).map fun t =>
        if g.lanes.contains l then
          if t.guard guard then
            match (f l).faultIn t with
            | some e => (t.issued now).noteFault e (g.count + 1) g.pc
            | none => (t.issued now).apply (f l) id window g.pc
          else t.issued now
        else t := by
  induction lanes with
  | nil => rfl
  | cons e m ih =>
    obtain ⟨a, t⟩ := e
    have key : ∀ x : Nat × Thread, x.1 = a → tbGet (x :: lanesApply m g guard f now id window) l =
        if a = l then some x.2 else tbGet (lanesApply m g guard f now id window) l := by
      rintro ⟨_, _⟩ rfl; rfl
    have hm : lanesApply ((a, t) :: m) g guard f now id window =
        (a, if g.lanes.contains a then
          if t.guard guard then
            match (f a).faultIn t with
            | some e => (t.issued now).noteFault e (g.count + 1) g.pc
            | none => (t.issued now).apply (f a) id window g.pc
          else t.issued now
        else t) :: lanesApply m g guard f now id window := by
      simp only [lanesApply, List.map_cons]
      congr 1
      split
      · split
        · cases (f a).faultIn t <;> rfl
        · rfl
      · rfl
    rw [hm, key _ rfl, ih]
    by_cases h : a = l
    · subst h; simp [tbGet]
    · simp [tbGet, h]

/-- The whole effect of a span instruction in the first run of its span. -/
theorem State.runSpan_eq {s : State} {i : Instr} {f : Warp → Issue → Nat → LaneOut} {id : WarpId} {g : Issue}
    (hf : s.focus = some id) (hc : (s.warp id).cur = some g) (ho : (s.warp id).overrun i g.lanes = none) (hp : g.phase = .run) :
    s.runSpan i f =
      ({ s.countIssue id with nextId := s.nextId + 1 }).setWarp id
        { s.warp id with
            lanes := lanesApply (s.warp id).lanes g i.ext.guard (f (s.warp id) g) s.clk s.nextId i.ext.la.toNat
            cur := some (g.advance i)
            shadow := (s.warp id).shadow.map fun sh =>
              lanesApply sh g i.ext.guard (f { s.warp id with lanes := sh } g) s.clk s.nextId i.ext.la.toNat } := by
  simp [State.runSpan, hf, hc, ho, hp, Phase.isSlow]

/-- A guard-true lane of the group takes the instruction. -/
theorem State.runSpan_thread {s : State} {i : Instr} {f : Warp → Issue → Nat → LaneOut} {id : WarpId} {g : Issue} {l : Nat}
    {t : Thread} (hf : s.focus = some id) (hc : (s.warp id).cur = some g) (ho : (s.warp id).overrun i g.lanes = none) (hp : g.phase = .run) (hl : l ∈ g.lanes)
    (ht : tbGet (s.warp id).lanes l = some t) (hg : t.guard i.ext.guard = true) :
    (s.runSpan i f).thread ⟨id, l⟩ = t.ranSpan i (f (s.warp id) g l) s.clk s.nextId g := by
  rw [State.runSpan_eq hf hc ho hp]
  simp only [State.thread, State.warp_setWarp_self, Warp.thread, lanesApply_get, ht, Option.map_some, Option.getD_some,
    List.contains_iff_mem.2 hl, if_true, hg]
  rfl

/-- A guard-false lane issues and no more. -/
theorem State.runSpan_thread_off {s : State} {i : Instr} {f : Warp → Issue → Nat → LaneOut} {id : WarpId} {g : Issue} {l : Nat}
    {t : Thread} (hf : s.focus = some id) (hc : (s.warp id).cur = some g) (ho : (s.warp id).overrun i g.lanes = none) (hp : g.phase = .run) (hl : l ∈ g.lanes)
    (ht : tbGet (s.warp id).lanes l = some t) (hg : t.guard i.ext.guard = false) :
    (s.runSpan i f).thread ⟨id, l⟩ = t.issued s.clk := by
  rw [State.runSpan_eq hf hc ho hp]
  simp [State.thread, Warp.thread, lanesApply_get, ht, hl, hg]

/-- A lane outside the group keeps its thread. -/
theorem State.runSpan_thread_other {s : State} {i : Instr} {f : Warp → Issue → Nat → LaneOut} {id : WarpId} {g : Issue} {l : Nat}
    (hf : s.focus = some id) (hc : (s.warp id).cur = some g) (ho : (s.warp id).overrun i g.lanes = none) (hp : g.phase = .run) (hl : l ∉ g.lanes) :
    (s.runSpan i f).thread ⟨id, l⟩ = s.thread ⟨id, l⟩ := by
  rw [State.runSpan_eq hf hc ho hp]
  simp only [State.thread, State.warp_setWarp_self, Warp.thread, lanesApply_get]
  cases tbGet (s.warp id).lanes l <;> simp [hl]

/-- Every other warp stays as it was. -/
theorem State.runSpan_warp {s : State} {i : Instr} {f : Warp → Issue → Nat → LaneOut} {id id' : WarpId} {g : Issue}
    (hf : s.focus = some id) (hc : (s.warp id).cur = some g) (ho : (s.warp id).overrun i g.lanes = none) (hp : g.phase = .run) (h : id' ≠ id) :
    (s.runSpan i f).warp id' = s.warp id' := by
  rw [State.runSpan_eq hf hc ho hp, State.warp_setWarp, if_neg (Ne.symm h)]
  exact State.warp_countIssue s _ _

/-- Outside the warps only the counters and the workgroup's rate move and one number is taken. -/
theorem State.runSpan_rest {s : State} {i : Instr} {f : Warp → Issue → Nat → LaneOut} {id : WarpId} {g : Issue}
    (hf : s.focus = some id) (hc : (s.warp id).cur = some g) (ho : (s.warp id).overrun i g.lanes = none) (hp : g.phase = .run) :
    s.runSpan i f =
      { s with warps := (s.runSpan i f).warps, wgs := (s.countIssue id).wgs, parts := (s.count id.gang.part 0x02 1).parts,
               nextId := s.nextId + 1 } := by
  rw [State.runSpan_eq hf hc ho hp]
  simp only [State.setWarp, State.countIssue]
  unfold State.count
  split <;> rfl

end Sys2Proof.Machine
end

