-- ==== Sys2Proof/Laws/Claims.lean ====
section
/-! SUPPORT. From what a meaning gives a lane to the words the statements are said in: one lemma for each shape of instruction. -/

open Sys2Proof.Machine

namespace Sys2Proof.Claim

theorem apply_took (t : Thread) (o : LaneOut) (i : Instr) (now id : Nat) (pc : Dword) :
    (t.issued now).apply o id i.ext.la.toNat pc = took t i now id pc o.regs o.preds o.flags := by
  unfold took counted Thread.apply Thread.issued
  by_cases h : i.ext.la = 0
  · simp [h]
  · have h' : i.ext.la.toNat ≠ 0 := fun hh => h (BitVec.eq_of_toNat_eq hh)
    simp only [if_neg h, if_neg h']

/-- Lanes with counts short of their deadlines issue anything. -/
theorem overrun_none {w : Warp} {i : Instr} {lanes : List Nat}
    (h : ∀ k ∈ lanes, (w.thread k).wd + 1 < (w.thread k).deadline) : w.overrun i lanes = none := by
  unfold Warp.overrun
  induction lanes with
  | nil => rfl
  | cons a m ih =>
    have ha : (w.thread a).overdue i = false := by
      have := h a (List.mem_cons_self ..)
      simp [Thread.overdue]; intro; omega
    simp only [firstWhere, ha, Bool.false_eq_true, if_false]
    exact ih fun k hk => h k (List.mem_cons_of_mem _ hk)

theorem takes_of {s i id g l t} {f : Warp → Issue → Nat → LaneOut} (h : InSpan s i id g l t) (hx : exec i s = .next (s.runSpan i f))
    (ho : (f (s.warp id) g l).faultIn t = none) {regs preds fl}
    (h1 : (f (s.warp id) g l).regs = regs) (h2 : (f (s.warp id) g l).preds = preds) (h3 : (f (s.warp id) g l).flags = fl) :
    Takes s i id g l t regs preds fl := by
  refine ⟨_, hx, ?_⟩
  rw [State.runSpan_thread h.focus h.cur (overrun_none h.inTime) h.phase h.lane h.thread h.guard, Thread.ranSpan, ho]
  subst h1 h2 h3
  exact apply_took ..

theorem atIndex_kind (e : FaultInfo) (n : Nat) : (e.atIndex n).kind = e.kind := by
  unfold FaultInfo.atIndex; split <;> rfl

theorem notes_of {s i id g l t} {f : Warp → Issue → Nat → LaneOut} (h : InSpan s i id g l t) (hx : exec i s = .next (s.runSpan i f))
    {e} (ho : (f (s.warp id) g l).faultIn t = some e) {e'} (he : e.atIndex (g.count + 1) = e') :
    Notes s i id g l t e' := by
  refine ⟨_, hx, ?_⟩
  rw [State.runSpan_thread h.focus h.cur (overrun_none h.inTime) h.phase h.lane h.thread h.guard, Thread.ranSpan, ho]
  subst he
  cases hf : t.flt with
  | none => simp [Thread.noteFault, Thread.issued, counted, hf, atIndex_kind]
  | some old =>
    simp only [Thread.noteFault, Thread.issued, counted, hf, atIndex_kind]
    split <;> rfl

theorem thread_of {s i id g l t} (h : InSpan s i id g l t) : (s.warp id).thread l = t := by simp [Warp.thread, h.thread]


theorem takes_on {s i id g l t} {h' : Thread → LaneOut} (h : InSpan s i id g l t) (hx : exec i s = spanOn i h' s)
    (ho : (h' t).faultIn t = none) {regs preds fl}
    (h1 : (h' t).regs = regs) (h2 : (h' t).preds = preds) (h3 : (h' t).flags = fl) : Takes s i id g l t regs preds fl := by
  refine takes_of h hx ?_ ?_ ?_ ?_ <;> simpa only [onThread, thread_of h]

theorem notes_on {s i id g l t} {h' : Thread → LaneOut} (h : InSpan s i id g l t) (hx : exec i s = spanOn i h' s)
    {e} (ho : (h' t).faultIn t = some e) {e'} (he : e.atIndex (g.count + 1) = e') : Notes s i id g l t e' := by
  refine notes_of h hx ?_ he; simpa only [onThread, thread_of h]

theorem faultIn_never (o : LaneOut) (t : Thread) (h : o.fault = none) (h' : o.trap = .never) : o.faultIn t = none := by
  simp [LaneOut.faultIn, h, h', flagTrap]

theorem regWrites_one (d : RegIdx) (v : PWord) : regWrites d [v] = wordAt d v.v v.p := by
  simp [regWrites, wordAt, natsFrom]

theorem wideWrite_two (d : RegIdx) (v : Dword) (p : Bool) : wideWrite d 2 ⟨v.toNat, p⟩ = pairAt d v p := by
  unfold wideWrite regWrites pairAt
  split
  · rfl
  · simp only [wordsOf, List.map, natsFrom, List.length, List.zip, List.zipWith]
    have h1 : BitVec.ofNat 32 v.toNat = v.extractLsb' 0 32 := by
      apply BitVec.eq_of_toNat_eq; simp
    have h2 : BitVec.ofNat 32 (v.toNat / 4294967296) = v.extractLsb' 32 32 := by
      apply BitVec.eq_of_toNat_eq; simp [Nat.shiftRight_eq_div_pow]
    rw [h1, h2]

theorem op1 {i x} {f f' : Word → Word} (hx : ∀ s, exec i s = spanOn i (unary32 x f) s) (hf : ∀ a, f a = f' a) : Op1 i x f' := by
  intro s id g l t h
  refine takes_on h (hx s) (faultIn_never _ _ rfl rfl) ?_ rfl ?_
  · simp [unary32, out32, regWrites_one, hf]
  · simp [unary32, out32]

theorem op2 {i x} {f f' : Word → Word → Word} (hx : ∀ s, exec i s = spanOn i (binary32 x f) s) (hf : ∀ a b, f a b = f' a b) : Op2 i x f' := by
  intro s id g l t h
  refine takes_on h (hx s) (faultIn_never _ _ rfl rfl) ?_ rfl ?_
  · simp [binary32, out32, regWrites_one, hf]
  · simp [binary32, out32]

theorem op3 {i x} {f f' : Word → Word → Word → Word} (hx : ∀ s, exec i s = spanOn i (ternary32 x f) s) (hf : ∀ a b c, f a b c = f' a b c) : Op3 i x f' := by
  intro s id g l t h
  refine takes_on h (hx s) (faultIn_never _ _ rfl rfl) ?_ rfl ?_
  · simp [ternary32, out32, regWrites_one, hf]
  · simp [ternary32, out32]

theorem srcInt_typed (x : Ext) (v : Word) : srcInt (Ext.signed x) v = typed x v := by
  unfold srcInt readInt Ext.signed Ext.modABit typed
  cases x.modA.getLsbD 0 <;> simp [signedN, BitVec.toInt_eq_toNat_cond]
  split <;> split <;> omega

theorem resInt32 (x : Ext) (v : Int) : BitVec.ofNat 32 (resInt (Ext.sat x) (Ext.signed x) 32 v) = res32 x v := by
  unfold resInt res32 Ext.sat Ext.signed Ext.modABit clamped satInt
  apply BitVec.eq_of_toNat_eq
  cases x.modA.getLsbD 0 <;> cases x.modA.getLsbD 1 <;> simp only [Bool.not_true, Bool.not_false, if_true, Bool.false_eq_true, if_false, BitVec.toNat_ofInt, BitVec.toNat_ofNat] <;> omega

theorem leave_eq (s1 : State) {i id g l now whole e} (he : LaneEnd.plain e = true) :
   (s1.leftAlone i id g l now whole e).warp id =
     { s1.warp id with lanes := ((s1.leftAlone i id g l now whole e).warp id).lanes, cur := none,
                       log := (s1.warp id).log.filter LogEntry.boundary,
                       shadow := ((s1.leftAlone i id g l now whole e).warp id).shadow,
                       shadowMasks := ((s1.leftAlone i id g l now whole e).warp id).shadowMasks } := by
  rw [State.leftAlone_warp he]; rfl

theorem after_plain {s i id g l t} {whole : Bool} {act : State → ThreadId → Dword → Dword → State × LaneEnd} {s1 e u}
   (h : Alone s i id g l t) (hx : exec i s = .next (s.runLanes i whole act)) (ha : act s ⟨id,l⟩ g.pc (g.after i) = (s1, e))
   (he : e.plain = true) (hu : (s1.leftAlone i id g l s.clk whole e).thread ⟨id,l⟩ = u) : After s i id l s1 u := by
  have ho : (s.warp id).overrun i [l] = none := by
    have ht : (s.warp id).thread l = t := h.thread
    simp only [Warp.overrun, firstWhere, Thread.overdue, ht]
    rcases h.inTime with hd | hy
    · simp [Nat.not_le.2 hd]
    · simp [hy]
  have hr := State.runLanes_alone (whole := whole) (act := act) h.focus h.cur h.lanes ho (by rw [h.thread]; exact h.guard)
  rw [ha] at hr
  refine ⟨_, hx, by rw [hr]; exact hu, ?_, ?_, ?_, ?_⟩
  · intro k hk hl; rw [hr]; exact State.leftAlone_lane he hk hl
  · intro id' h'; rw [hr]; exact State.leftAlone_other he h'
  · rw [hr]; exact leave_eq s1 he
  · rw [hr]; exact State.leftAlone_rest he

theorem after_go {s i id g l t} {whole : Bool} {act : State → ThreadId → Dword → Dword → State × LaneEnd} {s1}
   (h : Alone s i id g l t) (hx : exec i s = .next (s.runLanes i whole act)) (ha : act s ⟨id,l⟩ g.pc (g.after i) = (s1, .go))
   (hw : (s1.thread ⟨id,l⟩).wait = .ready) {pc} (hp : g.after i = pc) : Went s i id l s1 pc := by
  subst hp; exact after_plain h hx ha rfl (State.leftAlone_go hw)

theorem after_jump {s i id g l t} {whole : Bool} {act : State → ThreadId → Dword → Dword → State × LaneEnd} {s1 pc}
   (h : Alone s i id g l t) (hx : exec i s = .next (s.runLanes i whole act)) (ha : act s ⟨id,l⟩ g.pc (g.after i) = (s1, .jump pc))
   (hw : (s1.thread ⟨id,l⟩).wait = .ready) : Went s i id l s1 pc := by
  exact after_plain h hx ha rfl (State.leftAlone_jump hw)

theorem after_park {s i id g l t} {whole : Bool} {act : State → ThreadId → Dword → Dword → State × LaneEnd} {s1 w w'}
   (h : Alone s i id g l t) (hx : exec i s = .next (s.runLanes i whole act)) (ha : act s ⟨id,l⟩ g.pc (g.after i) = (s1, .park w))
   (hw : ∀ m a n, w ≠ .together m a n) (hw' : w.withMates (if whole then [l] else []) = w') : Parked s i id g l s1 w' := by
  subst hw'
  exact after_plain h hx ha rfl (State.leftAlone_park hw)

theorem warp_setThread_lanes (s : State) (id l u) : (s.setThread ⟨id,l⟩ u).warp id = (s.warp id).setThread l u := by
  simp [State.setThread]

theorem after_ext (g : Issue) (i : Instr) (x : Ext) (h : i.words = if x.lit.isSome then 5 else 3) : g.after i = behind g x := by
  unfold Issue.after behind; rw [h]; split <;> rfl

theorem pairOf_toNat (t : Thread) (r : RegIdx) : (Claim.pairOf t r).toNat = (t.pair r).v := by
  simp only [Claim.pairOf, Thread.pair, BitVec.toNat_ofNat]
  apply Nat.mod_eq_of_lt
  have := (t.regAt r 0).v.isLt; have := (t.regAt r 1).v.isLt
  omega

theorem canonical_iff (a : Dword) : canonical a.toNat = true ↔ canonicalVa a := by
  unfold canonical canonicalVa
  have := a.isLt
  simp; omega

end Sys2Proof.Claim
end

