-- ==== Sys2Proof/Laws/Groups.lean ====
section
/-! SUPPORT. What a boundary instruction does over a whole group, said once of the shared operation (spec/05 R80, R84, R94). -/

open Sys2Proof.Machine

namespace Sys2Proof.Claim

/-! ### The walk over the lanes -/

theorem walks_runEach {act : State → Nat → State × LaneEnd} {s ls s1 es} (h : Walks act LaneEnd.stops s ls s1 es) :
    runEach act s ls = (s1, es) := by
  induction h with
  | done => rfl
  | stop s l ls hs => simp [runEach, hs]
  | more s l ls s' es hs _ ih => simp [runEach, hs, ih]

theorem walks_prefix {E : Type} {act : State → Nat → State × E} {stops s ls s1 es} (h : Walks act stops s ls s1 es) :
    es.map Prod.fst <+: ls := by
  induction h with
  | done => simp
  | stop s l ls _ => simp
  | more s l ls s' es _ _ ih => simpa using ih

theorem walks_last {E : Type} {act : State → Nat → State × E} {stops s ls s1 es} (h : Walks act stops s ls s1 es) :
    ∀ e ∈ es, stops e.2 = true → es.getLast? = some e := by
  induction h with
  | done => intro e he; cases he
  | stop s l ls _ => intro e he _; simp at he; simp [he]
  | more s l ls s' es hs _ ih =>
    intro e he hst
    rcases List.mem_cons.1 he with rfl | he
    · rw [hs] at hst; cases hst
    · have := ih e he hst
      cases es with
      | nil => cases he
      | cons a m => simpa [List.getLast?_cons_cons] using this

/-- Where every lane is listed unless one stops the walk. -/
theorem walks_all {E : Type} {act : State → Nat → State × E} {stops s ls s1 es} (h : Walks act stops s ls s1 es)
    (hn : ∀ e ∈ es, stops e.2 = false) : es.map Prod.fst = ls := by
  induction h with
  | done => rfl
  | stop s l ls hs => have := hn _ (List.mem_singleton.2 rfl); rw [hs] at this; cases this
  | more s l ls s' es _ _ ih => simp [ih fun e he => hn e (List.mem_cons_of_mem _ he)]

theorem tbGet_mem {β : Type} {m : List (Nat × β)} {k : Nat} {v : β} (h : tbGet m k = some v) : (k, v) ∈ m := by
  induction m with
  | nil => cases h
  | cons a m ih =>
    obtain ⟨a, b⟩ := a
    rw [tbGet_cons] at h
    split at h
    · rename_i hk; cases h; subst hk; simp
    · exact List.mem_cons_of_mem _ (ih h)

theorem tbGet_of_mem {β : Type} {m : List (Nat × β)} (hn : (m.map Prod.fst).Nodup) {k : Nat} {v : β} (h : (k, v) ∈ m) :
    tbGet m k = some v := by
  induction m with
  | nil => cases h
  | cons a m ih =>
    obtain ⟨a, b⟩ := a
    simp only [List.map_cons, List.nodup_cons] at hn
    rw [tbGet_cons]
    rcases List.mem_cons.1 h with he | he
    · cases he; simp
    · have : a ≠ k := fun hk => hn.1 (hk ▸ List.mem_map.2 ⟨_, he, rfl⟩)
      rw [if_neg this]; exact ih hn.2 he

theorem tbGet_none_of {β : Type} {m : List (Nat × β)} {k : Nat} (h : k ∉ m.map Prod.fst) : tbGet m k = none := by
  cases hk : tbGet m k with
  | none => rfl
  | some v => exact absurd (List.mem_map.2 ⟨_, tbGet_mem hk, rfl⟩) h

/-! ### Folds over the threads of a warp -/

theorem foldl_leave (f : Thread → LaneEnd → Thread) (es : List (Nat × LaneEnd)) (hn : (es.map Prod.fst).Nodup) (w : Warp) :
    (∀ l, (es.foldl (fun w e => w.setThread e.1 (f (w.thread e.1) e.2)) w).thread l =
      match tbGet es l with
      | some e => f (w.thread l) e
      | none => w.thread l) ∧
    es.foldl (fun w e => w.setThread e.1 (f (w.thread e.1) e.2)) w =
      { w with lanes := (es.foldl (fun w e => w.setThread e.1 (f (w.thread e.1) e.2)) w).lanes } := by
  induction es generalizing w with
  | nil => exact ⟨fun l => rfl, rfl⟩
  | cons a m ih =>
    obtain ⟨a, b⟩ := a
    simp only [List.map_cons, List.nodup_cons] at hn
    obtain ⟨h1, h2⟩ := ih hn.2 (w.setThread a (f (w.thread a) b))
    simp only [List.foldl_cons]
    refine ⟨fun l => ?_, by rw [h2]; rfl⟩
    rw [h1 l, tbGet_cons]
    by_cases hl : a = l
    · subst hl
      simp [tbGet_none_of hn.1]
    · simp only [if_neg hl, Warp.thread_setThread]

theorem foldl_stand (f : Thread → Thread) (ls : List Nat) (hn : ls.Nodup) (w : Warp) :
    (∀ l, (ls.foldl (fun w l => w.setThread l (f (w.thread l))) w).thread l = if l ∈ ls then f (w.thread l) else w.thread l) ∧
    ls.foldl (fun w l => w.setThread l (f (w.thread l))) w = { w with lanes := (ls.foldl (fun w l => w.setThread l (f (w.thread l))) w).lanes } := by
  induction ls generalizing w with
  | nil => exact ⟨fun l => by simp, rfl⟩
  | cons a m ih =>
    simp only [List.nodup_cons] at hn
    obtain ⟨h1, h2⟩ := ih hn.2 (w.setThread a (f (w.thread a)))
    simp only [List.foldl_cons]
    refine ⟨fun l => ?_, by rw [h2]; rfl⟩
    rw [h1 l]
    by_cases hl : a = l
    · subst hl; simp [hn.1]
    · simp only [Warp.thread_setThread, if_neg hl, List.mem_cons]
      have : ¬l = a := fun h => hl h.symm
      simp [this]

/-! ### Changes of the threads of one warp -/

/-- b is a with other threads in warp id. -/
structure Threads (id : WarpId) (a b : State) : Prop where
  rest : b = { a with warps := b.warps }
  others : ∀ id', id' ≠ id → b.warp id' = a.warp id'
  warp : b.warp id = { a.warp id with lanes := (b.warp id).lanes }
  there : (tbGet a.warps id).isSome = true → (tbGet b.warps id).isSome = true

theorem Threads.refl (id : WarpId) (a : State) : Threads id a a := ⟨rfl, fun _ _ => rfl, rfl, fun h => h⟩

theorem Threads.trans {id : WarpId} {a b c : State} (h : Threads id a b) (h' : Threads id b c) : Threads id a c := by
  refine ⟨by rw [h'.rest, h.rest], fun i hi => by rw [h'.others i hi, h.others i hi], by rw [h'.warp, h.warp], fun x => h'.there (h.there x)⟩

theorem Threads.setThread (id : WarpId) (a : State) (l : Nat) (t : Thread) : Threads id a (a.setThread ⟨id, l⟩ t) := by
  refine ⟨rfl, fun i hi => ?_, ?_, fun _ => ?_⟩
  · simp only [State.setThread, State.warp_setWarp, if_neg (Ne.symm hi)]
  · simp only [State.setThread, State.warp_setWarp_self]; rfl
  · simp [State.setThread, State.setWarp]

theorem Threads.header {id : WarpId} {a b : State} (h : Threads id a b) (g : GangId) : b.header g = a.header g := by
  rw [h.rest]; rfl

/-- The fault an end delivers, with its %frpc. -/
def faultOf (here : Dword) : LaneEnd → Option (FaultInfo × Dword)
  | .fault f => some (f, here)
  | .trap f p => some (f, p)
  | .deliver f p => some (f, p)
  | _ => none

/-- A thread at its fault, if its end is one. -/
def atFault (t : Thread) (l : Nat) (here : Dword) (handler : Nat) (e : LaneEnd) : Thread :=
  match faultOf here e with
  | some (f, p) => entered t l f here p (BitVec.ofNat 64 handler)
  | none => t

theorem takeFault_threads {a : State} {id : WarpId} {l : Nat} {f : FaultInfo} {here p : Dword} (h1 : (a.thread ⟨id, l⟩).inHandler = false)
    (h2 : (a.header id.gang).handler ≠ 0) :
    a.takeFault ⟨id, l⟩ f here p here =
      a.setThread ⟨id, l⟩ (entered (a.thread ⟨id, l⟩) l f here p (BitVec.ofNat 64 (a.header id.gang).handler)) := by
  rw [State.takeFault_handler h1 h2]; rfl

theorem deliver_threads (id : WarpId) (here : Dword) (es : List (Nat × LaneEnd)) (hn : (es.map Prod.fst).Nodup) (a : State)
    (h : ∀ e ∈ es, ∀ f p, e.2 = .deliver f p →
      (a.header id.gang).handler ≠ 0 ∧ (a.thread ⟨id, e.1⟩).inHandler = false ∧ (a.thread ⟨id, e.1⟩).wait ≠ .exited) :
    Threads id a (a.deliverAll id here es) ∧
      ∀ l, (a.deliverAll id here es).thread ⟨id, l⟩ =
        match tbGet es l with
        | some (.deliver f p) => entered (a.thread ⟨id, l⟩) l f here p (BitVec.ofNat 64 (a.header id.gang).handler)
        | _ => a.thread ⟨id, l⟩ := by
  induction es generalizing a with
  | nil => exact ⟨Threads.refl id a, fun l => rfl⟩
  | cons x m ih =>
    obtain ⟨k, e⟩ := x
    simp only [List.map_cons, List.nodup_cons] at hn
    by_cases hd : ∃ f p, e = .deliver f p
    · obtain ⟨f, p, rfl⟩ := hd
      obtain ⟨c1, c2, c3⟩ := h (k, .deliver f p) (List.mem_cons_self ..) f p rfl
      have hs : a.deliverAll id here ((k, .deliver f p) :: m) =
          (a.setThread ⟨id, k⟩ (entered (a.thread ⟨id, k⟩) k f here p (BitVec.ofNat 64 (a.header id.gang).handler))).deliverAll id here m := by
        rw [State.deliverAll, List.foldl_cons]
        simp only [if_neg c3, takeFault_threads c2 c1]
        rfl
      have hT := Threads.setThread id a k (entered (a.thread ⟨id, k⟩) k f here p (BitVec.ofNat 64 (a.header id.gang).handler))
      obtain ⟨i1, i2⟩ := ih hn.2 (a.setThread ⟨id, k⟩ (entered (a.thread ⟨id, k⟩) k f here p (BitVec.ofNat 64 (a.header id.gang).handler)))
        (by
          intro e he f' p' hf
          have hk : k ≠ e.1 := fun hh => hn.1 (hh ▸ List.mem_map.2 ⟨_, he, rfl⟩)
          rw [hT.header, State.thread_setThread, if_neg (by simp [hk])]
          exact h e (List.mem_cons_of_mem _ he) f' p' hf)
      rw [hs]
      refine ⟨hT.trans i1, fun l => ?_⟩
      rw [i2 l, tbGet_cons]
      by_cases hl : k = l
      · subst hl; simp [tbGet_none_of hn.1]
      · simp only [if_neg hl, hT.header, State.thread_setThread, ThreadId.mk.injEq, true_and]
    · have hs : a.deliverAll id here ((k, e) :: m) = a.deliverAll id here m := by
        rw [State.deliverAll, List.foldl_cons]
        cases e <;> first | rfl | exact absurd ⟨_, _, rfl⟩ hd
      obtain ⟨i1, i2⟩ := ih hn.2 a fun e he => h e (List.mem_cons_of_mem _ he)
      rw [hs]
      refine ⟨i1, fun l => ?_⟩
      rw [i2 l, tbGet_cons]
      by_cases hl : k = l
      · subst hl
        rw [tbGet_none_of hn.1, if_pos rfl]
        cases e <;> first | rfl | exact absurd ⟨_, _, rfl⟩ hd
      · simp only [if_neg hl]

/-- The faults of a walk are taken: the one that ended it, then those delivered (R84, R94). -/
theorem faults_threads (id : WarpId) (here : Dword) (es : List (Nat × LaneEnd)) (hn : (es.map Prod.fst).Nodup)
    (hl : ∀ e ∈ es, e.2.stops = true → es.getLast? = some e) (a : State)
    (h : ∀ e ∈ es, (faultOf here e.2).isSome = true →
      (a.header id.gang).handler ≠ 0 ∧ (a.thread ⟨id, e.1⟩).inHandler = false ∧ (a.thread ⟨id, e.1⟩).wait ≠ .exited)
    (hx : ∀ e ∈ es, e.2 ≠ .broken ∧ ∀ va, e.2 ≠ .exhausted va) :
    let b := ((match es.getLast? with
      | some e => a.endFault id here e
      | none => a)).deliverAll id here es
    Threads id a b ∧
      ∀ l, b.thread ⟨id, l⟩ =
        match tbGet es l with
        | some e => atFault (a.thread ⟨id, l⟩) l here (a.header id.gang).handler e
        | none => a.thread ⟨id, l⟩ := by
  by_cases hs : ∃ e ∈ es, e.2.stops = true ∧ (faultOf here e.2).isSome = true
  · obtain ⟨⟨k, e⟩, he, hst, hf⟩ := hs
    obtain ⟨⟨f, p⟩, hfp⟩ := Option.isSome_iff_exists.1 hf
    obtain ⟨c1, c2, c3⟩ := h _ he hf
    have hend : a.endFault id here (k, e) =
        a.setThread ⟨id, k⟩ (entered (a.thread ⟨id, k⟩) k f here p (BitVec.ofNat 64 (a.header id.gang).handler)) := by
      cases e <;> simp [faultOf, LaneEnd.stops] at hfp hst <;> obtain ⟨rfl, rfl⟩ := hfp <;> exact takeFault_threads c2 c1
    have hT := Threads.setThread id a k (entered (a.thread ⟨id, k⟩) k f here p (BitVec.ofNat 64 (a.header id.gang).handler))
    have hk : tbGet es k = some e := tbGet_of_mem hn he
    obtain ⟨i1, i2⟩ := deliver_threads id here es hn
      (a.setThread ⟨id, k⟩ (entered (a.thread ⟨id, k⟩) k f here p (BitVec.ofNat 64 (a.header id.gang).handler)))
      (by
        intro x hx' f' p' hd
        have hkx : k ≠ x.1 := by
          intro hh
          have h1 : tbGet es x.1 = some x.2 := tbGet_of_mem hn hx'
          rw [← hh, hk] at h1
          cases h1
          rw [hd] at hst; cases hst
        rw [hT.header, State.thread_setThread, if_neg (by simp [hkx])]
        exact h x hx' (by rw [hd]; rfl))
    simp only [hl _ he hst, hend]
    refine ⟨hT.trans i1, fun l => ?_⟩
    rw [i2 l]
    by_cases hkl : k = l
    · subst hkl
      rw [hk]
      simp only [atFault, hfp]
      cases e <;> simp [faultOf, LaneEnd.stops] at hfp hst <;> simp
    · cases hg : tbGet es l with
      | none => simp [State.thread_setThread, hkl]
      | some x =>
        have hns : x.stops = false ∨ faultOf here x = none := by
          cases hxs : x.stops with
          | false => exact .inl rfl
          | true =>
            have := hl (l, x) (tbGet_mem hg) hxs
            rw [hl _ he hst] at this
            cases this; exact absurd rfl hkl
        cases x <;> simp [State.thread_setThread, hkl, atFault, faultOf, hT.header, LaneEnd.stops] at hns ⊢
  · have hend : (match es.getLast? with
        | some e => a.endFault id here e
        | none => a) = a := by
      split
      · rename_i e he
        have hm : e ∈ es := List.mem_of_getLast? he
        have := hx e hm
        have hns : ¬(e.2.stops = true ∧ (faultOf here e.2).isSome = true) := fun hh => hs ⟨e, hm, hh⟩
        obtain ⟨k, e⟩ := e
        cases e <;> simp [LaneEnd.stops, faultOf] at hns this <;> rfl
      · rfl
    obtain ⟨i1, i2⟩ := deliver_threads id here es hn a fun e he f p hd => h e he (by rw [hd]; rfl)
    simp only [hend]
    refine ⟨i1, fun l => ?_⟩
    rw [i2 l]
    cases hg : tbGet es l with
    | none => rfl
    | some x =>
      have hns : ¬(x.stops = true ∧ (faultOf here x).isSome = true) := fun hh => hs ⟨_, tbGet_mem hg, hh⟩
      cases x <;> simp [LaneEnd.stops, faultOf] at hns <;> rfl

/-! ### The lanes a lane waits for -/

theorem filter_ends {es : List (Nat × LaneEnd)} (hn : (es.map Prod.fst).Nodup) (q : LaneEnd → Bool) :
    (es.filter fun e => q e.2).map Prod.fst = (es.map Prod.fst).filter fun l => ((tbGet es l).map q).getD false := by
  rw [List.filter_map]
  congr 1
  apply List.filter_congr
  intro e he
  simp [tbGet_of_mem hn he]

theorem performed_held (e : LaneEnd) : (!e.performed) = heldEnd (some e) := by cases e <;> rfl

theorem mates_eq {g : Issue} {whole : Bool} {ends : List (Nat × LaneEnd)} (hnd : g.lanes.Nodup) (hp : ends.map Prod.fst <+: g.lanes)
    (hall : (∀ e ∈ ends, e.2.stops = false) → ends.map Prod.fst = g.lanes)
    (hx : ∀ e ∈ ends, e.2 ≠ .broken ∧ ∀ va, e.2 ≠ .exhausted va) :
    let held := (ends.filter fun e => !e.2.performed).map Prod.fst
    let unreached := g.lanes.filter fun l => (tbGet ends l).isNone
    let faulted := ends.any fun e => e.2.stops && e.2.performed
    let done := (ends.filter fun e => e.2.performed && !e.2.stops).map Prod.fst
    (if whole then done else []) ++ held ++ (if faulted ∨ held = [] then [] else unreached) = matesOf g whole ends := by
  obtain ⟨rest, hr⟩ := hp
  have hn : (ends.map Prod.fst).Nodup := by rw [← hr] at hnd; exact (List.nodup_append.1 hnd).1
  have hrest : ∀ l ∈ rest, tbGet ends l = none := by
    intro l hl
    rw [← hr] at hnd
    exact tbGet_none_of fun hm => (List.nodup_append.1 hnd).2.2 _ hm _ hl rfl
  have hfa : (ends.any fun e => e.2.stops && e.2.performed) = ends.any fun e => faultEnd e.2 := by
    rw [Bool.eq_iff_iff]
    simp only [List.any_eq_true]
    refine exists_congr fun e => and_congr_right fun he => ?_
    have := hx e he
    obtain ⟨k, e⟩ := e
    cases e <;> simp at this <;> simp [LaneEnd.stops, LaneEnd.performed, faultEnd]
  have hdone : (ends.filter fun e => e.2.performed && !e.2.stops) = ends.filter fun e => doneEnd e.2 := by
    apply List.filter_congr
    intro e _
    obtain ⟨k, e⟩ := e
    cases e <;> rfl
  have hheld : (ends.filter fun e => !e.2.performed).map Prod.fst = (ends.map Prod.fst).filter fun l => heldEnd (tbGet ends l) := by
    rw [filter_ends hn fun e => !e.performed]
    apply List.filter_congr
    intro l hl
    obtain ⟨e, he, rfl⟩ := List.mem_map.1 hl
    simp [tbGet_of_mem hn he, performed_held]
  simp only [matesOf, hdone, hfa, List.append_assoc]
  congr 1
  have hmem : ∀ l ∈ ends.map Prod.fst, (tbGet ends l).isSome = true := by
    intro l hl
    obtain ⟨e, he, rfl⟩ := List.mem_map.1 hl
    rw [tbGet_of_mem hn he]; rfl
  rw [hheld, ← hr, List.filter_append, List.filter_append]
  congr 1
  · apply List.filter_congr
    intro l hl
    simp [hmem l hl]
  · have hun : (ends.map Prod.fst).filter (fun l => (tbGet ends l).isNone) = [] := by
      rw [List.filter_eq_nil_iff]; intro l hl
      have := hmem l hl
      cases hg : tbGet ends l <;> simp [hg] at this ⊢
    have hur : rest.filter (fun l => (tbGet ends l).isNone) = rest := by
      rw [List.filter_eq_self]; intro l hl; rw [hrest l hl]; rfl
    rw [hun, hur, List.nil_append]
    by_cases hf : (ends.any fun e => faultEnd e.2) = true
    · rw [if_pos (.inl hf)]
      symm; rw [List.filter_eq_nil_iff]; intro l hl; simp [hrest l hl, hf]
    · have hf' : (ends.any fun e => faultEnd e.2) = false := by simpa using hf
      have hsame : rest.filter (fun l => heldEnd (tbGet ends l) && ((tbGet ends l).isSome || !ends.any fun e => faultEnd e.2)) = rest := by
        rw [List.filter_eq_self]; intro l hl; simp [hrest l hl, hf', heldEnd]
      rw [hsame]
      by_cases hh : (ends.map Prod.fst).filter (fun l => heldEnd (tbGet ends l)) = []
      · rw [if_pos (.inr hh)]
        have := hall (by
          intro e he
          have h1 := List.filter_eq_nil_iff.1 hh e.1 (List.mem_map.2 ⟨_, he, rfl⟩)
          rw [tbGet_of_mem hn he] at h1
          have h2 : faultEnd e.2 = false := by
            rw [List.any_eq_false] at hf'; simpa using hf' e he
          have h3 := hx e he
          obtain ⟨k, e⟩ := e
          cases e <;> simp [heldEnd, faultEnd, LaneEnd.stops] at h1 h2 h3 ⊢)
        rw [← hr] at this
        symm; simpa using this
      · rw [if_neg (by rintro (h | h); exacts [hf h, hh h])]

/-! ### The group -/

theorem guarded_fun (i : Instr) (id : WarpId) (g : Issue) (act : State → ThreadId → Dword → Dword → State × LaneEnd) :
    (fun (a : State) l => if (a.thread ⟨id, l⟩).guard i.ext.guard || !i.form.guarded then
      act a ⟨id, l⟩ g.pc (g.pc + BitVec.ofNat 64 (4 * i.words)) else (a, .go)) = guardedAct i id g act := by
  funext a l
  simp [guardedAct]

theorem leave_go (u : Thread) (now no : Nat) (mates : List Nat) (here next : Dword) :
    u.leave .go now no mates here next =
      if mates = [] then { stepped u now with pc := next } else { stepped u now with wait := .together mates here next, pc := here } := rfl

theorem leave_jump (u : Thread) (pc : Dword) (now no : Nat) (mates : List Nat) (here next : Dword) :
    u.leave (.jump pc) now no mates here next = { stepped u now with pc := pc } := rfl

theorem leave_park (u : Thread) (w : Wait) (now no : Nat) (mates : List Nat) (here next : Dword) :
    u.leave (.park w) now no mates here next = { stepped u now with wait := w.withMates mates, pc := here } := rfl

theorem leave_log (u : Thread) (va : Nat) (data : List PWord) (now no : Nat) (mates : List Nat) (here next : Dword) :
    u.leave (.log va data) now no mates here next = { u with wait := .logged no mates next, pc := here } := rfl

theorem leave_hold (u : Thread) (now no : Nat) (mates : List Nat) (here next : Dword) :
    u.leave .hold now no mates here next = { u with pc := here, stalled := true } := rfl

theorem leave_stall (u : Thread) (now no : Nat) (mates : List Nat) (here next : Dword) :
    u.leave .stall now no mates here next = { u with pc := here, stalled := true } := rfl

/-- A lane at its fault. -/
theorem leave_fault (u : Thread) (e : LaneEnd) (here' : Dword) (h : (faultOf here' e).isSome = true) (now no : Nat) (mates : List Nat)
    (here next : Dword) : u.leave e now no mates here next = { stepped u now with pc := here } := by
  cases e <;> first | rfl | cases h

/-- Counting an issue touches neither the number nor the warps. -/
theorem countIssue_put (s : State) (id : WarpId) (n : Nat) (w : Warp) :
    ({ s with nextId := n }.setWarp id w).countIssue id = { s.countIssue id with nextId := n, warps := tbSet s.warps id w } := by
  have hp : ({ s with nextId := n }.setWarp id w).part id.gang.part = s.part id.gang.part := rfl
  simp only [State.countIssue]
  unfold State.count
  rw [hp]
  split <;> rfl

/-- An issue counted changes a rate and a counter. -/
theorem countIssue_rest (s : State) (id : WarpId) : s.countIssue id = { s with wgs := (s.countIssue id).wgs, parts := (s.countIssue id).parts } := by
  simp only [State.countIssue]
  unfold State.count
  split <;> rfl

/-- The thread of a lane of a group before faults and regrouping. -/
def leftAt (ends : List (Nat × LaneEnd)) (mates : List Nat) (now no : Nat) (here next : Dword) (l : Nat) (u : Thread) : Thread :=
  match tbGet ends l with
  | some e => u.leave e now no mates here next
  | none => { u with pc := here, stalled := true }

/-- A boundary instruction over its group. -/
theorem grouped_runLanes (s : State) (i : Instr) (whole : Bool) (act : State → ThreadId → Dword → Dword → State × LaneEnd) :
    Grouped s i whole act (s.runLanes i whole act) := by
  intro id g s1 ends hf hc hnd ht hw hl hr hok logs counts
  have hends : s.laneEnds i id g act = (s1, ends) := by
    rw [State.laneEnds, guarded_fun]; exact walks_runEach hw
  have hp := walks_prefix hw
  have hn : (ends.map Prod.fst).Nodup := by
    obtain ⟨rest, hr'⟩ := hp; rw [← hr'] at hnd; exact (List.nodup_append.1 hnd).1
  have hx : ∀ e ∈ ends, e.2 ≠ .broken ∧ ∀ va, e.2 ≠ .exhausted va := by
    intro e he; have := hok e he
    obtain ⟨k, e⟩ := e
    cases e <;> simp at this ⊢
  have hsub : ∀ l ∈ ends.map Prod.fst, l ∈ g.lanes := fun l hm => hp.subset hm
  have hover : (s.warp id).overrun i ((ends.filter fun e => e.2.performed).map Prod.fst) = none := by
    apply overrun_none
    intro k hk
    obtain ⟨e, he, rfl⟩ := List.mem_map.1 hk
    exact ht id g hf hc _ (hsub _ (List.mem_map.2 ⟨_, List.mem_of_mem_filter he, rfl⟩))
  have hmates := mates_eq (whole := whole) hnd hp (fun h => walks_all hw h) hx
  have hlogs : captured i s1.nextId g.pc ends = logs := by
    unfold captured; apply List.filterMap_congr; intro e _; obtain ⟨k, e⟩ := e; cases e <;> rfl
  obtain ⟨next, hnext⟩ : ∃ next, next = g.pc + BitVec.ofNat 64 (4 * i.words) := ⟨_, rfl⟩
  obtain ⟨mates, hm⟩ : ∃ m, m = matesOf g whole ends := ⟨_, rfl⟩
  -- the threads after the lanes have left
  obtain ⟨w2, hw2⟩ : ∃ w, w = ends.foldl (fun w e => w.setThread e.1 ((w.thread e.1).leave e.2 s.clk s1.nextId mates g.pc next)) (s1.warp id) :=
    ⟨_, rfl⟩
  have hf2 := foldl_leave (fun t e => t.leave e s.clk s1.nextId mates g.pc next) ends hn (s1.warp id)
  rw [← hw2] at hf2
  obtain ⟨unr, hunr⟩ : ∃ u, u = g.lanes.filter fun l => (tbGet ends l).isNone := ⟨_, rfl⟩
  obtain ⟨w3, hw3⟩ : ∃ w, w = unr.foldl (fun w l => w.setThread l { w.thread l with pc := g.pc, stalled := true }) w2 := ⟨_, rfl⟩
  have hf3 := foldl_stand (fun t => { t with pc := g.pc, stalled := true }) unr (hunr ▸ hnd.filter _) w2
  rw [← hw3] at hf3
  have ht3 : ∀ l, w3.thread l = if l ∈ g.lanes then leftAt ends mates s.clk s1.nextId g.pc next l ((s1.warp id).thread l)
      else (s1.warp id).thread l := by
    intro l
    rw [hf3.1 l, hf2.1 l, hunr]
    unfold leftAt
    cases hg : tbGet ends l with
    | none => by_cases hin : l ∈ g.lanes <;> simp [hg, hin]
    | some e =>
      have : l ∈ g.lanes := hsub l (List.mem_map.2 ⟨_, tbGet_mem hg, rfl⟩)
      simp [hg, this]
  have hr3 : w3 = { s1.warp id with lanes := w3.lanes } := by rw [hf3.2, hf2.2]
  obtain ⟨wn, hwn⟩ : ∃ w, w = { w3.syncShadow with cur := none, log := w3.log.filter LogEntry.boundary ++ logs } := ⟨_, rfl⟩
  obtain ⟨s2, hs2⟩ : ∃ x, x = { s1 with nextId := if logs = [] then s1.nextId else s1.nextId + 1 }.setWarp id wn := ⟨_, rfl⟩
  obtain ⟨s3, hs3⟩ : ∃ x, x = if ends.any (fun e => e.2.performed) then s2.countIssue id else s2 := ⟨_, rfl⟩
  have hw3s : s3.warp id = wn := by
    rw [hs3]; split
    · rw [State.warp_countIssue, hs2, State.warp_setWarp_self]
    · rw [hs2, State.warp_setWarp_self]
  have ho3 : ∀ id', id' ≠ id → s3.warp id' = s1.warp id' := by
    intro id' h'
    have : s2.warp id' = s1.warp id' := by rw [hs2, State.warp_setWarp, if_neg (Ne.symm h')]; rfl
    rw [hs3]; split
    · rw [State.warp_countIssue, this]
    · exact this
  have hh3 : s3.header id.gang = s1.header id.gang := by
    have : s2.header id.gang = s1.header id.gang := by
      rw [hs2]; simp only [State.header, State.launch, State.part, State.setWarp]
    rw [hs3]; split
    · rw [State.header_countIssue, this]
    · exact this
  have hth3 : ∀ l, s3.thread ⟨id, l⟩ = w3.thread l := by
    intro l; simp only [State.thread, hw3s, hwn]; rfl
  have hthere : (tbGet s3.warps id).isSome = true := by
    have h2 : (tbGet s2.warps id).isSome = true := by rw [hs2]; simp [State.setWarp]
    rw [hs3]; split
    · rw [State.countIssue_warps]; exact h2
    · exact h2
  have hready : ∀ e ∈ ends, (faultOf g.pc e.2).isSome = true →
      (s1.header id.gang).handler ≠ 0 ∧ (s1.thread ⟨id, e.1⟩).inHandler = false ∧ (s1.thread ⟨id, e.1⟩).wait = .ready := by
    intro e he hfe
    have h1 := hok e he
    have h2 := hr e.1 (hsub _ (List.mem_map.2 ⟨_, he, rfl⟩))
    have h3 := tbGet_of_mem hn he
    obtain ⟨k, e⟩ := e
    cases e <;> simp [faultOf, h3] at hfe h1 h2 ⊢ <;> tauto
  have hfaults := faults_threads id g.pc ends hn (walks_last hw) s3
    (by
      intro e he hfe
      obtain ⟨c1, c2, c3⟩ := hready e he hfe
      have hin : e.1 ∈ g.lanes := hsub _ (List.mem_map.2 ⟨_, he, rfl⟩)
      rw [hh3, hth3, ht3, if_pos hin, leftAt, tbGet_of_mem hn he]
      simp only [leave_fault _ _ g.pc hfe]
      refine ⟨c1, c2, ?_⟩
      change (s1.thread ⟨id, e.1⟩).wait ≠ .exited
      rw [c3]; exact Wait.noConfusion) hx
  obtain ⟨b, hb⟩ : ∃ x, x = (match ends.getLast? with
      | some e => s3.endFault id g.pc e
      | none => s3).deliverAll id g.pc ends := ⟨_, rfl⟩
  simp only [← hb] at hfaults
  obtain ⟨hT, hbt⟩ := hfaults
  have hrun : s.runLanes i whole act = b.modWarp id Warp.regroup := by
    simp only [State.runLanes, hf, hc, hends, hover, hlogs, hmates]
    subst hb hs3 hs2 hwn hw3 hw2 hunr hm hnext
    rfl
  have hwarp : (s.runLanes i whole act).warp id = (b.warp id).regroup := by
    rw [hrun, State.warp_modWarp, if_pos rfl]
    obtain ⟨w, hwb⟩ := Option.isSome_iff_exists.1 (hT.there hthere)
    simp [State.warp, hwb]
  -- each lane before the regrouping
  have hbl : ∀ l, (b.warp id).thread l =
      match tbGet ends l with
      | some e => atFault ((s1.thread ⟨id, l⟩).leave e s.clk s1.nextId mates g.pc next) l g.pc (s1.header id.gang).handler e
      | none => if l ∈ g.lanes then { s1.thread ⟨id, l⟩ with pc := g.pc, stalled := true } else s1.thread ⟨id, l⟩ := by
    intro l
    have := hbt l
    simp only [State.thread] at this ⊢
    rw [this]
    have h3 := hth3 l
    simp only [State.thread] at h3
    rw [h3, ht3, hh3]
    cases hg : tbGet ends l with
    | none => simp [leftAt, hg]
    | some e =>
      have hin : l ∈ g.lanes := hsub l (List.mem_map.2 ⟨_, tbGet_mem hg, rfl⟩)
      simp [leftAt, hg, hin]
  have hstill : ∀ l ∈ mates, (b.warp id).stillAt g.pc l = (heldEnd (tbGet ends l) || ((tbGet ends l).map standsOpen).getD false) := by
    intro l hlm
    have hin : l ∈ g.lanes := by
      rw [hm] at hlm
      rcases List.mem_append.1 hlm with h | h
      · cases whole
        · simp at h
        · simp only [if_true] at h
          obtain ⟨e, he, rfl⟩ := List.mem_map.1 h
          exact hsub _ (List.mem_map.2 ⟨_, List.mem_of_mem_filter he, rfl⟩)
      · exact List.mem_of_mem_filter h
    have hone : ∀ e, tbGet ends l = some e → whole = false → heldEnd (some e) = true := by
      intro e he hwf
      rw [hm, matesOf, hwf] at hlm
      simp [he] at hlm; exact hlm.2
    have hnf : ∀ e, tbGet ends l = some e → heldEnd (some e) = true ∨ doneEnd e = true := by
      intro e he
      rw [hm, matesOf] at hlm
      rcases List.mem_append.1 hlm with h | h
      · cases whole
        · simp at h
        · simp only [if_true] at h
          obtain ⟨x, hx', rfl⟩ := List.mem_map.1 h
          have := tbGet_of_mem hn (List.mem_of_mem_filter hx')
          rw [he] at this; cases this
          exact .inr (List.mem_filter.1 hx').2
      · have := (List.mem_filter.1 h).2
        simp [he] at this; exact .inl this
    have hrl := hr l hin
    unfold Warp.stillAt
    rw [hbl l]
    cases hg : tbGet ends l with
    | none =>
      simp only [hg, reduceCtorEq, exists_false, or_false] at hrl
      simp [hin, hrl, heldEnd]
    | some e =>
      have h1 := hok _ (tbGet_mem hg)
      have h2 := hone e hg
      have h3 := hnf e hg
      rw [hg] at hrl
      cases e with
      | go =>
        have hne : mates ≠ [] := fun h => by rw [h] at hlm; cases hlm
        simp [atFault, faultOf, leave_go, hne, heldEnd, standsOpen]
      | jump pc => exact absurd (h2 h1) (by simp [heldEnd])
      | park w =>
        simp only [atFault, faultOf, leave_park, heldEnd]
        cases w <;> simp [Wait.withMates, standsOpen] at h1 ⊢
      | log va data => simp [atFault, faultOf, leave_log, heldEnd, standsOpen]
      | hold => simp at hrl; simp [atFault, faultOf, leave_hold, heldEnd, hrl]
      | stall => simp at hrl; simp [atFault, faultOf, leave_stall, heldEnd, hrl]
      | fault f => simp [heldEnd, doneEnd] at h3
      | trap f p => simp [heldEnd, doneEnd] at h3
      | deliver f p => exact absurd (h2 h1.1) (by simp [heldEnd])
      | broken => exact absurd h1 (by simp)
      | exhausted va => exact absurd h1 (by simp)
  have hany : mates.any ((b.warp id).stillAt g.pc) = stillThere g whole ends := by
    rw [Bool.eq_iff_iff, stillThere, ← hm]
    simp only [List.any_eq_true]
    exact exists_congr fun l => and_congr_right fun hlm => by rw [hstill l hlm]
  refine ⟨?_, ?_, ?_, ?_, ?_⟩
  · intro l hin
    rw [State.thread, hwarp, Warp.regroup_thread, hbl l]
    have hrl := hr l hin
    have hll := hl l
    unfold endsAt
    simp only [← hm, ← hnext]
    cases hg : tbGet ends l with
    | none =>
      rw [hg] at hrl; simp at hrl
      simp [hin, hrl]
    | some e =>
      have h1 := hok _ (tbGet_mem hg)
      rw [hg] at hrl
      cases e with
      | go =>
        simp only [Option.some.injEq, reduceCtorEq, exists_false, or_false] at hrl
        by_cases hmn : mates = []
        · have hst : stillThere g whole ends = false := by rw [← hany, hmn]; rfl
          simp only [atFault, faultOf, leave_go, hmn, if_true, hst, Bool.false_eq_true, if_false]
          have : ({ stepped (s1.thread ⟨id, l⟩) s.clk with pc := next } : Thread).wait = .ready := hrl
          rw [this]
        · simp only [atFault, faultOf, leave_go, if_neg hmn, hany]
          have : (stepped (s1.thread ⟨id, l⟩) s.clk).wait = .ready := hrl
          cases stillThere g whole ends
          · simp only [Bool.false_eq_true, if_false]; rw [← this]
          · rfl
      | jump pc =>
        simp only [Option.some.injEq, reduceCtorEq, exists_false, or_false] at hrl
        simp only [atFault, faultOf, leave_jump]
        have : ({ stepped (s1.thread ⟨id, l⟩) s.clk with pc := pc } : Thread).wait = .ready := hrl
        rw [this]
      | park w =>
        simp only [atFault, faultOf, leave_park]
        cases w <;> first | rfl | exact absurd rfl (h1.2.2 _ _ _)
      | log va data => rfl
      | hold =>
        simp only [Option.some.injEq, reduceCtorEq, exists_false, or_false] at hrl
        simp only [atFault, faultOf, leave_hold, hrl]
      | stall =>
        simp only [Option.some.injEq, reduceCtorEq, exists_false, or_false] at hrl
        simp only [atFault, faultOf, leave_stall, hrl]
      | fault f => rfl
      | trap f p => rfl
      | deliver f p => rfl
      | broken => exact absurd h1 (by simp)
      | exhausted va => exact absurd h1 (by simp)
  · intro l hin
    have hg : tbGet ends l = none := tbGet_none_of fun h => hin (hsub l h)
    have hb' := hbl l
    simp only [hg, if_neg hin] at hb'
    rw [State.thread, hwarp, Warp.regroup_thread_of, hb']
    rw [hb']; exact hl l
  · intro id' h'
    rw [hrun, State.warp_modWarp, if_neg (Ne.symm h'), hT.others id' h', ho3 id' h']
  · rw [hwarp]
    have h1 : (b.warp id).regroup = { b.warp id with lanes := (b.warp id).regroup.lanes } := rfl
    rw [h1, hT.warp, hw3s, hwn]
    rw [hr3]; rfl
  · have hrest : s.runLanes i whole act = { b with warps := (s.runLanes i whole act).warps } := by rw [hrun]; rfl
    rw [hrest, hT.rest, hs3, hs2]
    have hcnt : (ends.any fun e => !heldEnd (some e.2)) = ends.any fun e => e.2.performed := by
      congr 1; funext e; rw [← performed_held]; simp
    have hno : (if logs = [] then s1.nextId else s1.nextId + 1) = s1.nextId + if logs = [] then 0 else 1 := by split <;> rfl
    simp only [counts, hcnt, hno]
    split
    · rw [countIssue_put, countIssue_rest s1 id]
    · rfl

end Sys2Proof.Claim
end

