-- ==== Sys2Proof/Tests/Slice0.lean ====
section
/-! SUPPORT. Tests: words of the spec's encodings decode to what they stand for, ill-formed terms are refused, and for every
statement with hypotheses a state and operands that meet them. Expected results are the spec's examples, or read off its tables by hand. -/

open Sys2Proof Sys2Proof.Machine Sys2Proof.Claim

namespace Sys2Proof.Tests

set_option Elab.async false

/-! ### Decoding -/

/-- Operand fields without lookahead, retain or literal (Table 2-5). -/
def e (guard : BitVec 4) (d a b c : RegIdx) (modA : BitVec 6) (modB : BitVec 5) (imm : BitVec 23) : Ext :=
  { guard := guard, la := 0, retain := 0, modA := modA, modB := modB, d := d, a := a, b := b, c := c, imm := imm, lit := none }

/-- A row of the tables below: three words, and the instruction they stand for. -/
def ext (w0 w1 w2 : Nat) (f : Ext → Instr) (guard d a b c modA modB imm : Nat) : List Word × Instr :=
  ([BitVec.ofNat 32 w0, BitVec.ofNat 32 w1, BitVec.ofNat 32 w2],
    f (e (BitVec.ofNat 4 guard) (BitVec.ofNat 9 d) (BitVec.ofNat 9 a) (BitVec.ofNat 9 b) (BitVec.ofNat 9 c) (BitVec.ofNat 6 modA)
      (BitVec.ofNat 5 modB) (BitVec.ofNat 23 imm)))

/-- One word of base form RR. -/
def rr (w : Nat) (f : RegIdx → RegIdx → Option Dword → Instr) (d b : Nat) : List Word × Instr :=
  ([BitVec.ofNat 32 w], f (BitVec.ofNat 9 d) (BitVec.ofNat 9 b) none)

/-- One word of base form RR without B. -/
def rr1 (w : Nat) (f : RegIdx → Instr) (d : Nat) : List Word × Instr := ([BitVec.ofNat 32 w], f (BitVec.ofNat 9 d))

/-- One word of base form RI. -/
def ri (w : Nat) (f : RegIdx → BitVec 15 → Option Dword → Instr) (d imm : Nat) : List Word × Instr :=
  ([BitVec.ofNat 32 w], f (BitVec.ofNat 9 d) (BitVec.ofNat 15 imm) none)

/-- One other word. -/
def one (w : Nat) (i : Instr) : List Word × Instr := ([BitVec.ofNat 32 w], i)

/-- The words decode to the instruction. -/
def reads (r : List Word × Instr) : Bool := (decodeWords r.1).toOption == some r.2

/-- The words are no instruction. -/
def refused (ws : List Word) : Bool := (decodeWords ws).toOption == none

/-- Base RR, majors 0x01, 0x03, 0x04 (Tables 2-2, 2-7). -/
def baseInt : List (List Word × Instr) :=
  [rr 0x000E0504 .iaddBase 5 7,
   rr 0x040E0504 .isubBase 5 7,
   rr 0x080E0504 .iaddcBase 5 7,
   rr 0x0C0E0504 .iminBase 5 7,
   rr 0x100E0504 .imaxBase 5 7,
   rr1 0x14000504 .iabsBase 5,
   rr1 0x18000504 .inegBase 5,
   rr 0x1C0E0504 .iaminBase 5 7,
   rr 0x200E0504 .iamaxBase 5 7,
   rr 0x240E0504 .isadBase 5 7,
   rr 0x28100604 .iadd64Base 6 8,
   rr 0x2C100604 .isub64Base 6 8,
   rr 0x000E050C .faddBase 5 7,
   rr 0x040E050C .fsubBase 5 7,
   rr 0x080E050C .fmulBase 5 7,
   rr 0x0C0E050C .ffmaBase 5 7,
   rr 0x100E050C .fminBase 5 7,
   rr 0x140E050C .fmaxBase 5 7,
   rr 0x000E0510 .movBase 5 7]

theorem test_decode_BaseInt : baseInt.all reads = true := by decide +kernel

/-- Base RR, major 0x02. -/
def baseBit : List (List Word × Instr) :=
  [rr 0x000E0508 .shlBase 5 7,
   rr 0x040E0508 .shrBase 5 7,
   rr 0x080E0508 .sarBase 5 7,
   rr 0x0C0E0508 .rotlBase 5 7,
   rr 0x100E0508 .bandBase 5 7,
   rr 0x140E0508 .borBase 5 7,
   rr 0x180E0508 .bxorBase 5 7,
   rr1 0x1C000508 .bnotBase 5,
   rr 0x200E0508 .bool3Base 5 7,
   rr1 0x24000508 .popcBase 5,
   rr1 0x28000508 .clzBase 5,
   rr1 0x2C000508 .ctzBase 5,
   rr1 0x30000508 .brevBase 5,
   rr 0x340E0508 .bfeBase 5 7,
   rr 0x380E0508 .bfiBase 5 7,
   rr 0x3C0E0508 .funnelBase 5 7,
   rr 0x40100608 .shl64Base 6 8,
   rr 0x44100608 .shr64Base 6 8,
   rr 0x48100608 .sar64Base 6 8]

theorem test_decode_BaseBit : baseBit.all reads = true := by decide +kernel

/-- Base RI, BR and SY (Tables 2-3, 2-4). -/
def baseRest : List (List Word × Instr) :=
  [ri 0xFFFA0520 .addi 5 32765,
   ri 0x000A0524 .moviBase 5 5,
   ri 0x01FE0528 .andi 5 255,
   ri 0x003E052C .shli 5 31,
   ri 0x00020530 .shri 5 1,
   ri 0x00040534 .sari 5 2,
   one 0xFFFFD180 (.braBase 1 1048573),
   one 0x00000388 (.rjmarkBase 3),
   one 0x00000B88 (.rjwaitBase 3),
   one 0x0012078C (.sealBase 7 9),
   one 0x00009090 (.yieldBase 2 4),
   one 0x00000190 (.tailBase),
   one 0x00000290 (.exitBase),
   one 0x00246894 (.trapBase 0x1234),
   one 0x00246994 (.brkBase 0x1234)]

theorem test_decode_BaseRest : baseRest.all reads = true := by decide +kernel

/-- Extended majors 0x01 and 0x02 (Tables 2-5, 2-8, 6-1). -/
def extInteger : List (List Word × Instr) :=
  [ext 0x080A0005 0x001C0C05 0x00000000 .iadd 10 5 6 7 0 2 0 0,
   ext 0x080A0105 0x001C0C05 0x00000000 .isub 10 5 6 7 0 2 0 0,
   ext 0x000A0205 0x001C0C05 0x00000009 .iaddc 10 5 6 7 9 0 0 0,
   ext 0x040A0305 0x001C0C05 0x00000000 .imin 10 5 6 7 0 1 0 0,
   ext 0x040A0405 0x001C0C05 0x00000000 .imax 10 5 6 7 0 1 0 0,
   ext 0x080A0505 0x00000C05 0x00000000 .iabs 10 5 6 0 0 2 0 0,
   ext 0x080A0605 0x00000C05 0x00000000 .ineg 10 5 6 0 0 2 0 0,
   ext 0x000A0705 0x001C0C05 0x00000009 .iamin 10 5 6 7 9 0 0 0,
   ext 0x000A0805 0x001C0C05 0x00000009 .iamax 10 5 6 7 9 0 0 0,
   ext 0x000A0905 0x001C0C05 0x00000009 .isad 10 5 6 7 9 0 0 0,
   ext 0x040A0A05 0x00281006 0x00000000 .iadd64 10 6 8 10 0 1 0 0,
   ext 0x040A0B05 0x00281006 0x00000000 .isub64 10 6 8 10 0 1 0 0,
   ext 0x000A0C05 0x001C0C05 0x00000600 .lea 10 5 6 7 0 0 0 3,
   ext 0x000A0D05 0x001C1006 0x00000800 .lea64 10 6 8 7 0 0 0 4,
   ext 0x040A0009 0x001C0C05 0x00000000 .imul 10 5 6 7 0 1 0 0,
   ext 0x040A0109 0x001C0C05 0x00000000 .imulh 10 5 6 7 0 1 0 0,
   ext 0x0C0A0209 0x001C0C05 0x00000009 .imad 10 5 6 7 9 3 0 0,
   ext 0x040A0309 0x001C0A06 0x00000000 .imulw 10 6 5 7 0 1 0 0,
   ext 0x040A0409 0x001C0A06 0x00000008 .imadw 10 6 5 7 8 1 0 0,
   ext 0x040A0509 0x001C0C05 0x00000000 .idiv 10 5 6 7 0 1 0 0] ++
  [ext 0x040A0609 0x001C0C05 0x00000000 .irem 10 5 6 7 0 1 0 0]

theorem test_decode_ExtInteger : extInteger.all reads = true := by decide +kernel

/-- Extended major 0x03. -/
def extBit : List (List Word × Instr) :=
  [ext 0x000A000D 0x001C0C05 0x00000000 .shl 10 5 6 7 0 0 0 0,
   ext 0x000A010D 0x001C0C05 0x00000000 .shr 10 5 6 7 0 0 0 0,
   ext 0x000A020D 0x001C0C05 0x00000000 .sar 10 5 6 7 0 0 0 0,
   ext 0x000A030D 0x001C0C05 0x00000000 .rotl 10 5 6 7 0 0 0 0,
   ext 0x000A040D 0x001C0C05 0x00000000 .band 10 5 6 7 0 0 0 0,
   ext 0x000A050D 0x001C0C05 0x00000000 .bor 10 5 6 7 0 0 0 0,
   ext 0x000A060D 0x001C0C05 0x00000000 .bxor 10 5 6 7 0 0 0 0,
   ext 0x000A070D 0x00000C05 0x00000000 .bnot 10 5 6 0 0 0 0 0,
   ext 0x000A080D 0x001C0C05 0x00012C09 .bool3 10 5 6 7 9 0 0 150,
   ext 0x000A090D 0x00000C05 0x00000000 .popc 10 5 6 0 0 0 0 0,
   ext 0x000A0A0D 0x00000C05 0x00000000 .clz 10 5 6 0 0 0 0 0,
   ext 0x000A0B0D 0x00000C05 0x00000000 .ctz 10 5 6 0 0 0 0 0,
   ext 0x000A0C0D 0x00000C05 0x00000000 .brev 10 5 6 0 0 0 0 0,
   ext 0x040A0D0D 0x001C0C05 0x00000000 .bfe 10 5 6 7 0 1 0 0,
   ext 0x000A0E0D 0x001C0C05 0x00000009 .bfi 10 5 6 7 9 0 0 0,
   ext 0x000A0F0D 0x001C0C05 0x00000009 .funnel 10 5 6 7 9 0 0 0,
   ext 0x000A100D 0x00281006 0x00000000 .shl64 10 6 8 10 0 0 0 0,
   ext 0x000A110D 0x00281006 0x00000000 .shr64 10 6 8 10 0 0 0 0,
   ext 0x000A120D 0x00281006 0x00000000 .sar64 10 6 8 10 0 0 0 0]

theorem test_decode_ExtBit : extBit.all reads = true := by decide +kernel

/-- Extended majors 0x04 to 0x07. -/
def extFloat : List (List Word × Instr) :=
  [ext 0x280A0011 0x481C0C03 0x00000000 .iset 10 3 6 7 0 10 9 0,
   ext 0x0C0A0111 0x00200C03 0x00000000 .iset64 10 3 6 8 0 3 0 0,
   ext 0x3C0A0211 0x001C0C03 0x00000000 .fset 10 3 6 7 0 15 0 0,
   ext 0x080A0311 0x00200C03 0x00000000 .fset64 10 3 6 8 0 2 0 0,
   ext 0x000A0411 0x00080203 0x0001D004 .pset 10 3 1 2 4 0 0 232,
   ext 0x000A0511 0x001C0C05 0x00000009 .sel 10 5 6 7 9 0 0 0,
   ext 0x000A0611 0x00000005 0x00000000 .pmovGet 10 5 0 0 0 0 0 0,
   ext 0x040A0611 0x00000C00 0x00006A00 .pmovPut 10 0 6 0 0 1 0 53,
   ext 0x240A0015 0x001C0C05 0x00000000 .fadd 10 5 6 7 0 9 0 0,
   ext 0x240A0115 0x001C0C05 0x00000000 .fsub 10 5 6 7 0 9 0 0,
   ext 0x240A0215 0x001C0C05 0x00000000 .fmul 10 5 6 7 0 9 0 0,
   ext 0x080A0315 0x001C0C05 0x00000009 .ffma 10 5 6 7 9 2 0 0,
   ext 0x200A0415 0x001C0C05 0x00000000 .fmin 10 5 6 7 0 8 0 0,
   ext 0x200A0515 0x001C0C05 0x00000000 .fmax 10 5 6 7 0 8 0 0,
   ext 0x240A0615 0x001C0C05 0x00000000 .fdiv 10 5 6 7 0 9 0 0,
   ext 0x0C0A0715 0x00000C05 0x00000000 .fsqrt 10 5 6 0 0 3 0 0,
   ext 0x000A0815 0x001C0C05 0x00000000 .fscale 10 5 6 7 0 0 0 0,
   ext 0x0C0A0915 0x00000C05 0x00000000 .frnd 10 5 6 0 0 3 0 0,
   ext 0x240A0019 0x00200C04 0x00000000 .fadd64 10 4 6 8 0 9 0 0,
   ext 0x240A0119 0x00200C04 0x00000000 .fsub64 10 4 6 8 0 9 0 0] ++
  [ext 0x240A0219 0x00200C04 0x00000000 .fmul64 10 4 6 8 0 9 0 0,
   ext 0x080A0319 0x00200C04 0x0000000A .ffma64 10 4 6 8 10 2 0 0,
   ext 0x200A0419 0x00200C04 0x00000000 .fmin64 10 4 6 8 0 8 0 0,
   ext 0x200A0519 0x00200C04 0x00000000 .fmax64 10 4 6 8 0 8 0 0,
   ext 0x240A0619 0x00200C04 0x00000000 .fdiv64 10 4 6 8 0 9 0 0,
   ext 0x0C0A0719 0x00000C04 0x00000000 .fsqrt64 10 4 6 0 0 3 0 0,
   ext 0x000A0819 0x001C0C04 0x00000000 .fscale64 10 4 6 7 0 0 0 0,
   ext 0x0C0A0919 0x00000C04 0x00000000 .frnd64 10 4 6 0 0 3 0 0,
   ext 0x800A001D 0x001C0C05 0x00000000 .hadd2 10 5 6 7 0 32 0 0,
   ext 0x800A011D 0x001C0C05 0x00000000 .hmul2 10 5 6 7 0 32 0 0,
   ext 0x840A021D 0x001C0C05 0x00000009 .hfma2 10 5 6 7 9 33 0 0,
   ext 0x800A031D 0x001C0C05 0x00000000 .hmin2 10 5 6 7 0 32 0 0,
   ext 0x800A041D 0x001C0C05 0x00000000 .hmax2 10 5 6 7 0 32 0 0]

theorem test_decode_ExtFloat : extFloat.all reads = true := by decide +kernel

/-- Extended majors 0x08 to 0x0C. -/
def extConvert : List (List Word × Instr) :=
  [ext 0x180A0021 0x48000C05 0x00000000 .cvt 10 5 6 0 0 6 9 0,
   ext 0x040A0121 0x081C0C05 0x00000000 .cvtpk 10 5 6 7 0 1 1 0,
   ext 0x040A0221 0x00000C05 0x00000200 .cvtx 10 5 6 0 0 1 0 1,
   ext 0x200A0025 0x00000C05 0x00000000 .rcp 10 5 6 0 0 8 0 0,
   ext 0x200A0125 0x00000C05 0x00000000 .rsq 10 5 6 0 0 8 0 0,
   ext 0x200A0225 0x00000C05 0x00000000 .ex2 10 5 6 0 0 8 0 0,
   ext 0x200A0325 0x00000C05 0x00000000 .lg2 10 5 6 0 0 8 0 0,
   ext 0x200A0425 0x00000C05 0x00000000 .sin 10 5 6 0 0 8 0 0,
   ext 0x200A0525 0x00000C05 0x00000000 .cos 10 5 6 0 0 8 0 0,
   ext 0x200A0625 0x00000C05 0x00000000 .tanh 10 5 6 0 0 8 0 0,
   ext 0x040A0725 0x001C0C05 0x00000000 .rand 10 5 6 7 0 1 0 0,
   ext 0x040A0029 0x001C0C05 0x00005800 .shfl 10 5 6 7 0 1 0 44,
   ext 0x080A0129 0x001C1006 0x00005200 .shflx 10 6 8 7 0 2 0 41,
   ext 0x040A0229 0x00000C05 0x00014209 .lsh 10 5 6 0 9 1 0 161,
   ext 0x240A0329 0x00000003 0x00000A00 .vote 10 3 0 0 0 9 0 5,
   ext 0x240A0429 0x00000005 0x00000A00 .ballot 10 5 0 0 0 9 0 5,
   ext 0x080A0529 0x00000C05 0x00000A00 .matchKey 10 5 6 0 0 2 0 5,
   ext 0x0C0A0629 0x00000C05 0x00000A00 .reduce 10 5 6 0 0 3 0 5,
   ext 0x4C0A0729 0x00000C05 0x00000A00 .scan 10 5 6 0 0 19 0 5,
   ext 0x040A002D 0x00000C05 0x00000000 .had32 10 5 6 0 0 1 0 0] ++
  [ext 0x040A012D 0x00000C05 0x00000400 .qblk 10 5 6 0 0 1 0 2,
   ext 0x040A022D 0x00000C05 0x00000000 .dqblk 10 5 6 0 0 1 0 0,
   ext 0x000A0031 0x001C0005 0x00000000 .mov 10 5 0 7 0 0 0 0,
   ext 0x000A0131 0x00000005 0xFFFFFA00 .movi 10 5 0 0 0 0 0 8388605,
   ext 0x000A0231 0x00000006 0x00002400 .sread 10 6 0 0 0 0 0 18,
   ext 0x000A0331 0x00000C00 0x00002000 .swrite 10 0 6 0 0 0 0 16,
   ext 0x000A0431 0x00000006 0x00002200 .wid 10 6 0 0 0 0 0 17,
   ext 0x0C0A0531 0x00000000 0x00004000 .kset 10 0 0 0 0 3 0 32]

theorem test_decode_ExtConvert : extConvert.all reads = true := by decide +kernel

/-- Extended majors 0x10 to 0x15. -/
def extMemory : List (List Word × Instr) :=
  [ext 0x280A0041 0x10000C05 0xFFFFF800 .ld 10 5 6 0 0 10 2 8388604,
   ext 0x0C0A0141 0x00000006 0x00002000 .ldparam 10 6 0 0 0 3 0 16,
   ext 0x000A0241 0x08000C00 0x00008000 .prefetch 10 0 6 0 0 0 1 64,
   ext 0x080A0045 0x101C0C00 0x00001000 .st 10 0 6 7 0 2 2 8,
   ext 0x000A0049 0x001C0C05 0x4C001000 .atom 10 5 6 7 0 0 0 2490376,
   ext 0x000A0149 0x001C0C05 0x24000009 .cas 10 5 6 7 9 0 0 1179648,
   ext 0x080A0249 0x001C0C00 0x00000000 .red 10 0 6 7 0 2 0 0,
   ext 0x000A004D 0x001C0C00 0x00001000 .join 10 0 6 7 0 0 0 8,
   ext 0x000A014D 0x001C0C00 0x00000000 .jinc 10 0 6 7 0 0 0 0,
   ext 0x000A024D 0x001C0C05 0x00000003 .ldlt 10 5 6 7 3 0 0 0,
   ext 0x000A034D 0x001C0C05 0x00000003 .ldltn 10 5 6 7 3 0 0 0,
   ext 0x000A044D 0x08000C00 0x00000000 .xflush 10 0 6 0 0 0 1 0,
   ext 0x000A0051 0x00000000 0x50000000 .fence 10 0 0 0 0 0 0 2621440,
   ext 0x000A0151 0x00000000 0x00004200 .qfence 10 0 0 0 0 0 0 33,
   ext 0x080A0055 0x00200C00 0x0000000A .copy 10 0 6 8 10 2 0 0,
   ext 0x0C0A0155 0x00200C00 0x0000000C .bulkIn 10 0 6 8 12 3 0 0,
   ext 0x0C0A0155 0x08200C00 0x0000000C .bulkOut 10 0 6 8 12 3 1 0,
   ext 0x0C0A0255 0x00000C00 0x02000600 .mcast 10 0 6 0 0 3 0 65539,
   ext 0x0C0A0355 0x00000C00 0x00002400 .mcrecv 10 0 6 0 0 3 0 18]

theorem test_decode_ExtMemory : extMemory.all reads = true := by decide +kernel

/-- Extended majors 0x16 to 0x1A. -/
def extGroup : List (List Word × Instr) :=
  [ext 0x0C0A0059 0x10000C00 0x00200000 .tiledef 10 0 6 0 0 3 2 4096,
   ext 0x0C0A0159 0x00000000 0x00000000 .tilefree 10 0 0 0 0 3 0 0,
   ext 0x0C0A0259 0x00000005 0x00000000 .tileq 10 5 0 0 0 3 0 0,
   ext 0x000A005D 0x10000C00 0x00000800 .barinit 10 0 6 0 0 0 2 4,
   ext 0x040A015D 0x10000C00 0x00008000 .bararr 10 0 6 0 0 1 2 64,
   ext 0x000A025D 0x10000C00 0x00000203 .barwait 10 0 6 0 3 0 2 1,
   ext 0x000A035D 0x10000C00 0x00000203 .bartest 10 0 6 0 3 0 2 1,
   ext 0x000A045D 0x10000C00 0x00000000 .bardrop 10 0 6 0 0 0 2 0,
   ext 0x0007055D 0x00000000 0x00000000 .wsync 7 0 0 0 0 0 0 0,
   ext 0x0007065D 0x00000000 0x00000000 .gsync 7 0 0 0 0 0 0 0,
   ext 0x000A0061 0x00000005 0x00000000 .sclaim 10 5 0 0 0 0 0 0,
   ext 0x040A0161 0x00000C00 0x00000000 .srel 10 0 6 0 0 1 0 0,
   ext 0x0C0A0261 0x00000C00 0x00000400 .sldt 10 0 6 0 0 3 0 2,
   ext 0x0C0A0361 0x00000C00 0x00000000 .sstt 10 0 6 0 0 3 0 0,
   ext 0x000A0461 0x00400C00 0x00400009 .pack 10 0 6 16 9 0 0 8192,
   ext 0x000A0561 0x00240C10 0x00400000 .unpack 10 16 6 9 0 0 0 8192,
   ext 0x000A0661 0x00000C00 0x00000000 .azero 10 0 6 0 0 0 0 0,
   ext 0x0C0A0065 0x001C0C00 0x00000008 .mma 10 0 6 7 8 3 0 0,
   ext 0x0C0A0165 0x00000006 0x00000000 .kread 10 6 0 0 0 3 0 0,
   ext 0x080A0069 0x00000C00 0x00000000 .dtctx 10 0 6 0 0 2 0 0] ++
  [ext 0x100A0169 0x00281006 0x00000009 .dt2 10 6 8 10 9 4 0 0,
   ext 0x040A0269 0x00001006 0x00000009 .dt1 10 6 8 0 9 1 0 0,
   ext 0x200A0369 0x00281005 0x00000003 .dtcmp 10 5 8 10 3 8 0 0,
   ext 0x040A0469 0x00001006 0x00000003 .dteval 10 6 8 0 3 1 0 0,
   ext 0x080A0569 0x00000C03 0x00000000 .dtstat 10 3 6 0 0 2 0 0]

theorem test_decode_ExtGroup : extGroup.all reads = true := by decide +kernel

/-- Extended majors 0x20 to 0x30. -/
def extControl : List (List Word × Instr) :=
  [ext 0x000A0081 0x00000000 0xFFFFFA00 .bra 10 0 0 0 0 0 0 8388605,
   ext 0x000A0181 0x00000C00 0x00000000 .brx 10 0 6 0 0 0 0 0,
   ext 0x640A0281 0x00000000 0x00000A00 .brv 10 0 0 0 0 25 0 5,
   ext 0x000A0085 0x00000006 0x00000E00 .call 10 6 0 0 0 0 0 7,
   ext 0x000A0185 0x00001006 0x00000000 .callx 10 6 8 0 0 0 0 0,
   ext 0x000A0285 0x00000C00 0x00000000 .ret 10 0 6 0 0 0 0 0,
   ext 0x2C070089 0x00000000 0x00000000 .rjmark 7 0 0 0 0 11 0 0,
   ext 0x0C070189 0x00000000 0x00000000 .rjwait 7 0 0 0 0 3 0 0,
   ext 0x0C070289 0x00000000 0x00000000 .rjdrop 7 0 0 0 0 3 0 0,
   ext 0x0C0A0389 0x00000005 0x00000000 .rjread 10 5 0 0 0 3 0 0,
   ext 0x0007008D 0x001C0C05 0x00000009 .sealExt 7 5 6 7 9 0 0 0,
   ext 0x080A0091 0x20000000 0x00000000 .yield 10 0 0 0 0 2 4 0,
   ext 0x000A0191 0x00000000 0x00000000 .tail 10 0 0 0 0 0 0 0,
   ext 0x000A0291 0x00000000 0x00000000 .exit 10 0 0 0 0 0 0 0,
   ext 0x000A0391 0x00000000 0x00001200 .nap 10 0 0 0 0 0 0 9,
   ext 0x000A0095 0x00000000 0x00246800 .trap 10 0 0 0 0 0 0 4660,
   ext 0x000A0195 0x00000000 0x00246800 .brk 10 0 0 0 0 0 0 4660,
   ext 0x00070295 0x00000000 0x00000000 .eret 7 0 0 0 0 0 0 0,
   ext 0x000A0099 0x00200C05 0x00000000 .launch 10 5 6 8 0 0 0 0,
   ext 0x000A009D 0x00000C00 0x00000E00 .spill 10 0 6 0 0 0 0 7] ++
  [ext 0x000A019D 0x00000005 0x00000E00 .fill 10 5 0 0 0 0 0 7,
   ext 0x040A00C1 0x00240C05 0x00000000 .tlbinv 10 5 6 9 0 1 0 0,
   ext 0x000A01C1 0x00000C05 0x00000600 .rgnset 10 5 6 0 0 0 0 3,
   ext 0x000A02C1 0x00200C05 0x00000009 .smap 10 5 6 8 9 0 0 0,
   ext 0x000A03C1 0x00181205 0x00000000 .ctxsave 10 5 9 6 0 0 0 0,
   ext 0x000A04C1 0x00181205 0x00000000 .ctxload 10 5 9 6 0 0 0 0,
   ext 0x000A05C1 0x00000006 0x00000A00 .pmctlRead 10 6 0 0 0 0 0 5,
   ext 0x040A05C1 0x00000C00 0x00000A00 .pmctlSel 10 0 6 0 0 1 0 5,
   ext 0x080A05C1 0x00000000 0x00000A00 .pmctlStart 10 0 0 0 0 2 0 5,
   ext 0x0C0A05C1 0x00000000 0x00000A00 .pmctlStop 10 0 0 0 0 3 0 5,
   ext 0x100A05C1 0x00000000 0x00000A00 .pmctlClr 10 0 0 0 0 4 0 5,
   ext 0x200A06C1 0x00240C05 0x00000000 .pgpin 10 5 6 9 0 8 0 0]

theorem test_decode_ExtControl : extControl.all reads = true := by decide +kernel

/-- Words the manual assembles (spec/02 Worked encodings, spec/05, spec/06, spec/07, spec/08, spec/09, spec/12 to spec/16). -/
def worked : List (List Word × Instr) :=
  [ext 0x02030705 0x0030160A 0x0000000D (fun x => .iamin { x with retain := 2 }) 3 10 11 12 13 0 0 0,
   ext 0x08070705 0x0030160A 0x0000000D .iamin 7 10 11 12 13 2 0 0,
   ext 0x0007008D 0x00200C04 0x0000000A .sealExt 7 4 6 8 10 0 0 0,
   ext 0x00070085 0x00000028 0x00010000 .call 7 40 0 0 0 0 0 0x80,
   ext 0x6C010281 0x00000000 0xFFFFEC00 .brv 1 0 0 0 0 0x1B 0 0x7FFFF6,
   ext 0x04070029 0x00000805 0x0010D200 .shfl 7 5 4 0 0 1 0 0x869,
   ext 0x08270041 0x08001004 0x00000000 (fun x => .ld { x with la := 2 }) 7 4 8 0 0 2 1 0,
   ext 0x0007024D 0x08141006 0x84000002 .ldlt 7 6 8 5 2 0 1 0x420000,
   ext 0x04070065 0x00803E00 0x00000022 .mma 7 0 31 32 34 1 0 0,
   ext 0x00070461 0x00A03C00 0x0040801F .pack 7 0 30 40 31 0 0 0x2040,
   ext 0x14070169 0x00502410 0x0000000E .dt2 7 16 18 20 14 5 0 0] ++
  [ext 0x0005004D 0x08442C00 0x88000000 .join 5 0 22 17 0 0 1 0x440000,
   ext 0x14050155 0x00003400 0x00000000 .bulkIn 5 0 26 0 0 5 0 0,
   ext 0x00070149 0x08001005 0x44000004 .cas 7 5 8 0 4 0 1 0x220000,
   ext 0x000703C1 0x00582804 0x00000000 .ctxsave 7 4 20 22 0 0 0 0,
   ext 0x000701C1 0x00001402 0x00000000 .rgnset 7 2 10 0 0 0 0 0,
   ext 0x08070041 0x08001407 0x00000000 .ld 7 7 10 0 0 2 1 0,
   ext 0x18070049 0x0820080D 0x00000000 .atom 7 13 4 8 0 6 1 0,
   one 0x0000008C (.sealBase 0 0), rr 0x000E0604 .iaddBase 6 7,
   ([0x00000506, 0x000186A0, 0x00000000], .iaddBase 5 0 (some 100000)),
   ([0x28000806, 0x00000004, 0x00000000], .iadd64Base 8 0 (some 4))]

theorem test_decode_worked : worked.all reads = true := by decide +kernel

/-- A literal of the extended form, 64 bits in two more words (R47). -/
theorem test_decode_literal :
    reads ([0x00070A07, 0x00001008, 0, 0x89ABCDEF, 0x01234567], .iadd64 { e 7 8 8 0 0 0 0 0 with lit := some 0x0123456789ABCDEF }) = true := by
  decide +kernel

/-- R49: the majors and minors the tables do not list, the all-zero word, a base word cut short. -/
theorem test_decode_unassigned :
    ([0x00, 0x05, 0x06, 0x07, 0x0E, 0x0F, 0x10, 0x1F, 0x21, 0x26, 0x3F] : List Nat).all (fun m => refused [BitVec.ofNat 32 (4 * m)]) = true ∧
    ([0x00, 0x0D, 0x0F, 0x1B, 0x1F, 0x28, 0x2F, 0x31, 0x3F] : List Nat).all (fun m => refused [BitVec.ofNat 32 (0x70001 + 4 * m), 0, 0]) = true ∧
    refused [0x30000004] = true ∧ refused [0x00070E05, 0, 0] = true ∧ refused [0x00000506, 0x000186A0] = true ∧ refused [] = true := by
  decide +kernel

/-- spec/02, after Table 2-9: the extended SEAL with a guard is an illegal instruction. -/
theorem test_decode_guarded_seal : refused [0x0001008D, 0x00000028, 0x00000000] = true := by decide +kernel

/-! ### Well-formedness: for each check, a term it refuses -/

/-- R43, R112: a modifier the instruction does not define. -/
theorem test_wf_modifier : (Instr.imin (e 7 5 6 7 0 2 0 0)).wf = false ∧ (Instr.fmin (e 7 5 6 7 0 9 0 0)).wf = false ∧
    (Instr.irem (e 7 5 6 7 0 2 0 0)).wf = false ∧ (Instr.fadd (e 7 5 6 7 0 5 0 0)).wf = false ∧ (Instr.ld (e 7 5 6 0 0 5 0 0)).wf = false := by
  decide +kernel

/-- R43: a field the instruction does not use, or an immediate out of range. -/
theorem test_wf_unused : (Instr.iadd (e 7 5 6 7 9 0 0 0)).wf = false ∧ (Instr.iabs (e 7 5 6 7 0 0 0 0)).wf = false ∧
    (Instr.iadd (e 7 5 6 7 0 0 0 1)).wf = false ∧ (Instr.lea (e 7 5 6 7 0 0 0 32)).wf = false := by
  decide +kernel

/-- R44: a guard on an unguarded instruction. -/
theorem test_wf_guard : (Instr.wsync (e 1 0 0 0 0 0 0 0)).wf = false ∧ (Instr.eret (e 15 0 0 0 0 0 0 0)).wf = false := by decide +kernel

/-- R11: an odd index where a pair stands, an index not divisible by 4 where a quad stands. -/
theorem test_wf_pair : (Instr.iadd64 (e 7 5 6 8 0 0 0 0)).wf = false ∧ (Instr.iadd64 (e 7 6 7 8 0 0 0 0)).wf = false ∧
    (Instr.bulkIn (e 7 0 6 8 13 3 0 0)).wf = false := by
  decide +kernel

/-- R111: a predicate past p7, a selector past its negate bit. -/
theorem test_wf_predicate : (Instr.iset (e 7 8 6 7 0 0 0 0)).wf = false ∧ (Instr.sel (e 7 5 6 7 16 0 0 0)).wf = false := by decide +kernel

/-- R41, R84: a temporary in a boundary instruction or in SEAL. -/
theorem test_wf_temporary : (Instr.atom (e 7 496 6 7 0 0 0 0)).wf = false ∧ (Instr.sealBase 496 0).wf = false := by decide +kernel

/-- R169: a PACK run that starts at 0, or reaches 496. -/
theorem test_wf_run : (Instr.pack (e 7 0 6 0 9 0 0 0)).wf = false ∧ (Instr.pack (e 7 0 6 495 9 0 0 0x2000)).wf = false := by decide +kernel

/-- R48: a literal where none is allowed, beside a register B, or too long for a 32-bit B. -/
theorem test_wf_literal : (Instr.iabs { e 7 5 6 0 0 0 0 0 with lit := some 1 }).wf = false ∧
    (Instr.iadd { e 7 5 6 7 0 0 0 0 with lit := some 1 }).wf = false ∧
    (Instr.iadd { e 7 5 6 0 0 0 0 0 with lit := some 0x100000000 }).wf = false := by
  decide +kernel

/-- R39, R100: a shift by 32, a spill slot at the launch's count. -/
theorem test_wf_count : (Instr.shli 5 32 none).wf = false ∧ slotOk (.spill (e 7 0 6 0 0 0 0 4)) 4 = false := by decide +kernel

/-! ### A small machine -/

/-- 32 threads of 64 registers, 64 KiB of scratch, 8 spill slots, a handler, parameters (Tables 1-6 to 1-8). -/
def labHeader : Header :=
  { entry := 0x100000000, params := 0x100000000, handler := 0x100001000, donebar := 0, shape := 64 * 2 ^ 55 + 2 ^ 47 + 32 * 2 ^ 36 + 5,
    e2 := 1, e3 := 1, e4 := 1, e5 := 1, control := 64 + 8 * 2 ^ 15 + 255 * 2 ^ 27 + 15 * 2 ^ 35 }

/-- The root gang's warp of partition 0. -/
def wp : WarpId := ⟨⟨rootGang 0, 0⟩, 0⟩

/-- Lane 0 as the group at work, at the start of a span. -/
def grp : Issue := { lanes := [0], entry := 0x100000000, pc := 0x100000000, count := 0, phase := .run, windows := [], held := none, overrun := none, passed := 0 }

/-- A thread with these registers, none poisoned. -/
def th (regs : List (Nat × Nat)) : Thread :=
  { Thread.start 0x100000000 65536 0 with regs := regs.map fun r => (r.1, ⟨BitVec.ofNat 32 r.2, false⟩) }

/-- A thread whose register r is poisoned. -/
def ill (r : Nat) : Thread := { Thread.start 0x100000000 65536 0 with regs := [(r, ⟨0, true⟩)] }

/-- A partition on one requester row and one port whose root gang runs on core 0, this thread its lane 0, in a group of its own. -/
def lab (t : Thread) : State :=
  { State.reset with
      warps := [(wp, { Warp.absent with lanes := [(0, t)], cur := some grp })]
      wgs := [(⟨rootGang 0, 0⟩, ⟨0, 0, 0, 0, [], ⟨0, [], []⟩⟩)]
      gangs := [(rootGang 0, { Gang.fresh with state := .running })]
      parts := [(0, { Part.absent with rows := 1, ports := 1, image := 65536, launches := [(0, Launch.start labHeader 0 0)] })]
      focus := some wp }

/-- What holds of the group's one lane. -/
theorem only {P : Nat → Prop} (h : P 0) : ∀ k ∈ grp.lanes, P k := fun k hk => by
  have : k = 0 := by simpa [grp] using hk
  subst this; exact h

theorem lab_inSpan {t : Thread} {i : Instr} (h : t.guard i.ext.guard = true) (hd : t.wd + 1 < t.deadline) :
    InSpan (lab t) i wp grp 0 t :=
  ⟨rfl, rfl, rfl, by simp [grp], rfl, h, only hd⟩

theorem lab_alone {t : Thread} {i : Instr} (hw : t.wait = .ready) (h : t.guard i.ext.guard = true) (hd : t.wd + 1 < t.deadline) :
    Alone (lab t) i wp grp 0 t :=
  ⟨rfl, rfl, rfl, rfl, hw, h, .inl hd⟩

/-- The first operands of most witnesses: d 5, A 6, B 7, no modifier. -/
def x0 : Ext := e 7 5 6 7 0 0 0 0

theorem always (t : Thread) : t.guard 7 = true := by simp [Thread.guard, Thread.pred]

/-! ### The statements' hypotheses can be met -/

/-- A lane of the small machine in a span instruction. -/
abbrev Sp (t : Thread) (i : Instr) : Prop := InSpan (lab t) i wp grp 0 t

/-- A lane of the small machine alone at a boundary instruction. -/
abbrev Al (t : Thread) (i : Instr) : Prop := Alone (lab t) i wp grp 0 t

theorem sp {t : Thread} {i : Instr} (h : i.ext.guard = 7) (hd : t.wd + 1 < t.deadline := by decide) : Sp t i :=
  lab_inSpan (by rw [h]; exact always t) hd

theorem al {t : Thread} {i : Instr} (hw : t.wait = .ready) (h : i.ext.guard = 7) (hd : t.wd + 1 < t.deadline := by decide) : Al t i :=
  lab_alone hw (by rw [h]; exact always t) hd

theorem witness_IntegerProductAndPairResults :
    Sp (th []) (.imul x0) ∧ Sp (th []) (.imadw (e 7 6 6 7 8 0 0 0)) ∧ Sp (th []) (.sar64 (e 7 6 8 10 0 0 0 0)) ∧ Sp (th []) (.lea64 (e 7 6 8 7 0 0 0 3)) :=
  ⟨sp rfl, sp rfl, sp rfl, sp rfl⟩

theorem witness_DivisionResults :
    (Sp (th [(6, 7), (7, 2)]) (.idiv x0) ∧ ((th [(6, 7), (7, 2)]).srcB x0).v ≠ 0) ∧
    (Sp (th []) (.irem x0) ∧ ((th []).srcB x0).v = 0 ∧ (((th []).reg 6).p || ((th []).srcB x0).p) = false ∧ (th []).fmode.getLsbD 6 = false) ∧
    (let t := { th [] with fmode := 0x40 }
     Sp t (.idiv x0) ∧ (t.srcB x0).v = 0 ∧ ((t.reg 6).p || (t.srcB x0).p) = false ∧ t.fmode.getLsbD 6 = true) ∧
    (Sp (ill 6) (.irem x0) ∧ ((ill 6).srcB x0).v = 0 ∧ (((ill 6).reg 6).p || ((ill 6).srcB x0).p) = true) ∧
    (e 7 5 6 7 0 2 0 0).modA.getLsbD 1 = true :=
  ⟨⟨sp rfl, by decide +kernel⟩, ⟨sp rfl, by decide +kernel⟩, ⟨sp rfl, by decide +kernel⟩, ⟨sp rfl, by decide +kernel⟩, by decide +kernel⟩

theorem witness_IntegerAndBitResults : Sp (th []) (.iadd x0) ∧ Sp (th []) (.shl x0) ∧ Sp (th []) (.bool3 x0) ∧ Sp (th []) (.funnel x0) :=
  ⟨sp rfl, sp rfl, sp rfl, sp rfl⟩

/-- The last clause at the first and the last of its minors, by R38. -/
theorem witness_BaseHasExtendedEffect :
    (lab (th [])).focus = some wp ∧ ((lab (th [])).warp wp).cur = some grp ∧ grp.phase = .run ∧ Sp (th []) (.bool3Base 5 7 none) ∧
    (([0x140E0004, 0x180E0004, 0x1C0E0008, 0x240E0008, 0x300E0008, 0x04000010, 0xFC000010] : List Word).all fun w =>
      decide ((w.toNat % 4 = 0 ∨ w.toNat % 4 = 2) ∧
      ((w.toNat / 4 % 64 = 0x01 ∧ (w.toNat / 2 ^ 26 = 0x05 ∨ w.toNat / 2 ^ 26 = 0x06) ∨
          w.toNat / 4 % 64 = 0x02 ∧ (w.toNat / 2 ^ 26 = 0x07 ∨ 0x09 ≤ w.toNat / 2 ^ 26 ∧ w.toNat / 2 ^ 26 ≤ 0x0C)) ∧
          (w.toNat / 2 ^ 17 % 512 ≠ 0 ∨ w.toNat % 4 = 2) ∨ w.toNat / 4 % 64 = 0x04 ∧ w.toNat / 2 ^ 26 ≠ 0) ) && refused [w]) = true :=
  ⟨rfl, rfl, rfl, sp rfl, by decide +kernel⟩

/-- The shifts at v = 31, and past it at 32. -/
theorem witness_BaseImmediateResults :
    Sp (th []) (.addi 5 0 none) ∧ Sp (th []) (.andi 5 0 (some 4)) ∧ (BitVec.signExtend 32 (31 : BitVec 15)).toNat < 32 ∧ Sp (th []) (.shli 5 31 none) ∧
    Sp (th []) (.sari 5 31 none) ∧ 32 ≤ (BitVec.signExtend 32 (32 : BitVec 15)).toNat ∧ refused [0x0040052C] = true :=
  ⟨sp rfl, sp rfl, by decide +kernel, sp rfl, sp rfl, by decide +kernel, by decide +kernel⟩

/-- Infinity less infinity with its trap enabled, and 1 plus 1. -/
theorem witness_FloatResults :
    (let t := th [(6, 0x3F800000), (7, 0x3F800000)]
     Sp t (.fadd x0) ∧ (f32.addV .rne false (floatA f32 t x0 1 6) (floatB f32 t x0 1)).flags &&& t.fmode.extractLsb' 3 5 = 0) ∧
    (let t := { th [(6, 0x7F800000), (7, 0x7F800000)] with fmode := 0xF8 }
     Sp t (.fsub x0) ∧ (f32.addV .rne false (floatA f32 t x0 1 6) (floatB f32 t x0 1).negate).flags &&& t.fmode.extractLsb' 3 5 ≠ 0) ∧
    Sp (th []) (.ffma64 (e 7 6 8 10 12 0 0 0)) :=
  ⟨⟨sp rfl, by decide +kernel⟩, ⟨sp rfl, by decide +kernel⟩, sp rfl⟩

theorem witness_RoundingPicksTheNumber :
    f32 ∈ [f16, bf16, f32, f64] ∧ finite f32 0x3F800000 ∧ finite f32 (f32.round .rne false false 16777217 (-24)).bits ∧
    finite f16 0x7BFF ∧ finite f64 0 := by
  refine ⟨by simp, ?_⟩
  unfold finite
  decide +kernel

theorem witness_FloatSpecialCases : (1 : Nat) ≠ 0 := by decide +kernel

theorem witness_HalfResults :
    (let t := th [(6, 0x3C003C00), (7, 0x3C003C00)]
     Sp t (.hadd2 x0) ∧ (0 : Flags) &&& t.fmode.extractLsb' 3 5 = 0) ∧
    (let t := { th [(6, 0x7C007C00), (7, 0xFC003C00)] with fmode := 0xF8 }
     Sp t (.hadd2 x0) ∧ (f16.addV .rne false (f16.read false 0x7C00) (f16.read false 0xFC00)).flags &&& t.fmode.extractLsb' 3 5 ≠ 0) ∧
    Sp (th []) (.hfma2 (e 7 5 6 7 9 32 0 0)) :=
  ⟨⟨sp rfl, by decide +kernel⟩, ⟨sp rfl, by decide +kernel⟩, sp rfl⟩

theorem witness_ComparisonResults :
    (Sp (th []) (.iset (e 7 3 6 7 0 2 0 0)) ∧ (((th []).reg 6).p || ((th []).srcB x0).p) = false) ∧
    (Sp (ill 6) (.iset (e 7 3 6 7 0 2 0 0)) ∧ (((ill 6).reg 6).p || ((ill 6).srcB x0).p) = true) ∧
    (Sp (th []) (.pmovPut (e 7 0 6 0 0 1 0 0x7F)) ∧ ((th []).reg 6).p = false) ∧ (Sp (ill 6) (.pmovPut (e 7 0 6 0 0 1 0 0)) ∧ ((ill 6).reg 6).p = true) ∧
    (let t := { th [(6, 0x7FC00000)] with fmode := 0xF8 }
     Sp t (.fset (e 7 3 6 7 0 8 0 0)) ∧ poisonAB t (e 7 3 6 7 0 8 0 0) 1 = false ∧ flagNV &&& t.fmode.extractLsb' 3 5 ≠ 0) ∧
    (Sp (ill 6) (.fset64 (e 7 3 6 8 0 2 0 0)) ∧ poisonAB (ill 6) (e 7 3 6 8 0 2 0 0) 2 = true) := by
  refine ⟨⟨sp rfl, ?_⟩, ⟨sp rfl, ?_⟩, ⟨sp rfl, ?_⟩, ⟨sp rfl, ?_⟩, ⟨sp rfl, ?_⟩, ⟨sp rfl, ?_⟩⟩
  all_goals decide +kernel

theorem witness_ConversionResults :
    Sp (th []) (.cvt (e 7 5 6 0 0 6 0 0)) ∧ Sp (th []) (.cvtpk (e 7 5 6 7 0 0 0 0)) ∧ Sp (th []) (.cvtx (e 7 5 6 0 0 0 0 1)) ∧
    (6 ∈ [4, 5, 6, 7] ∧ ((codeFloat 6).map fun f => f.read false (0x7F800001 % 2 ^ codeWidth 6)) = some (.nan true)) ∧
    f32.read false (0xFF800000 : Word).toNat = .inf true :=
  ⟨sp rfl, sp rfl, sp rfl, by decide +kernel, by decide +kernel⟩

theorem witness_SpecialFunctionResults : Sp (th []) (.rcp (e 7 5 6 0 0 0 0 0)) ∧ Sp (th []) (.tanh (e 7 5 6 0 0 16 0 0)) ∧ (1 : Nat) ≠ 0 :=
  ⟨sp rfl, sp rfl, by decide +kernel⟩

theorem witness_RandResults :
    (Sp (th []) (.rand x0) ∧ x0.modA.getLsbD 0 = false) ∧ (Sp (th []) (.rand (e 7 5 6 7 0 1 0 0)) ∧ (e 7 5 6 7 0 1 0 0).modA.getLsbD 0 = true) ∧
    (e 7 5 6 7 0 2 0 0).modA.toNat / 2 ≠ 0 :=
  ⟨⟨sp rfl, by decide +kernel⟩, ⟨sp rfl, by decide +kernel⟩, by decide +kernel⟩

/-- SHFL with a poisoned index, at the lane itself, and past its segment of one lane. -/
theorem witness_CrossLaneMoves :
    (Sp (ill 7) (.shfl x0) ∧ x0.imm.getLsbD 11 = false ∧ ((ill 7).reg x0.b).p = true) ∧
    (Sp (th []) (.shfl (e 7 5 6 0 0 0 0 0x800)) ∧ (e 7 5 6 0 0 0 0 0x800).imm.getLsbD 11 = true ∧ (shuffled 0 0 0 0).2 = true ∧
      contributes (lab (th [])) wp grp (.shfl (e 7 5 6 0 0 0 0 0x800)) 0 = true) ∧
    (Sp (th [(7, 1)]) (.shflx (e 7 6 8 7 0 0 0 0)) ∧ ((th [(7, 1)]).reg 7).p = false ∧ (shuffled 0 0 0 1).2 = false) ∧ Sp (th []) (.lsh (e 7 5 6 0 9 0 0 0)) :=
  ⟨⟨sp rfl, by decide +kernel⟩, ⟨sp rfl, by decide +kernel⟩, ⟨sp rfl, by decide +kernel⟩, sp rfl⟩

/-- A scan without its own lane at the lowest lane has nothing below it; with its own lane it has one. -/
theorem witness_VoteReduceScanResults :
    Sp (th []) (.vote (e 7 3 0 0 0 0 0 5)) ∧ Sp (th []) (.ballot (e 7 5 0 0 0 0 0 5)) ∧ Sp (th []) (.matchKey (e 7 5 6 0 0 2 0 5)) ∧
    Sp (th []) (.reduce (e 7 5 6 0 0 0 0 5)) ∧
    (Sp (th []) (.scan (e 7 5 6 0 0 16 0 5)) ∧ ((voters (lab (th [])) wp grp (.scan (e 7 5 6 0 0 16 0 5)) 5 0).filter fun k => decide (k < 0)) = []) ∧
    (Sp (th []) (.scan (e 7 5 6 0 0 8 0 5)) ∧
      ((voters (lab (th [])) wp grp (.scan (e 7 5 6 0 0 8 0 5)) 5 0).filter fun k => decide (k ≤ 0)) = 0 :: [] ∧ ((8 : Nat) = 8 ∨ (8 : Nat) = 9 ∨ (8 : Nat) = 10)) :=
  ⟨sp rfl, sp rfl, sp rfl, sp rfl, ⟨sp rfl, by decide +kernel⟩, ⟨sp rfl, by decide +kernel⟩⟩

theorem witness_BlockResults : 0 < 32 ∧ Sp (th []) (.qblk (e 7 5 6 0 0 1 0 2)) ∧ Sp (th []) (.dqblk (e 7 5 6 0 0 0 0 0)) ∧ Sp (th []) (.had32 (e 7 5 6 0 0 0 0 0)) :=
  ⟨by decide +kernel, sp rfl, sp rfl, sp rfl⟩

theorem witness_MoveResults :
    Sp (th []) (.mov (e 7 5 0 7 0 0 0 0)) ∧ Sp (th []) (.movi (e 7 5 0 0 0 0 0 5)) ∧ Sp (th []) (.sread (e 7 6 0 0 0 0 0 0x12)) ∧
    Sp (th []) (.wid (e 7 6 0 0 0 0 0 0x11)) :=
  ⟨sp rfl, sp rfl, sp rfl, sp rfl⟩

theorem witness_SpanFrame :
    let due := fun (s : State) k => ((s.warp wp).thread k).deadline ≤ ((s.warp wp).thread k).wd + 1
    (Instr.iadd x0).wf = true ∧ laneOnly (.iadd x0) = true ∧ (lab (th [])).focus = some wp ∧ ((lab (th [])).warp wp).cur = some grp ∧ grp.phase = .run ∧
    0 ∈ grp.lanes ∧ tbGet ((lab (th [])).warp wp).lanes 0 = some (th []) ∧ (grp.lanes.all fun k => !decide (due (lab (th [])) k)) = true ∧
    due (lab { th [] with wd := 9, deadline := 10 }) 0 :=
  ⟨by decide +kernel, by decide +kernel, rfl, rfl, rfl, by decide +kernel, rfl, by decide +kernel, by decide +kernel⟩

/-- A clean aligned target, the last canonical one of the lower half, one past it, a misaligned one, a poisoned one; a condition that holds and one
that does not; a vote taken and one not taken. -/
theorem witness_BranchAndRejoinResults_branches :
    (Al (th []) (.bra (e 7 0 0 0 0 0 0 1)) ∧ canonicalVa (grp.pc + BitVec.ofInt 64 4) ∧ (grp.pc + BitVec.ofInt 64 4).toNat % 4 = 0) ∧
    (let t := th [(6, 0xFFFFFFFC), (7, 0x007FFFFF)]
     Al t (.callx (e 7 40 6 0 0 0 0 0)) ∧ (t.pair 6).p = false ∧ canonicalVa (Claim.pairOf t 6) ∧ (Claim.pairOf t 6).toNat % 4 = 0) ∧
    (let t := th [(7, 0x00800000)]
     Al t (.brx (e 7 0 6 0 0 0 0 0)) ∧ (t.pair 6).p = false ∧ ¬canonicalVa (Claim.pairOf t 6)) ∧
    (let t := th [(6, 2)]
     Al t (.ret (e 7 0 6 0 0 0 0 0)) ∧ (t.pair 6).p = false ∧ canonicalVa (Claim.pairOf t 6) ∧ (Claim.pairOf t 6).toNat % 4 ≠ 0) ∧
    (Al (ill 6) (.brx (e 7 0 6 0 0 0 0 0)) ∧ ((ill 6).pair 6).p = true) ∧
    (Al (th []) (.braBase 7 1) ∧ (predOf (th []) 7 != (7 : BitVec 4).getLsbD 3) = true) ∧
    (Al (th []) (.braBase 15 1) ∧ (predOf (th []) 7 != (15 : BitVec 4).getLsbD 3) = false) ∧
    (grp.lanes.filter fun k => ((lab (th [])).thread ⟨wp, k⟩).guard 7).any (fun k => predOf ((lab (th [])).thread ⟨wp, k⟩) 7 != false) = true ∧
    (grp.lanes.filter fun k => ((lab (th [])).thread ⟨wp, k⟩).guard 7).any (fun k => predOf ((lab (th [])).thread ⟨wp, k⟩) 1 != false) = false := by
  unfold canonicalVa
  exact ⟨⟨al rfl rfl, by decide +kernel⟩, ⟨al rfl rfl, by decide +kernel⟩, ⟨al rfl rfl, by decide +kernel⟩, ⟨al rfl rfl, by decide +kernel⟩,
    ⟨al rfl rfl, by decide +kernel⟩, ⟨al rfl rfl, by decide +kernel⟩, ⟨al rfl rfl, by decide +kernel⟩, by decide +kernel, by decide +kernel⟩

/-- %fmode at its largest value and past it, %fflags likewise, %frpc, poisoned sources. -/
theorem witness_SpecialRegisterWrites :
    (Al (th [(6, 255)]) (.swrite (e 7 0 6 0 0 0 0 0x10)) ∧ ((th [(6, 255)]).reg 6).p = false ∧ ((th [(6, 255)]).reg 6).v.toNat < 256) ∧
    (Al (th [(6, 31)]) (.swrite (e 7 0 6 0 0 0 0 0x11)) ∧ ((th [(6, 31)]).reg 6).p = false ∧ ((th [(6, 31)]).reg 6).v.toNat < 32) ∧
    (Al (th []) (.swrite (e 7 0 6 0 0 0 0 0x19)) ∧ ((th []).pair 6).p = false) ∧
    (Al (ill 6) (.swrite (e 7 0 6 0 0 0 0 0x10)) ∧ ((ill 6).reg 6).p = true) ∧ (Al (ill 6) (.swrite (e 7 0 6 0 0 0 0 0x19)) ∧ ((ill 6).pair 6).p = true) ∧
    256 ≤ ((th [(6, 256)]).reg 6).v.toNat ∧ 32 ≤ ((th [(6, 32)]).reg 6).v.toNat :=
  ⟨⟨al rfl rfl, by decide +kernel⟩, ⟨al rfl rfl, by decide +kernel⟩, ⟨al rfl rfl, by decide +kernel⟩, ⟨al rfl rfl, by decide +kernel⟩, ⟨al rfl rfl, by decide +kernel⟩, by decide +kernel, by decide +kernel⟩

/-- The small machine with its rejoin mask 3 and a second lane. -/
def labMask (m : Word) (u : Thread) : State :=
  { lab (th []) with warps := [(wp, { Warp.absent with lanes := [(0, th []), (1, u)], masks := [(3, m)], cur := some grp })] }

/-- The lane's bit clear; set with the other lane settled; set with the other lane on its way, and parked. -/
theorem witness_BranchAndRejoinResults_rejoins :
    (lab (th [])).focus = some wp ∧ ((lab (th [])).warp wp).cur = some grp ∧ Al (th []) (.rjmark (e 7 0 0 0 0 11 0 0)) ∧
    Al (th []) (.rjread (e 7 5 0 0 0 3 0 0)) ∧ Al (th []) (.rjwaitBase 3) ∧ 0 < 32 ∧ (maskOf ((lab (th [])).warp wp) 3).getLsbD 0 = false ∧
    (Alone (labMask 3 Thread.absent) (.rjwaitBase 3) wp grp 0 (th []) ∧ (maskOf ((labMask 3 Thread.absent).warp wp) 3).getLsbD 0 = true ∧
      settled ((labMask 3 Thread.absent).thread ⟨wp, 1⟩) 3 = true) ∧
    (Alone (labMask 3 (th [])) (.rjwaitBase 3) wp grp 0 (th []) ∧ settled ((labMask 3 (th [])).thread ⟨wp, 1⟩) 3 = false) ∧
    (let u := { th [] with wait := .rejoin 3 8 }
     ((labMask 3 u).thread ⟨wp, 1⟩).wait = .rejoin 3 8 ∧ settled ((labMask 3 u).thread ⟨wp, 1⟩) 3 = true) :=
  ⟨rfl, rfl, al rfl rfl, al rfl rfl, al rfl rfl, by decide +kernel, by decide +kernel, ⟨⟨rfl, rfl, rfl, rfl, rfl, always _, .inl (by decide)⟩, by decide +kernel⟩,
    ⟨⟨rfl, rfl, rfl, rfl, rfl, always _, .inl (by decide)⟩, by decide +kernel⟩, by decide +kernel⟩

/-- A pending result of register 5, in a span that has sealed or not. -/
def pend (sealing ready : Bool) : Pend :=
  { id := 0, pc := 0x100000000, regs := [5], preds := [], window := 0, committed := sealing, sealing := sealing, ready := ready, signed := false, words := [⟨9, false⟩],
    bits := [] }

theorem witness_SpanAndThreadEndResults :
    (Al (th []) (.sealBase 5 0) ∧ tbGet ((lab (th [])).warp wp).lanes 0 = some (th []) ∧ ∀ p ∈ (th []).pends, p.sealing = true → False) ∧
    (let t := { th [] with pends := [pend true false] }
     Al t (.sealBase 0 0) ∧ tbGet ((lab t).warp wp).lanes 0 = some t ∧ ∃ p ∈ t.pends, p.sealing = true) ∧
    (Al (th []) (.yieldBase 2 4) ∧ ((lab (th [])).gang wp.wg.gang).state ≠ .draining) ∧
    (let s := { lab (th []) with gangs := [(rootGang 0, { Gang.fresh with state := .draining })] }
     Alone s (.yieldBase 2 4) wp grp 0 (th []) ∧ (s.gang wp.wg.gang).state = .draining) ∧
    (Al (th []) .tailBase ∧ (lab (th [])).outstanding ⟨wp, 0⟩ = false) ∧ Al (th []) .exitBase ∧ Al (th []) (.trapBase 0xFFFF) ∧ Al (th []) (.brk (e 7 0 0 0 0 0 0 0xFFFF)) ∧
    Al (th []) (.nap (e 7 0 0 0 0 0 0 0)) ∧ (lab (th [])).header wp.gang ≠ Header.absent ∧ ((lab (th [])).header wp.gang).handler ≠ 0 ∧
    ((lab (th [])).thread ⟨wp, 0⟩).inHandler = false ∧ (Al (th []) (.eret (e 7 0 0 0 0 0 0 0)) ∧ (th []).inHandler = false) ∧
    (let t := { th [] with inHandler := true, fr := { FaultRec.zero with pc := 0x100000010 } }
     Al t (.eret (e 7 0 0 0 0 0 0 0)) ∧ t.inHandler = true ∧ t.fr.pc.toNat < 2 ^ 55 ∧ t.fr.pc.toNat % 4 = 0) :=
  ⟨⟨al rfl rfl, rfl, by decide +kernel⟩, ⟨al rfl rfl, rfl, by decide +kernel⟩, ⟨al rfl rfl, by decide +kernel⟩, ⟨⟨rfl, rfl, rfl, rfl, rfl, always _, .inl (by decide)⟩, by decide +kernel⟩, ⟨al rfl rfl, by decide +kernel⟩,
    al rfl rfl, al rfl rfl, al rfl rfl, al rfl rfl, by decide +kernel, by decide +kernel, rfl, ⟨al rfl rfl, rfl⟩, ⟨al rfl rfl, by decide +kernel⟩⟩

/-! #### Memory: the local window of the workgroup, and a page its core's translations serve -/

/-- A page entry of a kind with all permissions, at its base (Table 11-2). -/
def entry (kind base : Nat) : Nat := kind * 2 ^ 60 + base + 0x3F0

/-- The small machine whose core translates the page at VA 0x10000 by this entry. -/
def labPage (t : Thread) (entry : Nat) : State :=
  { lab t with cores := [(0, { Core.idle with tlb := [⟨0, 65536, 65536, entry, true⟩], walkTlb := [⟨0, 65536, 65536, entry, true⟩] })] }

theorem page_inSpan {t : Thread} {i : Instr} {n : Nat} (h : i.ext.guard = 7) (hd : t.wd + 1 < t.deadline := by decide) :
    InSpan (labPage t n) i wp grp 0 t :=
  ⟨rfl, rfl, rfl, by simp [grp], rfl, by rw [h]; exact always t, only hd⟩

theorem page_alone {t : Thread} {i : Instr} {n : Nat} (hw : t.wait = .ready) (h : i.ext.guard = 7)
    (hd : t.wd + 1 < t.deadline := by decide) : Alone (labPage t n) i wp grp 0 t :=
  ⟨rfl, rfl, rfl, rfl, hw, by rw [h]; exact always t, .inl hd⟩

/-- An address in the local window, and one in the page. -/
def xWin : Ext := e 7 5 6 7 0 2 2 8
def xPage : Ext := e 7 5 6 7 0 2 0 8

theorem forms_window {t : Thread} {x : Ext} {n : Int} {va : Nat} (hm : x.modB.toNat / 2 % 4 = 1)
    (hp : (if x.modB.getLsbD 0 then (t.pair x.a).p else (t.reg x.a).p) = false)
    (h : 0 ≤ formed t x n ∧ formed t x n < 2 ^ 28 ∧ (va : Int) = 0xFFFE000000000000 + formed t x n) : Forms t x n va := by
  unfold Forms
  simp only [hm]
  exact ⟨hp, h⟩

theorem forms_flat {t : Thread} {x : Ext} {n : Int} {va : Nat} (hm : x.modB.toNat / 2 % 4 = 0)
    (hp : (if x.modB.getLsbD 0 then (t.pair x.a).p else (t.reg x.a).p) = false)
    (h : (va : Int) = formed t x n % 2 ^ 64) : Forms t x n va := by
  unfold Forms
  simp only [hm]
  exact ⟨hp, h⟩
/-- A gang of launch 1 whose one lane ends (R273). -/
theorem witness_ExitRetires :
    let w : WarpId := ⟨⟨⟨0, 1, 0⟩, 0⟩, 0⟩
    let s : State := { lab (th []) with
                         warps := [(w, { Warp.absent with lanes := [(0, th [])], cur := some grp })]
                         gangs := [(⟨0, 1, 0⟩, { Gang.fresh with state := .running })]
                         focus := some w }
    Alone s .exitBase w grp 0 (th []) ∧ (s.warps.map Prod.fst).Nodup ∧ ((s.warp w).lanes.map Prod.fst).Nodup ∧
      (s.gang w.wg.gang).state = .running ∧ w.wg.gang.launch ≠ 0 ∧
      (s.warps.all fun x => x.2.lanes.all fun k => decide (⟨x.1, k.1⟩ = (⟨w, 0⟩ : ThreadId)) && k.2.wait == .ready) = true :=
  ⟨⟨rfl, rfl, rfl, rfl, rfl, always _, .inl (by decide)⟩, by decide +kernel⟩

theorem win8 : Forms (th []) xWin 8 0xFFFE000000000008 := forms_window (by decide +kernel) (by decide +kernel) (by decide +kernel)

theorem page8 : Forms (th [(6, 0x10000)]) xPage 8 0x10008 := forms_flat (by decide +kernel) (by decide +kernel) (by decide +kernel)

/-- A translation of the lane: its outcome, and the state after it. -/
def found (s : State) (need : Need) (va size : Nat) : Chk := (s.translate (s.who ⟨wp, 0⟩) need va size).2
def after (s : State) (need : Need) (va size : Nat) : State := (s.translate (s.who ⟨wp, 0⟩) need va size).1

theorem found_after {s : State} {need : Need} {va size : Nat} {c : Chk} (h : found s need va size = c) :
    s.translate (s.who ⟨wp, 0⟩) need va size = (after s need va size, c) := Prod.ext rfl h

/-- The small machine with a lattice region of a type over the page at VA 0x10000, one cell written. -/
def labRegion (t : Thread) (type value : Nat) : State :=
  let s := labPage t (entry 3 0)
  State.writeNat { s with poolz := 1, parts := [(0, { s.part 0 with pool := 1, regions := [(2, ⟨0x10000, 65536, type, 0, 0, 1024, 0, 0⟩)] })] }
    (poolKey 4194304 0 8) 4 value

/-- A store of the lane on its way, or a load. -/
def acc (load : Bool) (region : Option Nat) : Access :=
  { id := 7, place := 7, sc := false, told := [], scAfter := none, src := .thread ⟨wp, 0⟩, gang := rootGang 0, core := 0, va := 0xFFFE000000000100, key := 256, size := 4,
    op := if load then .load [] else .store [⟨0, false⟩, ⟨0, false⟩, ⟨0, false⟩, ⟨0, false⟩], acquire := none, release := none, lane := 0, snap := false, recorded := false,
    region := region, waitPerformed := [], heldSince := 0 }

/-- An acquire load of the lane waits in the operand log. -/
def labLog : State :=
  { lab (th []) with warps := [(wp, { Warp.absent with lanes := [(0, th [])], cur := some grp
                                                       log := [⟨0, 1, 1, 0x100000000, .ld (e 7 5 6 0 0 10 2 64), 0xFFFE000000000200, []⟩] })] }

/-- The last byte of the scratch, one past it; a page past its migration threshold; the last offset of the local window and one past it; a poisoned address. -/
theorem witness_LoadResults :
    (Sp (th []) (.ld xWin) ∧ grp.lanes = [0] ∧ Forms (th []) xWin 8 0xFFFE000000000008 ∧ found (lab (th [])) .load 0xFFFE000000000008 4 = .ok 8 false false none ∧
      ¬loggedBefore (lab (th [])) wp 0 0xFFFE000000000008) ∧
    loggedBefore labLog wp 0 0xFFFE000000000008 ∧ InSpan labLog (.ld xWin) wp grp 0 (th []) ∧
    found (lab (th [])) .load 0xFFFE00000000FFFF 1 = .ok 0xFFFF false false none ∧ found (lab (th [])) .load 0xFFFE000000010000 1 = .bad ⟨0x07, 0xFFFE000000010000, 2⟩ ∧
    (let s := labPage (th [(6, 0x10000)]) (entry 5 0)
     let s1 : State := { s with parts := [(0, { s.part 0 with regs := [(4, 1)], touches := [((0, 65536), 1)] })] }
     InSpan s1 (.ld xPage) wp grp 0 (th [(6, 0x10000)]) ∧ found s1 .load 0x10008 4 = .resolve .migrate ∧ (s1.warp wp).log = []) ∧
    (Sp (th []) (.ldparam (e 7 5 0 0 0 2 0 16)) ∧ ((lab (th [])).header wp.wg.gang).params ≠ 0) ∧
    (let s := { lab (th []) with parts := [] }
     InSpan s (.ldparam (e 7 5 0 0 0 2 0 16)) wp grp 0 (th []) ∧ (s.header wp.wg.gang).params = 0) ∧
    (Sp (ill 6) (.ld xWin) ∧ (if xWin.modB.getLsbD 0 then ((ill 6).pair xWin.a).p else ((ill 6).reg xWin.a).p) = true) ∧
    formed (th [(6, 0xFFFFFF7)]) xWin 8 = 2 ^ 28 - 1 ∧ 2 ^ 28 ≤ formed (th [(6, 0xFFFFFF8)]) xWin 8 ∧ formed (th []) xWin (-1) < 0 ∧
    Sp (th []) (.prefetch (e 7 0 6 0 0 0 1 0)) :=
  ⟨⟨sp rfl, rfl, win8, by decide +kernel, fun ⟨_, h, _⟩ => by cases h⟩,
    ⟨_, List.mem_cons_self .., rfl, .inl ⟨e 7 5 6 0 0 10 2 64, rfl, .inl (by decide +kernel)⟩⟩, ⟨rfl, rfl, rfl, by decide +kernel, rfl, always _, only (by decide +kernel)⟩,
    by decide +kernel, by decide +kernel, ⟨⟨rfl, rfl, rfl, by decide +kernel, rfl, always _, only (by decide +kernel)⟩, by decide +kernel, rfl⟩, ⟨sp rfl, by decide +kernel⟩,
    ⟨⟨rfl, rfl, rfl, by decide +kernel, rfl, always _, only (by decide +kernel)⟩, by decide +kernel⟩, ⟨sp rfl, by decide +kernel⟩, by decide +kernel, by decide +kernel, by decide +kernel, sp rfl⟩

/-- A load of the lane from the cell is on its way. -/
def labBusy (t : Thread) : State := { labRegion t 1 5 with coreQ := [{ acc true (some 2) with va := 0x10008, key := poolKey 4194304 0 8 }] }

/-- Into the scratch; a poisoned value for the host; a cell below and above what is stored; past the scratch. -/
theorem witness_StoreResults :
    (Sp (th []) (.st xWin) ∧ grp.lanes = [0] ∧ Forms (th []) xWin xWin.imm.toInt 0xFFFE000000000008 ∧
      found (lab (th [])) .store 0xFFFE000000000008 4 = .ok 8 false false none) ∧
    (let t := { th [(6, 0x10000)] with regs := [(6, ⟨0x10000, false⟩), (7, ⟨0, true⟩)] }
     InSpan (labPage t (entry 5 0)) (.st xPage) wp grp 0 t ∧ (t.reg xPage.b).p = true ∧
      found (labPage t (entry 5 0)) .store 0x10008 4 = .ok (keyHost 1 8) false false none ∧ isRemote (keyHost 1 8) = true) ∧
    (∀ v ∈ [5, 4], let t := th [(6, 0x10000), (7, v)]
     let s := labRegion t 1 5
     found s .store 0x10008 4 = .ok (poolKey 4194304 0 8) false false (some 2) ∧ isRemote (poolKey 4194304 0 8) = false ∧
      ((tbGet ((after s .store 0x10008 4).part 0).regions 2).map Region.type) = some 1 ∧
      aboveCell 1 (cellOperand 1 v) ((after s .store 0x10008 4).readNat (poolKey 4194304 0 8) 4) = decide (v = 5)) ∧
    (let s := labBusy (th [(6, 0x10000), (7, 9)])
     InSpan s (.st xPage) wp grp 0 (th [(6, 0x10000), (7, 9)]) ∧ found s .store 0x10008 4 = .ok (poolKey 4194304 0 8) false false (some 2) ∧
      (after s .store 0x10008 4).linePending ⟨wp, 0⟩ (poolKey 4194304 0 8) 4 = true) ∧
    found (lab (th [])) .store 0xFFFE000000010000 4 = .bad ⟨0x07, 0xFFFE000000010000, 18⟩ := by
  refine ⟨⟨sp rfl, rfl, win8, by decide +kernel⟩, ⟨page_inSpan rfl, by decide +kernel⟩, by decide +kernel, ?_, by decide +kernel⟩
  exact ⟨⟨rfl, rfl, rfl, by decide +kernel, by rfl, always _, only (by decide +kernel)⟩, by decide +kernel⟩

/-- An atomic in the scratch, a poisoned one for a peer, one past the scratch, one on a page of the host. -/
theorem witness_AtomicResults :
    (Al (th []) (.atom xWin) ∧ Forms (th []) xWin (offset16 xWin) 0xFFFE000000000008 ∧ found (lab (th [])) .atomic 0xFFFE000000000008 4 = .ok 8 false false none ∧
      ((after (lab (th [])) .atomic 0xFFFE000000000008 4).thread ⟨wp, 0⟩).wait = .ready) ∧
    (let t := { th [] with regs := [(6, ⟨0x10000, false⟩), (7, ⟨0, true⟩)] }
     let s := { labPage t (entry 6 (2 ^ 48)) with peers := [(1, BitVec.ofNat 256 (2 ^ 32))] }
     Alone s (.cas xPage) wp grp 0 t ∧ found s .atomic 0x10008 4 = .ok (keyPeer 1 8) false false none ∧ isRemote (keyPeer 1 8) = true ∧
      ((wideOf t false 7).p || (wideOf t false 0).p) = true) ∧
    found (lab (th [])) .atomic 0xFFFE000000010000 4 = .bad ⟨0x07, 0xFFFE000000010000, 34⟩ ∧
    (let t := th [(6, 0x10000)]
     Alone (labPage t (entry 5 0)) (.red xPage) wp grp 0 t ∧ Forms t xPage (offset16 xPage) 0x10008 ∧ found (labPage t (entry 5 0)) .atomic 0x10008 4 = .resolve .migrate) :=
  ⟨⟨al rfl rfl, win8, by decide +kernel⟩, ⟨⟨rfl, rfl, rfl, rfl, rfl, always _, .inl (by decide +kernel)⟩, by decide +kernel⟩, by decide +kernel, ⟨page_alone rfl rfl, page8, by decide +kernel⟩⟩

/-- A join of a clean and of a poisoned operand, and one outside a region; thresholds met and not met, poisoned, and a poisoned cell. -/
theorem witness_LatticeInstructionResults :
    (let t := th [(6, 0x10000), (7, 9)]
     let x := e 7 0 6 7 0 0 0 8
     Alone (labRegion t 1 5) (.join x) wp grp 0 t ∧ Forms t x (offset16 x) 0x10008 ∧
      found (labRegion t 1 5) .join 0x10008 4 = .ok (poolKey 4194304 0 8) false false (some 2) ∧
      ((after (labRegion t 1 5) .join 0x10008 4).thread ⟨wp, 0⟩).wait = .ready ∧ (cellOf t x 7).p = false) ∧
    (cellOf (ill 7) (e 7 0 6 7 0 0 0 8) 7).p = true ∧ found (lab (th [])) .join 0xFFFE000000000008 4 = .bad ⟨0x09, 0xFFFE000000000008, 1⟩ ∧
    (∀ v ∈ [5, 6], let t := th [(6, 0x10008), (7, v)]
     let s := labRegion t 1 5
     let s1 := after s .threshold 0x10008 4
     Alone s (.ldlt (e 7 5 6 7 2 0 0 0)) wp grp 0 t ∧ Forms t (e 7 5 6 7 2 0 0 0) 0 0x10008 ∧
      found s .threshold 0x10008 4 = .ok (poolKey 4194304 0 8) false false (some 2) ∧ s1.thread ⟨wp, 0⟩ = t ∧
      (tbGet (s1.part 0).regions 2).map Region.type = some 1 ∧ s1.stepWaits ⟨wp, 0⟩ (poolKey 4194304 0 8) 4 = false ∧
      anyPoison (s1.readBytes (poolKey 4194304 0 8) 4) = false ∧ metCell 1 (s1.readNat (poolKey 4194304 0 8) 4) v = decide (v = 5)) ∧
    (after (labBusy (th [(6, 0x10008)])) .threshold 0x10008 4).stepWaits ⟨wp, 0⟩ (poolKey 4194304 0 8) 4 = true ∧
    (let s1 : State := { labRegion (th [(6, 0x10008)]) 1 5 with poison := [poolKey 4194304 0 8] }
     anyPoison (s1.readBytes (poolKey 4194304 0 8) 4) = true) := by
  refine ⟨⟨⟨rfl, rfl, rfl, by rfl, rfl, always _, .inl (by decide +kernel)⟩, forms_flat (by decide +kernel) (by decide +kernel) (by decide +kernel), by decide +kernel⟩, by decide +kernel, by decide +kernel, ?_, by decide +kernel, by decide +kernel⟩
  intro v hv
  simp only [List.mem_cons, List.not_mem_nil, or_false] at hv
  rcases hv with rfl | rfl <;>
    exact ⟨⟨rfl, rfl, rfl, by rfl, rfl, always _, .inl (by decide +kernel)⟩, forms_flat (by decide +kernel) (by decide +kernel) (by decide +kernel), by decide +kernel⟩

/-- A command of the lane in a queue. -/
def cmd : Cmd :=
  { id := 3, srcs := [⟨wp, 0⟩], wg := ⟨rootGang 0, 0⟩, bar := 0, barKey := 0, op := .copy 4 [], headAt := 0, walked := 0, done := false, after := [],
    behind := [], claim := none, bytes := [], got := [], todo := [], moving := false }

theorem witness_FlushAndFenceResults :
    (let t := th [(6, 0x10008)]
     let s := labRegion t 1 5
     let s1 := after s .flush 0x10008 1
     Alone s (.xflush (e 7 0 6 0 0 0 0 0)) wp grp 0 t ∧ Forms t (e 7 0 6 0 0 0 0 0) 0 0x10008 ∧ found s .flush 0x10008 1 = .ok (poolKey 4194304 0 8) false false (some 2) ∧
      s1.thread ⟨wp, 0⟩ = t ∧ (tbGet (s1.part 0).regions 2).map Region.base = some 0x10000 ∧ s1.inFlight = []) ∧
    (let s : State := { labRegion (th [(6, 0x10008)]) 1 5 with coreQ := [acc false (some 2)] }
     ∃ a ∈ s.inFlight, a.src = .thread ⟨wp, 0⟩ ∧ a.region = some 2) ∧
    (let x := e 7 0 0 0 0 0 0 0x280000
     let waits := fun (s : State) => (released x).isSome && (s.releasing ⟨wp, 0⟩ 2 || s.acquireWaits ⟨wp, 0⟩ != []) || acquired x && s.acquiring ⟨wp, 0⟩
     Al (th []) (.fence x) ∧ waits (lab (th [])) = false ∧ waits { lab (th []) with coreQ := [acc false none] } = true) ∧
    Al (th []) (.qfence (e 7 0 0 0 0 0 0 0x21)) ∧
    (let s := { lab (th []) with cores := [(0, { Core.idle with copyQ := [cmd] })] }
     Alone s (.qfence (e 7 0 0 0 0 0 0 0x21)) wp grp 0 (th []) ∧
      ((s.core 0).copyQ.filter fun (y : Cmd) => y.srcs.contains ⟨wp, 0⟩).map Cmd.id ≠ []) :=
  ⟨⟨⟨rfl, rfl, rfl, by rfl, rfl, always _, .inl (by decide +kernel)⟩, forms_flat (by decide +kernel) (by decide +kernel) (by decide +kernel), by decide +kernel⟩, by decide +kernel,
    ⟨al rfl rfl, by decide +kernel⟩, al rfl rfl, ⟨⟨rfl, rfl, rfl, rfl, rfl, always _, .inl (by decide +kernel)⟩, by decide +kernel⟩⟩
/-- The small machine with page tables that map the first page by this entry (Tables 11-1, 11-2), 0 for none. -/
def labMap (t : Thread) (leaf : Nat) : State :=
  State.writeEntries { lab t with poolz := 1, parts := [(0, { (lab t).part 0 with regs := [(8, 1)] })] } 1
    [(0, pteTable 65536), (65536, pteTable 131072), (131072, pteTable 196608), (196608, pteTable 262144), (262144, leaf)]

/-- The small machine with bytes written in the scratch of its workgroup and lines of it tagged. -/
def labMem (t : Thread) (cells : List (Nat × Nat × Nat)) (tags : List Nat) : State :=
  { cells.foldl (fun s c => s.writeNat c.1 c.2.1 c.2.2) (lab t) with tags := tags }

theorem alone_of {s : State} {i : Instr} {t : Thread} (h : s.focus = some wp ∧ (s.warp wp).cur = some grp ∧ s.thread ⟨wp, 0⟩ = t ∧ t.wait = .ready)
    (hg : i.ext.guard = 7) (hd : t.wd + 1 < t.deadline := by decide) : Alone s i wp grp 0 t :=
  ⟨h.1, h.2.1, rfl, h.2.2.1, h.2.2.2, by rw [hg]; exact always t, .inl hd⟩

theorem on_scratch {s : State} {t : Thread} {x : Ext} {need : Need} {v key : Nat} (hf : Forms t x 0 v)
    (h : s.translate (s.who ⟨wp, 0⟩) need v 16 = (s, .ok key false false none) ∧ isSram key = true ∧ s.thread ⟨wp, 0⟩ = t ∧ s.stepWaits ⟨wp, 0⟩ key 16 = false) :
    OnScratch s wp 0 t x need v key s := ⟨hf, ⟨false, false, h.1⟩, h.2⟩

/-- A barrier of phase 3 with one arrival left, at 0x100; two lines without one. -/
def labBar : State := labMem (th [(6, 256)]) [(256, 16, barrier 3 false 0 1 4)] [256]

def xBar : Ext := e 7 0 6 0 3 0 2 3

theorem witness_BarrierAndSyncResults :
    (Alone labBar (.barinit xBar) wp grp 0 (th [(6, 256)]) ∧ OnScratch labBar wp 0 (th [(6, 256)]) xBar .barWrite 0xFFFE000000000100 256 labBar) ∧
    labBar.tags.contains (256 - 256 % 16) = true ∧ labBar.releasing ⟨wp, 0⟩ 2 = false ∧
    ({ labBar with coreQ := [{ acc false none with key := 4096 }] } : State).releasing ⟨wp, 0⟩ 2 = true ∧ (lab (th [])).tags.contains 256 = false ∧
    OnScratch labBar wp 0 (th [(6, 256)]) xBar .barRead 0xFFFE000000000100 256 labBar ∧ phasePoison (th [(6, 256)]) xBar = false ∧
    labBar.readNat 256 16 % 16 = phaseNamed (th [(6, 256)]) xBar ∧ labBar.readNat 256 16 % 16 ≠ phaseNamed (th []) (e 7 0 6 0 3 0 2 2) ∧
    phasePoison (ill 7) (e 7 0 6 7 3 1 2 0) = true ∧ 256 % 16 = 0 ∧
    (Al (th []) (.wsync (e 7 0 0 0 0 0 0 0)) ∧ (lab (th [])).acquiring ⟨wp, 0⟩ = false ∧ (∀ u, u.warp.wg = wp.wg → u ≠ ⟨wp, 0⟩ → ((lab (th [])).thread u).wait = .exited ∨
      ∃ n, ((lab (th [])).thread u).wait = .wsync n)) ∧
    ({ lab (th []) with coreQ := [acc true none] } : State).acquiring ⟨wp, 0⟩ = true ∧
    found (lab (th [])) .barRead 0xFFFE000000000100 16 = .ok 256 false false none ∧ isSram 256 = true ∧
    found (labPage (th []) (entry 2 0)) .barWrite 0x10000 16 = .bad ⟨0x05, 0x10000, 0x55⟩ ∧
    ((labMask 0 { th [] with wait := .wsync 8 }).thread ⟨wp, 1⟩).wait = .wsync 8 ∧ ((labMask 0 (th [])).thread ⟨wp, 1⟩).wait = .ready := by
  refine ⟨⟨alone_of (by decide +kernel) rfl, on_scratch (forms_window (by decide +kernel) (by decide +kernel) (by decide +kernel)) (by decide +kernel)⟩, by decide +kernel,
    by decide +kernel, by decide +kernel, by decide +kernel, on_scratch (forms_window (by decide +kernel) (by decide +kernel) (by decide +kernel)) (by decide +kernel),
    by decide +kernel, by decide +kernel, by decide +kernel, by decide +kernel, by decide +kernel, ⟨al rfl rfl, by decide +kernel, fun u _ hu => .inl ?_⟩, by decide +kernel,
    by decide +kernel, by decide +kernel, by decide +kernel, by decide +kernel, by decide +kernel⟩
  obtain ⟨w, l⟩ := u
  by_cases hw : w = wp
  · subst hw
    have hl : ¬l = 0 := fun hh => hu (by rw [hh])
    simp [lab, State.thread, State.warp, tbGet, Warp.thread, Warp.absent, Ne.symm hl, Thread.absent]
  · simp [lab, State.thread, State.warp, tbGet, Warp.thread, Warp.absent, Ne.symm hw, Thread.absent]

/-- The small machine whose core holds tile 3 of a state at 8192, and these commands. -/
def labTile (t : Thread) (st : TileState) (q : List Cmd) : State :=
  { labMem t [(4096, 8, 0xFFFE000000002000), (4105, 1, 1), (4112, 4, 64), (4116, 4, 1), (4120, 4, 1), (4124, 4, 1), (4128, 4, 1), (4132, 2, 64), (4134, 2, 1), (4136, 2, 1),
      (4138, 2, 1), (4140, 2, 1)] [256] with
    cores := [(0, { Core.idle with tiles := [(3, ⟨⟨rootGang 0, 0⟩, 0xFFFE000000002000, 4096, st, 0⟩)], copyQ := q, bulkQ := q, mcastQ := q })] }

/-- A tile at the first byte of the scratch and one that ends with it, at a misaligned address, and one past it; the entry absent, empty, and
in each other state. -/
theorem witness_TileResults :
    (let x := e 7 0 6 0 0 3 2 4096
     (∀ v ∈ [0, 61440], Forms (th [(6, v)]) x 0 (0xFFFE000000000000 + v) ∧ canonicalVa (BitVec.ofNat 64 (0xFFFE000000000000 + v)) ∧
      ¬(0xFFFE000000000000 + v < 2 ^ 55 ∧ (lab (th [(6, v)])).walkBroken 0 (0xFFFE000000000000 + v) 4096 = true) ∧
      (lab (th [(6, v)])).tileInside ⟨wp, 0⟩ (0xFFFE000000000000 + v) 4096 = some true ∧ (0xFFFE000000000000 + v) % 64 = 0) ∧
     Al (th []) (.tiledef x) ∧ tbGet ((lab (th [])).core 0).tiles 3 = none ∧
     (lab (th [])).tileInside ⟨wp, 0⟩ 0xFFFE000000000008 4096 = some true ∧ (lab (th [])).tileInside ⟨wp, 0⟩ 0xFFFE00000000F040 4096 = some false) ∧
    (∀ st : TileState, Alone (labTile (th []) st []) (.tilefree (e 7 0 0 0 0 3 0 0)) wp grp 0 (th []) ∧
      ((tbGet ((labTile (th []) st []).core 0).tiles 3).filter fun t => t.owner == ⟨rootGang 0, 0⟩).map Tile.state = some st) ∧
    Al (th []) (.tileq (e 7 5 0 0 0 3 0 0)) := by
  refine ⟨⟨?_, al rfl rfl, by decide +kernel, by decide +kernel, by decide +kernel⟩, ?_, al rfl rfl⟩
  · intro v hv
    simp only [List.mem_cons, List.not_mem_nil, or_false] at hv
    unfold canonicalVa
    rcases hv with rfl | rfl <;>
      exact ⟨forms_window (by decide +kernel) (by decide +kernel) (by decide +kernel), by decide +kernel⟩
  · intro st
    cases st <;> exact ⟨alone_of (by decide +kernel) rfl, by decide +kernel⟩

/-- Addresses in the local window: the record at 0x1000, the barrier at 0x100, bytes at 0x2000. -/
def tEng : Thread := th [(6, 0x1000), (7, 0xFFFE0000), (8, 0x100), (9, 0xFFFE0000), (12, 0x2000), (13, 0xFFFE0000)]

theorem flat_of {s : State} {need : Need} {v : PVal} {size key : Nat} {ahead : Bool} (hp : v.p = false)
    (h : s.translate { s.who ⟨wp, 0⟩ with counts := false, ahead := ahead } need v.v size = (s, .ok key false false none)) :
    Flat s wp 0 need v size s ⟨v.v, key, false, none⟩ ahead := ⟨hp, rfl, _, h⟩

/-- The tiles held for the workgroup on channel 0 from member 0, and the MCRECVs that come first. -/
def held (s : State) : List Parked :=
  (s.die 0).holding.filter fun p => p.gang == rootGang 0 && p.sender == 0 && p.channel == 0 && p.mask.testBit 0 && !p.claimed.contains 0 && !p.drained.contains 0
def waiting (s : State) : Nat := ((s.core 0).mcastQ.filter fun y => awaits y wp.wg 0 0).length

/-- The record at an address as BULK reads and judges it: valid, invalid, or held. -/
def bulkOk (s : State) (x : Ext) (out : Bool) (va key : Nat) : Option Bool :=
  let r := s.readAtIssue ⟨wp, 0⟩ ⟨va, key, false, none⟩ 64
  r.2.map fun bs => (r.1.bulkRecord ⟨wp, 0⟩ x out bs 4096 grp.pc).isOk

theorem witness_EngineIssueResults :
    (∀ q ∈ [List.replicate 31 cmd, List.replicate 32 cmd], let s := labTile tEng .empty q
     Alone s (.copy (e 7 0 6 12 8 0 0 0)) wp grp 0 tEng ∧ Flat s wp 0 .engineWrite (tEng.pair 6) 4 s ⟨0xFFFE000000001000, 4096, false, none⟩ ∧
      Flat s wp 0 .engineRead (tEng.pair 12) 4 s ⟨0xFFFE000000002000, 8192, false, none⟩ ∧ Completion s wp 0 8 (tEng.pair 8) s (0xFFFE000000000100, 256) ∧ s.thread ⟨wp, 0⟩ = tEng ∧
      (s.core 0).copyQ.length = q.length) ∧
    (∀ out : Bool, let x := e 7 0 6 8 0 3 (if out then 1 else 0) 0
     let s := labTile tEng (if out then .ready else .empty) []
     Alone s (if out then .bulkOut x else .bulkIn x) wp grp 0 tEng ∧ Flat s wp 0 .engineRead (tEng.pair 6) 64 s ⟨0xFFFE000000001000, 4096, false, none⟩ true ∧
      Completion s wp 0 8 (tEng.pair 8) s (0xFFFE000000000100, 256) ∧ (tEng.quad 0).p = false ∧ (ownTile s wp 3).map Tile.state = some (if out then .ready else .empty) ∧
      bulkOk s x out 0xFFFE000000001000 4096 = some true ∧ bulkOk s x out 0xFFFE000000003000 12288 = some false ∧
      bulkOk { s with coreQ := [{ acc false none with key := 4096 }] } x out 0xFFFE000000001000 4096 = none ∧ (s.core 0).bulkQ.length < 16) ∧
    (let s := labMap (th []) (7 * 2 ^ 60 + 0x1C0)
     Alone s (.copy (e 7 0 6 0 0 0 0 0)) wp grp 0 (th []) ∧
      (s.translate { s.who ⟨wp, 0⟩ with counts := false } .engineWrite 0 4).2 = .resolve (.notPresent 1) ∧ (s.warp wp).logged < 4) ∧
    Completion (lab tEng) wp 0 0 (tEng.pair 0) (lab tEng) (0, keyGone) ∧
    (let s := labTile tEng .ready []
     Alone s (.mcast (e 7 0 8 0 0 3 0 1)) wp grp 0 tEng ∧ Completion s wp 0 8 (tEng.pair 8) s (0xFFFE000000000100, 256) ∧ (ownTile s wp 3).map Tile.state = some .ready ∧
      1 < 2 ^ (s.header wp.wg.gang).e1 ∧ 2 ^ (s.header wp.wg.gang).e1 ≤ 2 ∧ (s.core 0).mcastQ = []) ∧
    (let s := labTile tEng .empty []
     Alone s (.mcrecv (e 7 0 8 0 0 3 0 0)) wp grp 0 tEng ∧ (ownTile s wp 3).map Tile.state = some .empty ∧ (s.core 0).mcastQ = [] ∧
      held s = [] ∧ waiting s = 0) ∧
    (∀ n ∈ [1, 2], let p : Parked := ⟨9, rootGang 0, 0, 0, 1, [], [], List.replicate n ⟨0, false⟩⟩
     let s : State := { labTile tEng .empty [] with
       cores := [(0, { Core.idle with tiles := [(3, ⟨⟨rootGang 0, 0⟩, 0xFFFE000000002000, 1, .empty, 0⟩)], mcastQ := [{ cmd with op := .mcrecv 2 0 0 }] })]
       dies := [(0, { Die.idle with holding := [p, p] })] }
     Alone s (.mcrecv (e 7 0 8 0 0 3 0 0)) wp grp 0 tEng ∧ Completion s wp 0 8 (tEng.pair 8) s (0xFFFE000000000100, 256) ∧
      (ownTile s wp 3).map Tile.state = some .empty ∧ (s.core 0).mcastQ.length = 1 ∧ waiting s = 1 ∧ (held s)[1]? = some p) := by
  refine ⟨?_, ?_, ⟨alone_of (by decide +kernel) rfl, by decide +kernel⟩, .inl ⟨rfl, rfl, rfl⟩, ⟨alone_of (by decide +kernel) rfl, ?_, by decide +kernel⟩, ⟨alone_of (by decide +kernel) rfl, by decide +kernel⟩, ?_⟩
  · intro q hq
    simp only [List.mem_cons, List.not_mem_nil, or_false] at hq
    rcases hq with rfl | rfl <;>
      exact ⟨alone_of (by decide +kernel) rfl, flat_of (key := 4096) (by decide +kernel) (by decide +kernel), flat_of (key := 8192) (by decide +kernel) (by decide +kernel),
        .inr ⟨by decide, _, flat_of (key := 256) (by decide +kernel) (by decide +kernel), by decide +kernel⟩, by decide +kernel⟩
  · intro out
    cases out <;>
      exact ⟨alone_of (by decide +kernel) rfl, flat_of (key := 4096) (by decide +kernel) (by decide +kernel),
        .inr ⟨by decide, _, flat_of (key := 256) (by decide +kernel) (by decide +kernel), by decide +kernel⟩, by decide +kernel⟩
  · exact .inr ⟨by decide, _, flat_of (key := 256) (by decide +kernel) (by decide +kernel), by decide +kernel⟩
  · intro n hn
    simp only [List.mem_cons, List.not_mem_nil, or_false] at hn
    rcases hn with rfl | rfl <;>
      exact ⟨alone_of (by decide +kernel) rfl, .inr ⟨by decide, _, flat_of (key := 256) (by decide +kernel) (by decide +kernel), by decide +kernel⟩, by decide +kernel⟩
/-! #### The lines of a range of the scratch and their homes -/

/-- The table of the lines of a range of the local window (R216). -/
def flatTab (va n : Nat) : LineTable := (linesIn va n).map fun l => (l, some ⟨64 * l - 0xFFFE000000000000, false⟩)

theorem mem_natsFrom (lo n a : Nat) : a ∈ natsFrom lo n ↔ lo ≤ a ∧ a < lo + n := by
  induction n generalizing lo with
  | zero => simp [natsFrom]
  | succ n ih => simp only [natsFrom, List.mem_cons, ih]; omega

theorem flat_at (ls : List Nat) (a : Nat) :
    lineAt (ls.map fun l => (l, some (⟨64 * l - 0xFFFE000000000000, false⟩ : LineHome))) a =
      if a / 64 ∈ ls then some ⟨64 * (a / 64) - 0xFFFE000000000000, false⟩ else none := by
  unfold lineAt
  induction ls with
  | nil => rfl
  | cons l m ih =>
    rw [List.map_cons, tbGet_cons]
    by_cases h : l = a / 64
    · subst h; simp
    · rw [if_neg h, ih]
      have : ¬a / 64 = l := fun hh => h hh.symm
      simp [this]

theorem flat_near {va n : Nat} (hv : 0xFFFE000000000000 ≤ va ∧ va % 64 = 0) (hn : va + n ≤ 0xFFFE000010000000) :
    ∀ k < n, near (flatTab va n) (va + k) := by
  intro k hk
  refine ⟨⟨64 * ((va + k) / 64) - 0xFFFE000000000000, false⟩, ?_, .inr ?_⟩
  · rw [flatTab, flat_at, if_pos]
    rw [linesIn, mem_natsFrom]
    omega
  · simp only [isRemote]
    simp; omega

theorem flat_apart {va n : Nat} (hv : 0xFFFE000000000000 ≤ va) (_ : 0 < n) : apart (flatTab va n) := by
  intro a b ha hb hab h1 h2
  rw [flatTab, flat_at] at h1 h2
  split at h1 <;> [skip; cases h1]
  split at h2 <;> [skip; cases h2]
  rename_i m1 m2
  rw [Option.some.injEq] at h1 h2
  subst h1 h2
  rw [linesIn, mem_natsFrom] at m1 m2
  change 64 * (a / 64) - 0xFFFE000000000000 + 64 ≤ 64 * (b / 64) - 0xFFFE000000000000 ∨
    64 * (b / 64) - 0xFFFE000000000000 + 64 ≤ 64 * (a / 64) - 0xFFFE000000000000
  omega

/-- Nothing stands before the lane on the lines of a table. -/
theorem flat_clear {s : State} {tab : LineTable} (h : (tab.any fun e => e.2.any fun h => s.stepWaits ⟨wp, 0⟩ h.key 64) = false) :
    ¬lineWaits s wp 0 tab := by
  rintro ⟨x, hx, y, hy, hw⟩
  have := (List.any_eq_false.1 h) x hx
  rw [hy] at this
  simp [hw] at this

/-- A thread that waits for no lane of its group. -/
theorem lab_loner {t : Thread} (h : t.wait = .ready) (k : Nat) : loner ((lab t).thread ⟨wp, k⟩) := by
  intro a b c
  by_cases hk : k = 0
  · subst hk; rw [show (lab t).thread ⟨wp, 0⟩ = t from rfl, h]; exact Wait.noConfusion
  · have : (lab t).thread ⟨wp, k⟩ = Thread.absent := by
      simp [lab, State.thread, State.warp, tbGet, Warp.thread, Warp.absent, Ne.symm hk]
    rw [this]; exact Wait.noConfusion

/-- The small machine whose core holds operand slot 2 and accumulator 1 of the workgroup, a tile 3 of a state, and a queue of rounds. -/
def labSlot (t : Thread) (fmt : Option Nat) (st : TileState) (q : List MatEntry) : State :=
  { lab t with cores := [(0, { Core.idle with
      slots := [(2, ⟨⟨rootGang 0, 0⟩, [], [], [], fmt, false⟩)], accs := [(1, ⟨⟨rootGang 0, 0⟩, [], [], 0⟩)],
      tiles := [(3, ⟨⟨rootGang 0, 0⟩, 0xFFFE000000002000, 4096, st, 0⟩)], matQ := q })] }

/-- A posted round on operand slots 2 and 2 and accumulator 1. -/
def round : MatEntry := ⟨3, ⟨rootGang 0, 0⟩, [⟨wp, 0⟩], ⟨0, 0x10202, 0, 0⟩, false, none, none, [], false⟩

/-- Slot 31 in range and free, 32 past it, slot 2 the workgroup's, with a round on it or not; the accumulator in use; a tile one byte too small for BQ8. -/
theorem witness_SlotResults :
    (Al (th []) (.sclaim (e 7 5 0 0 3 0 0 0)) ∧ slotOwner (lab (th [])) wp false 0 = none) ∧
    (∀ n < 8, slotOwner { lab (th []) with cores := [(0, { Core.idle with accs := (natsFrom 0 8).map fun n => (n, ⟨⟨rootGang 0, 0⟩, [], [], 0⟩) })] } wp true n ≠ none) ∧
    (let t := th [(6, 2)]
     Alone (labSlot t (some 2) .ready []) (.srel (e 7 0 6 0 0 0 0 0)) wp grp 0 t ∧ slotOwner (labSlot t none .ready []) wp false 2 = some wp.wg ∧
      (t.reg 6).p = false ∧ (t.reg 6).v.toNat < 32 ∧ Alone (labSlot t (some 2) .ready []) (.sldt (e 7 0 6 0 0 3 0 2)) wp grp 0 t ∧
      Alone (labSlot t none .ready []) (.sstt (e 7 0 6 0 0 3 0 0)) wp grp 0 t) ∧
    ((th [(6, 31)]).reg 6).v.toNat < 32 ∧ slotOwner (labSlot (th []) none .ready []) wp false 31 ≠ some wp.wg ∧ 32 ≤ ((th [(6, 32)]).reg 6).v.toNat ∧
    ((ill 6).reg 6).p = true ∧ Alone (labSlot (th [(6, 1)]) none .ready []) (.azero (e 7 0 6 0 0 0 0 0)) wp grp 0 (th [(6, 1)]) ∧
    (∃ x ∈ ((labSlot (th []) none .ready [round]).core 0).matQ, x.op.sword.toNat / 2 ^ 16 % 8 = 1 ∧ x.started = false ∧ x.op.sword.toNat % 32 = 2) ∧
    ((labSlot (th []) none .ready []).core 0).matQ = [] ∧
    (∀ st : TileState, (ownTile (labSlot (th []) (some 0) st []) wp 3).map (fun t => (t.state, t.size)) = some (st, 4096)) ∧ ownTile (lab (th [])) wp 3 = none ∧
    4096 < 4096 + 256 ∧
    (let s := labSlot (th []) none .ready []
     let tab := flatTab 0xFFFE000000002000 4096
     Homes s wp 0 .engineRead 0xFFFE000000002000 4096 s tab ∧ Homes s wp 0 .engineWrite 0xFFFE000000002000 4096 s tab ∧ ¬lineWaits s wp 0 tab ∧ apart tab ∧
      (∀ k < 4096, near tab (0xFFFE000000002000 + k)) ∧ 0xFFFE000000002000 % 64 = 0 ∧
      lineWaits { s with coreQ := [{ acc false none with key := 8192 }] } wp 0 tab) := by
  refine ⟨⟨al rfl rfl, by decide +kernel⟩, by decide +kernel, ⟨alone_of (by decide +kernel) rfl, by decide +kernel, by decide +kernel, by decide +kernel,
    alone_of (by decide +kernel) rfl, alone_of (by decide +kernel) rfl⟩, by decide +kernel, by decide +kernel, by decide +kernel, by decide +kernel,
    alone_of (by decide +kernel) rfl, by decide +kernel, by decide +kernel, ?_, by decide +kernel, by decide +kernel, by unfold Homes; decide +kernel, by unfold Homes; decide +kernel,
    flat_clear (by decide +kernel), flat_apart (by decide) (by decide), flat_near (by decide) (by decide), by decide, ⟨_, List.mem_cons_self .., _, rfl, by decide +kernel⟩⟩
  intro st
  cases st <;> decide +kernel

/-- A row-major unit of binary32 at the last place it fits, one past it; a column of BQ8; formats 7 and 8; the slot's format matched and not. -/
theorem witness_PackAndUnpackResults :
    (let t := th [(6, 2), (9, 6)]
     Alone (labSlot t none .ready []) (.pack (e 7 0 6 16 9 0 0 992)) wp grp 0 t ∧ packFits 6 false 992 1 = true ∧ packFits 6 false 993 1 = false ∧ (t.reg 9).v.toNat % 16 = 6) ∧
    packFits 2 true 0 1 = true ∧ packFits 7 false 0 1 = true ∧ ((th [(9, 8)]).reg 9).v.toNat % 16 = 8 ∧ (16 : RegIdx).toNat % 2 = 0 ∧
    16 + 2 * 1 ≤ min 496 ((lab (th [])).header wp.wg.gang).regs ∧
    (let t := th [(6, 2), (9, 6)]
     Alone (labSlot t (some 6) .ready []) (.unpack (e 7 16 6 9 0 0 0 992)) wp grp 0 t ∧ 992 + 32 * 1 * 1 ≤ 32768 / formatBits 6 ∧ (some 6 : Option Nat) ≠ some 2) ∧
    (let t := th [(6, 1), (9, 0x100)]
     Alone (labSlot t none .ready []) (.unpack (e 7 16 6 9 0 1 0 4064)) wp grp 0 t ∧ (t.reg 9).v.toNat / 256 % 16 = 1 ∧ slotOwner (labSlot t none .ready []) wp true 1 = some wp.wg ∧
      4064 + 32 * 1 ≤ 4096) :=
  ⟨⟨alone_of (by decide +kernel) rfl, by decide +kernel⟩, by decide +kernel, by decide +kernel, by decide +kernel, by decide +kernel, by decide +kernel,
    ⟨alone_of (by decide +kernel) rfl, by decide +kernel⟩, ⟨alone_of (by decide +kernel) rfl, by decide +kernel⟩⟩

/-- The small machine with convergence register 3 in a state and slots for a round of format 0. -/
def labRound (t : Thread) (r : KReg) (q : List MatEntry) : State :=
  { labSlot t (some 0) .ready q with wgs := [(⟨rootGang 0, 0⟩, ⟨0, 0, 0, 0, [(3, r)], ⟨0, [], []⟩⟩)] }

/-- A format word of I8 and a slot word of slots 2 and 2 and accumulator 1. -/
def tMma : Thread := th [(7, 0x10202)]

def xMma : Ext := e 7 0 6 7 8 3 0 0

theorem witness_MatrixRoundResults :
    Al (th []) (.kset (e 7 0 0 0 0 3 0 1)) ∧ Al (th []) (.kset (e 7 0 0 0 0 3 0 1024)) ∧ ((1 : Nat) ≤ 1 ∧ 1 ≤ 1024 ∧ 1024 ≤ 1024 ∧ 0 < 1 ∧ 1024 < 1025) ∧
    ((ill 6).reg 6).p = true ∧ Al (th []) (.kread (e 7 6 0 0 0 3 0 0)) ∧
    (∀ st : KState, ∀ op ∈ [none, some ⟨0, 0x10202, 0, 0⟩, some ⟨1, 0x10202, 0, 0⟩, some ⟨0, 0x10203, 0, 0⟩], ∀ n ∈ [1, 2], let s := labRound tMma ⟨0, st, 1, n, op, []⟩ []
     Alone s (.mma xMma) wp grp 0 tMma ∧ RoundBarrier s wp 0 (tMma.pair 8) s (0, keyGone) ∧ s.thread ⟨wp, 0⟩ = tMma ∧
      (convergence s wp 3).state = st ∧ (convergence s wp 3).expected = n ∧ (convergence s wp 3).op = op) ∧
    ((tMma.reg 6).p || (tMma.reg 7).p || (tMma.pair 8).p) = false ∧ formatWordOk (tMma.reg 6).v ∧ slotWordOk (labRound tMma ⟨0, .idle, 0, 0, none, []⟩ []) wp (tMma.reg 7).v ∧
    ¬formatWordOk 0x8000 ∧ ¬slotWordOk (lab tMma) wp (tMma.reg 7).v ∧ slotFits (labRound tMma ⟨0, .idle, 0, 0, none, []⟩ []) wp 2 0 false ∧
    ¬slotFits (labSlot tMma (some 1) .ready []) wp 2 0 false ∧ 8 ≤ ((labRound tMma ⟨0, .idle, 0, 0, none, []⟩ (List.replicate 8 round)).core 0).matQ.length ∧
    ((labRound tMma ⟨0, .idle, 0, 0, none, []⟩ (List.replicate 7 round)).core 0).matQ.length < 8 := by
  refine ⟨al rfl rfl, al rfl rfl, by decide +kernel, by decide +kernel, al rfl rfl, ?_, by decide +kernel, by unfold formatWordOk; decide +kernel,
    by unfold slotWordOk; decide +kernel, by unfold formatWordOk; decide +kernel, by unfold slotWordOk; decide +kernel, ⟨_, rfl, by decide +kernel⟩, ?_, by decide +kernel, by decide +kernel⟩
  · intro st op hop n hn
    simp only [List.mem_cons, List.not_mem_nil, or_false] at hop hn
    cases st <;> rcases hop with rfl | rfl | rfl | rfl <;> rcases hn with rfl | rfl <;>
      exact ⟨alone_of (by decide +kernel) rfl, .inl ⟨by decide +kernel, rfl, rfl⟩, by decide +kernel⟩
  · rintro ⟨v, hv, hf, -⟩
    have : tbGet ((labSlot tMma (some 1) .ready []).core 0).slots 2 = some ⟨⟨rootGang 0, 0⟩, [], [], [], some 1, false⟩ := rfl
    rw [show (wp.wg) = ⟨rootGang 0, 0⟩ from rfl] at hv
    simp only [show ((labSlot tMma (some 1) .ready []).wg ⟨rootGang 0, 0⟩).core = 0 from rfl, this, Option.some.injEq] at hv
    subst hv
    simp at hf

/-- The small machine with a context of 4-bit digits whose state 0 keeps digit 0 (Table 9-1). -/
def ctx0 : Ctx := ⟨⟨rootGang 0, 0⟩, [(0, 4), (2, 1), (4, 16), (65, 0x80)]⟩

def labCtx (t : Thread) : State := { lab t with cores := [(0, { Core.idle with ctxs := [(2, ctx0)] })] }

theorem ctx_inSpan {t : Thread} {i : Instr} (h : i.ext.guard = 7) (hd : t.wd + 1 < t.deadline := by decide) : InSpan (labCtx t) i wp grp 0 t :=
  ⟨rfl, rfl, rfl, by simp [grp], rfl, by rw [h]; exact always t, only hd⟩

theorem witness_TransducerResults :
    (let x := e 7 6 8 10 12 2 0 0
     InSpan (labCtx (th [])) (.dt2 x) wp grp 0 (th []) ∧ context (labCtx (th [])) wp x = some ctx0 ∧ ctxByte ctx0 0 = 4 ∧ StartsAt ctx0 x ((th []).reg x.c) 0 ∧
      ((th []).pair x.a).p = false ∧ Claim.Passes ctx0 ((th []).pair x.a).v ((th []).pair x.b).v true 0 0 0) ∧
    (let x := e 7 6 8 10 12 6 0 0
     StartsAt ctx0 x ((th [(12, 0x80000000)]).reg x.c) 0) ∧ ((ill 8).pair 8).p = true ∧
    (Sp (th []) (.dtcmp (e 7 5 8 10 3 8 0 0)) ∧ context (lab (th [])) wp (e 7 5 8 10 3 8 0 0) = none) ∧
    (InSpan (labCtx (th [])) (.dteval (e 7 6 8 0 3 2 0 0)) wp grp 0 (th []) ∧ ∀ i < 64 / 4, ((th []).pair 8).v / 2 ^ (4 * i) % 2 ^ 4 < ctxByte ctx0 4) ∧
    Sp (th []) (.dtstat (e 7 3 6 0 0 2 0 0)) ∧ ((ill 6).reg 6).p = true := by
  refine ⟨⟨ctx_inSpan rfl, by decide +kernel, by decide +kernel, by unfold StartsAt; decide +kernel, by decide +kernel, fun _ => 0, fun _ => 0, rfl, rfl, ?_, by decide +kernel⟩,
    by unfold StartsAt; decide +kernel, by decide +kernel, ⟨sp rfl, by decide +kernel⟩, ⟨ctx_inSpan rfl, by decide +kernel⟩, sp rfl, by decide +kernel⟩
  intro k _
  have h : ∀ i, PassStep ctx0 ((th []).pair 8).v ((th []).pair 10).v true i 0 0 0 := by
    intro i
    have ha : ((th []).pair 8).v = 0 := by decide +kernel
    have hb : ((th []).pair 10).v = 0 := by decide +kernel
    unfold PassStep
    rw [ha, hb]
    simp only [Nat.zero_div, Nat.zero_mod, if_true]
    decide +kernel
  exact h _

/-- An image at the start of the scratch, in its homes; one past its end; a line of it with a store on its way; the context of another workgroup;
a lower lane that has loaded the same. -/
theorem witness_TransducerImage :
    (let t := th [(7, 0xFFFE0000)]
     let tab := flatTab 0xFFFE000000000000 16448
     Al t (.dtctx (e 7 0 6 0 0 2 0 0)) ∧ (∀ k, loner ((lab t).thread ⟨wp, k⟩)) ∧ t.pair 6 = ⟨0xFFFE000000000000, false⟩ ∧ found (lab t) .image 0xFFFE000000000000 64 = .ok 0 false false none ∧
      isSram 0 = true ∧ after (lab t) .image 0xFFFE000000000000 64 = lab t ∧ (lab t).imageInside ((lab t).who ⟨wp, 0⟩) 0xFFFE000000000000 = true ∧
      Homes (lab t) wp 0 .image 0xFFFE000000000000 16448 (lab t) tab ∧ ¬lineWaits (lab t) wp 0 tab ∧ (∀ n < 16448, near tab (0xFFFE000000000000 + n)) ∧
      ((lab t).core 0).ctxs = [] ∧ (lab t).imageInside ((lab t).who ⟨wp, 0⟩) 0xFFFE00000000C000 = false) ∧
    lineWaits { lab (th []) with coreQ := [acc false none] } wp 0 (flatTab 0xFFFE000000000000 16448) ∧
    (tbGet ((labCtx (th [])).core 0).ctxs 2).map Ctx.owner ≠ some ⟨rootGang 1, 0⟩ ∧
    (let t := th [(7, 0xFFFE0000)]
     let x := e 7 0 6 0 0 2 0 0
     let s : State := { lab t with warps := [(wp, { Warp.absent with lanes := [(0, { t with wait := .together [1] grp.pc 0x10000000C }), (1, t)]
                                                                     cur := some { grp with lanes := [1] } })] }
     Alone s (.dtctx x) wp { grp with lanes := [1] } 1 t ∧ (s.thread ⟨wp, 0⟩).wait = .together [1] grp.pc 0x10000000C ∧
      (s.thread ⟨wp, 0⟩).guard x.guard = true ∧ ((s.thread ⟨wp, 0⟩).pair x.a).v = (t.pair x.a).v) := by
  refine ⟨⟨al rfl rfl, lab_loner rfl, by decide +kernel, by decide +kernel, by decide +kernel, by decide +kernel, by decide +kernel, by unfold Homes; decide +kernel, ?_, ?_,
    rfl, by decide +kernel⟩, ⟨_, List.mem_cons_of_mem _ (List.mem_cons_of_mem _ (List.mem_cons_of_mem _ (List.mem_cons_of_mem _ (List.mem_cons_self ..)))), _, rfl, by decide +kernel⟩,
    by decide +kernel, ⟨rfl, rfl, rfl, rfl, rfl, always _, .inl (by decide)⟩, by decide +kernel⟩
  · exact flat_clear (by decide +kernel)
  · exact flat_near (by decide) (by decide)

theorem witness_SpillAndFillResults : Al (th []) (.spill (e 7 0 6 0 0 0 0 7)) ∧ Al (th []) (.fill (e 7 5 0 0 0 0 0 7)) := ⟨al rfl rfl, al rfl rfl⟩
/-- A launch header in the scratch at 0x1000 (Table 1-6). -/
def labLaunch (h : Header) : State :=
  labMem (th [(6, 0x1000), (7, 0xFFFE0000), (8, 0x2000), (9, 0xFFFE0000)]) [(4096, 8, h.entry), (4104, 8, h.params), (4112, 8, h.handler), (4120, 8, h.donebar), (4128, 8, h.shape), (4136, 4, h.e2), (4140, 4, h.e3),
    (4144, 4, h.e4), (4148, 4, h.e5), (4152, 8, h.control)] []

/-- A header of zeros, one that is accepted, a cooperative one of more gangs than there is room for. -/
theorem witness_LaunchResults :
    (∀ h ∈ [Header.absent, labHeader, { labHeader with shape := labHeader.shape + 10 * 2 ^ 12, e2 := 1000, control := labHeader.control + 2 ^ 41 }], let s := labLaunch h
     let t := s.thread ⟨wp, 0⟩
     Alone s (.launch (e 7 5 6 8 0 0 0 0)) wp grp 0 t ∧ Flat s wp 0 .load (t.pair 6) 64 s ⟨0xFFFE000000001000, 4096, false, none⟩ ∧ t.pair 8 ≠ ⟨0, false⟩ ∧
      Flat s wp 0 .store (t.pair 8) 16 s ⟨0xFFFE000000002000, 8192, false, none⟩ ∧ headerOf ((s.seenBytes wp.wg.gang ⟨0xFFFE000000001000, 4096, false, none⟩ 64).map PByte.v) = h ∧
      s.releasing ⟨wp, 0⟩ 4 = false ∧ (s.readAtIssue ⟨wp, 0⟩ ⟨0xFFFE000000001000, 4096, false, none⟩ 64).2.isSome = true ∧
      ((s.launchCode 0 h).map Prod.fst = some (if h = Header.absent then 2 else if h = labHeader then 0 else 3)) ∧ (s.part 0).launches.length ≤ 1024) ∧
    Header.absent.valid (labLaunch Header.absent).sliceLimit = false ∧ (th []).pair 8 = ⟨0, false⟩ ∧
    ({ lab (th []) with coreQ := [acc false none] } : State).releasing ⟨wp, 0⟩ 4 = true := by
  refine ⟨?_, by decide +kernel, by decide +kernel, by decide +kernel⟩
  intro h hh
  simp only [List.mem_cons, List.not_mem_nil, or_false] at hh
  rcases hh with rfl | rfl | rfl <;>
    exact ⟨alone_of (by decide +kernel) rfl, flat_of (key := 4096) (by decide +kernel) (by decide +kernel), by decide +kernel,
      flat_of (key := 8192) (by decide +kernel) (by decide +kernel), by decide +kernel⟩

/-- Operands poisoned, not canonical, misaligned, aligned; a page mapped and not; a descriptor of each kind and each error; the pin limit met and passed. -/
theorem witness_TranslationInstructionResults :
    (Al (ill 6) (.tlbinv (e 7 5 6 9 0 0 0 0)) ∧ ((ill 6).pair 6).p = true) ∧ ((th [(7, 0x800000)]).pair 6).p = false ∧ ¬canonicalVa (Claim.pairOf (th [(7, 0x800000)]) 6) ∧
    (Al (th []) (.tlbinv (e 7 5 6 9 0 4 0 0)) ∧ (e 7 5 6 9 0 4 0 0).modA.getLsbD 2 = true ∧ (th []).inval = none ∧ quietRange (lab (th [])) 0 0 (2 ^ 55)) ∧
    SysAddress (th [(6, 1)]) 6 1 ∧ SysAddress (th []) 6 0 ∧ (1 : Nat) % pageOfCode (e 7 5 6 9 0 0 0 0) ≠ 0 ∧
    (let t := th [(12, 1)]
     let desc := fun (k wherein off : Nat) => k * 2 ^ 62 + wherein * 2 ^ 48 + off
     let r := fun k w off => smapReq 0 (desc k w off) 1
     Al t (.smap (e 7 5 6 8 12 0 0 0)) ∧ (smapReq 0 0 0).badRange 0 = true ∧ (r 0 0 0).badRange (labMap t 0).poolBytes = false ∧
      (labMap t 0).brokenIn 0 65536 1 0 = false ∧ ((labMap t 0).walk 0 0).sram = false ∧ ((labMap t (4 * 2 ^ 60 + 0x1C0)).walk 0 0).sram = true ∧
      quietRange (labMap t (4 * 2 ^ 60 + 0x1C0)) 0 0 65536 ∧ ((labMap t (2 * 2 ^ 60 + 0x80001C0)).walk 0 0).mapped = true ∧ ((labMap t 0).walk 0 0).mapped = false ∧
      (r 2 255 0x100000).badRange (labMap t 0).poolBytes = false ∧ (labMap t 0).smapForeign 0 (r 2 255 0x100000) = true ∧ (labMap t 0).smapForeign 0 (r 2 0 0) = false ∧
      (labMap t 0).smapTaken (r 2 0 0) = true ∧ (labMap t 0).smapTaken (r 2 0 0x100000) = false ∧
      ((labMap t 0).smapWrite 0 0 (r 2 0 0x100000) (natsFrom 0 1)).isOk = true) ∧
    (let s := labMap (th [(9, 1)]) (2 * 2 ^ 60 + 0x80001C0)
     Alone s (.pgpin (e 7 5 6 9 0 0 0 0)) wp grp 0 (th [(9, 1)]) ∧ s.brokenIn 0 65536 1 0 = false ∧ (s.part 0).pinned + pinUnits (s.leavesFrom 0 65536 1 0) ≤ smGet 0 (s.part 0).regs 8 ∧
      (∀ e ∈ s.leavesFrom 0 65536 1 0, e.2 ≠ none) ∧ unsettled (s.leavesFrom 0 65536 1 0) = none) ∧
    (let s := labMap (th [(9, 1)]) 0
     ∃ e ∈ s.leavesFrom 0 65536 1 0, e.2 = none) ∧
    (let s := { labMap (th [(9, 1)]) (2 * 2 ^ 60 + 0x80001C0) with parts := [(0, { (lab (th [])).part 0 with regs := [(8, 0)] })] }
     smGet 0 (s.part 0).regs 8 < (s.part 0).pinned + pinUnits (s.leavesFrom 0 65536 1 0)) := by
  unfold SysAddress canonicalVa quietRange
  exact ⟨⟨al rfl rfl, by decide +kernel⟩, by decide +kernel, by decide +kernel, ⟨al rfl rfl, by decide +kernel⟩, by decide +kernel, by decide +kernel, by decide +kernel,
    ⟨al rfl rfl, by decide +kernel⟩, ⟨alone_of (by decide +kernel) rfl, by decide +kernel⟩, by decide +kernel, by decide +kernel⟩

/-- A region image at 0x1000 of the scratch, over the first page. -/
def labRgn (type reserved : Nat) (old : Bool) : State :=
  let s := labMap (th [(6, 0x1000), (7, 0xFFFE0000)]) (3 * 2 ^ 60 + 0x1C0)
  [(4104, 8, 65536), (4112, 1, type), (4115, 1, reserved), (4116, 4, 1024)].foldl (fun a c => a.writeNat c.1 c.2.1 c.2.2)
    (if old then { s with parts := [(0, { s.part 0 with regions := [(2, ⟨0x400000, 65536, 1, 0, 0, 1024, 0, 0⟩)] })] } else s)

theorem witness_RegionInstructionResults :
    (∀ q ∈ [(0, 0, false), (0, 0, true), (1, 0, false), (1, 0, true), (9, 0, false), (1, 5, false)], let s := labRgn q.1 q.2.1 q.2.2
     let t := s.thread ⟨wp, 0⟩
     let bytes := s.seenBytes wp.wg.gang ⟨0xFFFE000000001000, 4096, false, none⟩ 32
     let r := regionOf (bytes.map PByte.v) (s.part 0).ticks
     Alone s (.rgnset (e 7 5 6 0 0 0 0 2)) wp grp 0 t ∧ Flat s wp 0 .load (t.pair 6) 32 s ⟨0xFFFE000000001000, 4096, false, none⟩ ∧ s.stepWaits ⟨wp, 0⟩ 4096 32 = false ∧
      (s.readAtIssue ⟨wp, 0⟩ ⟨0xFFFE000000001000, 4096, false, none⟩ 32).2.isSome = true ∧
      anyPoison bytes = false ∧ regionReserved (bytes.map PByte.v) = decide (q.2.1 = 0) ∧ r.type = q.1 ∧ (tbGet (s.part 0).regions 2).isSome = q.2.2 ∧ s.regionBusy 0 2 = false ∧
      s.regionBad 0 2 r = (q.1 != 1 || q.2.2)) ∧
    ({ labRgn 0 0 true with coreQ := [acc true (some 2)] } : State).regionBusy 0 2 = true ∧ bottomCell 1 = 0 := by
  refine ⟨?_, by decide +kernel, by decide +kernel⟩
  intro q hq
  simp only [List.mem_cons, List.not_mem_nil, or_false] at hq
  rcases hq with rfl | rfl | rfl | rfl | rfl | rfl <;>
    exact ⟨alone_of (by decide +kernel) rfl, flat_of (key := 4096) (by decide +kernel) (by decide +kernel), by decide +kernel⟩

/-- The small machine with launch 5 of one gang, its gang in a state. -/
def labGang (t : Thread) (st : GangState) (held : Bool) : State :=
  { lab t with
      gangs := [(rootGang 0, { Gang.fresh with state := .running }), (⟨0, 5, 0⟩, { Gang.fresh with state := st, held := held })]
      parts := [(0, { (lab t).part 0 with launches := [(0, Launch.start labHeader 0 0), (5, Launch.start labHeader 0 1)] })] }

theorem witness_SystemStateResults :
    (Al (ill 9) (.ctxsave (e 7 5 9 6 0 0 0 0)) ∧ (((ill 9).reg 9).p || ((ill 9).pair 6).p) = true) ∧
    (Al (th [(9, 5)]) (.ctxload (e 7 5 9 6 0 0 0 0)) ∧ (tbGet ((lab (th [(9, 5)])).part 0).launches 5) = none) ∧
    (∀ st ∈ [GangState.running, .draining, .saving, .saved], ∀ held : Bool, let s := labGang (th [(9, 5)]) st held
     Alone s (.ctxsave (e 7 5 9 6 0 0 0 0)) wp grp 0 (th [(9, 5)]) ∧ (((th [(9, 5)]).reg 9).p || ((th [(9, 5)]).pair 6).p) = false ∧
      ((tbGet (s.part 0).launches 5).any (fun L => decide (0 < L.hdr.gangs)) && !s.launchOver 0 5) = true ∧ (s.gang ⟨0, 5, 0⟩).state = st ∧ (s.gang ⟨0, 5, 0⟩).held = held ∧ (⟨0, 5, 0⟩ : GangId) ≠ wp.wg.gang) ∧
    (let s := labGang (th []) .saved false
     Alone s (.ctxsave (e 7 5 9 6 0 0 0 0)) wp grp 0 (th []) ∧ ((th []).reg 9).v.toNat = 0 ∧ (s.gang ⟨0, 0, 0⟩).state = .running) ∧
    (∀ code ∈ [none, some 0], Al { th [] with ctx := some (⟨0, 5, 0⟩, code) } (.ctxsave (e 7 5 9 6 0 0 0 0))) ∧
    Al (th []) (.pmctlRead (e 7 6 0 0 0 0 0 63)) ∧ (Al (th []) (.pmctlSel (e 7 0 6 0 0 1 0 5)) ∧ ((th []).reg 6).p = false) ∧ ((ill 6).reg 6).p = true ∧
    Al (th []) (.pmctlStart (e 7 0 0 0 0 2 0 5)) ∧ Al (th []) (.pmctlStop (e 7 0 0 0 0 3 0 5)) ∧ Al (th []) (.pmctlClr (e 7 0 0 0 0 4 0 5)) := by
  refine ⟨⟨al rfl rfl, by decide +kernel⟩, ⟨al rfl rfl, by decide +kernel⟩, ?_, ⟨alone_of (by decide +kernel) rfl, by decide +kernel⟩,
    fun _ _ => al rfl rfl (show (th []).wd + 1 < (th []).deadline by decide), al rfl rfl, ⟨al rfl rfl, by decide +kernel⟩, by decide +kernel, al rfl rfl, al rfl rfl, al rfl rfl⟩
  intro st _ held
  cases st <;> cases held <;> exact ⟨alone_of (by decide +kernel) rfl, by decide +kernel⟩
/-- The small machine whose group stands in a phase. -/
def labPhase (t : Thread) (ph : Phase) : State :=
  { lab t with warps := [(wp, { Warp.absent with lanes := [(0, t)], cur := some { grp with phase := ph } })] }

/-- The one gang of launch 5, and its warp. -/
def g5 : GangId := ⟨0, 5, 0⟩
def wp5 : WarpId := ⟨⟨g5, 0⟩, 0⟩

/-- The small machine where a gang of launch 5, with a thread, is in a state on core 1. -/
def labUser (t : Thread) (st : GangState) : State :=
  { lab (th []) with
      warps := [(wp5, { Warp.absent with lanes := [(0, t)], cur := some grp })], wgs := [(⟨rootGang 0, 0⟩, ⟨0, 0, 0, 0, [], ⟨0, [], []⟩⟩), (⟨g5, 0⟩, ⟨1, 0, 0, 0, [], ⟨0, [], []⟩⟩)]
      gangs := [(rootGang 0, { Gang.fresh with state := .running }), (g5, { Gang.fresh with state := st, topCore := 1 })]
      parts := [(0, { (lab t).part 0 with launches := [(0, Launch.start labHeader 0 0), (5, { Launch.start labHeader 0 1 with walk := 1, placed := true })] })]
      focus := some wp5 }

theorem loner_of {t : Thread} (h : t.wait = .ready) : loner t := fun _ _ _ => by rw [h]; exact fun h => nomatch h

/-- A fault of the first instruction; a report of it; a pending result before and after its span has sealed; a deadline not reached and reached;
waits whose time has come or not. -/
theorem witness_SpanAndThreadEventResults :
    let flt : SpanFault := ⟨1, 0x100000000, ⟨6, 2, 0⟩⟩
    let bad := { th [] with flt := some flt }
    (Claim.Span (lab (th [])) wp grp ∧ (lab (th [])).focus = some wp ∧ grp.phase = .run ∧ ((lab (th [])).warp wp).log = [] ∧ ∀ l ∈ grp.lanes, ((lab (th [])).thread ⟨wp, l⟩).flt = none) ∧
    (Claim.Span (lab bad) wp grp ∧ ∃ l ∈ grp.lanes, ((lab bad).thread ⟨wp, l⟩).flt ≠ none) ∧
    (∀ ph ∈ [Phase.reported 64 0 flt, .mismatch, .slow false 64 0 flt none, .slow false 64 0 flt (some (0, ⟨6, 2, 0⟩))], let s := labPhase (th []) ph
     Claim.Span s wp { grp with phase := ph } ∧ s.issues wp.gang = true ∧ s.focus = some wp ∧ 0 ∈ grp.lanes ∧ (s.header wp.gang).handler ≠ 0 ∧ (s.thread ⟨wp, 0⟩).inHandler = false) ∧
    (∀ sealed : Bool, let t := { th [] with pends := [pend sealed true] }
     tbGet ((lab t).warp wp).lanes 0 = some t ∧ loner t ∧ (t.pends.find? fun p => p.id == 0 && p.ready && p.window == 0) = some (pend sealed true)) ∧
    (grp.overrun ≠ some 0 ∧ wp.wg.gang.launch = 0) ∧
    (let g := { grp with overrun := some 0 }
     let s := { labUser (th []) .running with warps := [(wp5, { Warp.absent with lanes := [(0, th [])], cur := some g })] }
     s.focus = some wp5 ∧ (s.warp wp5).cur = some g ∧ g.overrun = some 0 ∧ (tbGet (s.warp wp5).lanes 0).isSome = true ∧ g5.launch ≠ 0 ∧
      (s.gang g5).state = .running ∧ (s.launch g5.part g5.launch).ending = none) ∧
    (let s := { lab { th [] with wait := .nap 10 20 8 } with clk := 10 }
     (s.thread ⟨wp, 0⟩).wait = .nap 10 20 8 ∧ ¬s.clk < 10 ∧ (lab { th [] with wait := .nap 10 20 8 }).clk < 10) ∧
    (let s := lab { th [] with wait := .napTurn [(1, 0)] 8 }
     let s' := { s with warps := [(wp, { Warp.absent with lanes := [(0, { th [] with wait := .napTurn [(1, 0)] 8 }), (1, th [])] })] }
     (s.thread ⟨wp, 0⟩).wait = .napTurn [(1, 0)] 8 ∧ ((s.warp wp).lanes.map Prod.fst).Nodup ∧ ¬(∃ k ∈ [(1, 0)], (tbGet (s.warp wp).lanes k.1).isSome = true ∧ (s.thread ⟨wp, k.1⟩).wait = .ready ∧ (s.thread ⟨wp, k.1⟩).issues = k.2) ∧
      (s'.thread ⟨wp, 0⟩).wait = .napTurn [(1, 0)] 8 ∧ ((s'.warp wp).lanes.map Prod.fst).Nodup ∧ ∃ k ∈ [(1, 0)], (tbGet (s'.warp wp).lanes k.1).isSome = true ∧ (s'.thread ⟨wp, k.1⟩).wait = .ready ∧ (s'.thread ⟨wp, k.1⟩).issues = k.2) ∧
    ((lab { th [] with wait := .ldlt x0 8 8 1 (some 5) 0 8 }).thread ⟨wp, 0⟩).wait = .ldlt x0 8 8 1 (some 5) 0 8 ∧ ((lab (th [])).gang wp.gang).runClk ≤ 0 + 5 ∧
    (∀ bad : Bool, let t := { th [] with wait := .ldlt (e 7 5 6 7 2 0 0 0) 0x10008 (poolKey 4194304 0 8) 9 (some 5) 0 8 }
     let s0 := labRegion t 1 5
     let s : State := { s0 with gangs := [(rootGang 0, { Gang.fresh with state := .running, runClk := 6 })], poison := if bad then [poolKey 4194304 0 8] else [] }
     (s.thread ⟨wp, 0⟩).wait = .ldlt (e 7 5 6 7 2 0 0 0) 0x10008 (poolKey 4194304 0 8) 9 (some 5) 0 8 ∧ 0 + 5 < (s.gang wp.gang).runClk ∧
      anyPoison (s.readBytes (poolKey 4194304 0 8) (cellSize (e 7 5 6 7 2 0 0 0))) = bad ∧ (s.header wp.gang).handler ≠ 0 ∧ (s.thread ⟨wp, 0⟩).inHandler = false) ∧
    (let s : State := { lab { th [] with wait := .exitWait } with coreQ := [acc false none] }
     (s.thread ⟨wp, 0⟩).wait = .exitWait ∧ (lab { th [] with wait := .exitWait }).inFlight = [] ∧ ∃ a ∈ s.inFlight, a.src = .thread ⟨wp, 0⟩ ∧ a.isLoad = false) ∧
    (let s : State := { lab (th []) with cores := [(0, { Core.idle with tracker := [(0, ⟨rootGang 0, [⟨wp, 0⟩]⟩)] })], coreQ := [acc false none] }
     tbGet (s.core 0).tracker 0 = some ⟨rootGang 0, [⟨wp, 0⟩]⟩ ∧ s.outstanding ⟨wp, 0⟩ = true ∧ { s with coreQ := [] }.outstanding ⟨wp, 0⟩ = false) := by
  refine ⟨⟨⟨rfl, rfl, by decide +kernel⟩, by decide +kernel⟩, ⟨⟨rfl, rfl, by decide +kernel⟩, by decide +kernel⟩, ?_, ?_, by decide +kernel, by decide +kernel, by decide +kernel,
    by decide +kernel, by decide +kernel, by decide +kernel, by decide +kernel, by decide +kernel⟩
  · intro ph hp
    simp only [List.mem_cons, List.not_mem_nil, or_false] at hp
    rcases hp with rfl | rfl | rfl | rfl <;> exact ⟨⟨rfl, rfl, by decide +kernel⟩, by decide +kernel⟩
  · intro b
    cases b <;> exact ⟨rfl, loner_of rfl, rfl⟩

/-- A load whose turn has come, at a place no other access is behind; the same access at its core's queue. -/
def labAcc (op : AccOp) (size : Nat) (region : Option Nat) (t : Thread) : State :=
  { lab t with dieQ := [{ acc true region with op := op, size := size }] }

theorem due_of {s : State} {a : Access}
    (h : s.coreQ = [] ∧ s.dieQ = [a] ∧ s.canPerform a = true ∧ s.takeSlices a.gang.part (s.accessSlices a) = (s, true) ∧ isForeign a.key = false ∧ (s.part a.gang.part).mode < 2) :
    Due s a s := ⟨by simp [h.1], by simp [h.2.1], h.2.2.1, h.2.2.2.1, h.2.2.2.2.1, h.2.2.2.2.2⟩

/-- Each kind of access in its turn: a load of a word with its pending result, a store, an addition and an exchange, a CAS that finds its value and one
that does not, a lane that waits for the old value; an access behind another of its lane. -/
theorem witness_AccessResults :
    (let s : State := { lab (th []) with coreQ := [acc true none] }
     s.coreQ.find? (fun b => b.id == 7) = some (acc true none) ∧ s.canStage (acc true none) = true ∧
      { s with coreQ := [{ acc true none with id := 3, place := 3 }, acc true none] }.canStage (acc true none) = false) ∧
    (let t := { th [] with pends := [{ pend false false with id := 7 }] }
     let s := labAcc (.load []) 4 none t
     Due s { acc true none with op := .load [] } s ∧ tbGet (s.warp wp).lanes 0 = some t ∧ loner t ∧ ∀ p ∈ t.pends, p.id = 7 → 4 = 4 * p.regs.length ∨ p.regs.length = 1 ∧ (4 = 1 ∨ 4 = 2)) ∧
    (∀ op ∈ [AccOp.store [⟨1, false⟩], .atom 0 0 1 false true, .atom 6 1 (2 ^ 32 - 1) true false, .cas 0 9 false false, .cas 1 9 false false],
      Due (labAcc op 4 none (th [])) { acc true none with op := op } (labAcc op 4 none (th []))) ∧
    Due (labAcc (.atom 4 3 (2 ^ 64 - 1) false true) 8 none (th [])) { acc true none with op := .atom 4 3 (2 ^ 64 - 1) false true, size := 8 } (labAcc (.atom 4 3 (2 ^ 64 - 1) false true) 8 none (th [])) ∧
    (let t := { th [] with wait := .atomic 7 5 false [0] 8 }
     Due (labAcc (.cas 0 9 false false) 4 none t) { acc true none with op := .cas 0 9 false false } (labAcc (.cas 0 9 false false) 4 none t) ∧ tbGet ((labAcc (.cas 0 9 false false) 4 none t).warp wp).lanes 0 = some t ∧
      t.wait = .atomic (acc true none).id 5 false [0] 8) ∧
    (∀ op ∈ [AccOp.atom 7 1 0x7F800000 false true, .atom 9 0 0x3F80FF80 false true],
      Due (labAcc op 4 none (th [])) { acc true none with op := op } (labAcc op 4 none (th []))) ∧
    Due (labAcc (.atom 8 0 (2 ^ 63) true false) 8 none (th [])) { acc true none with op := .atom 8 0 (2 ^ 63) true false, size := 8 } (labAcc (.atom 8 0 (2 ^ 63) true false) 8 none (th [])) ∧
    (let a := { acc true none with op := .store [⟨1, true⟩], size := 1, snap := true }
     let s : State := { lab (th []) with dieQ := [a] }
     Due s a s) ∧
    (let a := { acc true none with op := .store [⟨1, false⟩], size := 1, key := keyPeer 1 8 }
     Due { lab (th []) with dieQ := [a] } a { lab (th []) with dieQ := [a] } ∧ { lab (th []) with dieQ := [a] }.lostVia a.route a.key = true) ∧
    (let a := { acc true none with op := .store [⟨1, false⟩], size := 1, key := keyHost 1 8 }
     let s : State := { lab (th []) with dieQ := [a], parts := [(0, { (lab (th [])).part 0 with slices := [⟨.access 7, 1, 0, 0⟩] })] }
     s.accessSlices a ≠ [] ∧ ∃ s1, Due s a s1) := by
  refine ⟨by decide +kernel, ⟨due_of (by decide +kernel), by decide +kernel, loner_of rfl, by decide +kernel⟩, ?_, due_of (by decide +kernel), ⟨due_of (by decide +kernel), by decide +kernel⟩, ?_,
    due_of (by decide +kernel), due_of (by decide +kernel), ⟨due_of (by decide +kernel), by decide +kernel⟩, ?_⟩
  · intro op h
    simp only [List.mem_cons, List.not_mem_nil, or_false] at h
    rcases h with rfl | rfl | rfl | rfl | rfl <;> exact due_of (by decide +kernel)
  · intro op h
    simp only [List.mem_cons, List.not_mem_nil, or_false] at h
    rcases h with rfl | rfl <;> exact due_of (by decide +kernel)
  · exact ⟨by decide +kernel, _, by decide +kernel, by decide +kernel, by decide +kernel, by rfl, by decide +kernel, by decide +kernel⟩

/-- The bottom values and the largest of a byte-wide, a word-wide and the vector type. -/
theorem witness_CellsAreSemilattices :
    (1 : Nat) ≤ 1 ∧ (8 : Nat) ≤ 8 ∧ InCell 1 0 ∧ InCell 1 (2 ^ (8 * cellWidth 1) - 1) ∧ InCell 7 (2 ^ (8 * cellWidth 7) - 1) ∧ InCell 8 (bottomCell 8) ∧
      aboveCell 1 (bottomCell 1) (bottomCell 1) = true := by
  unfold InCell
  decide +kernel

/-- A thread that waits at a cell. -/
def atCell (thr : Nat) : Thread := { th [] with wait := .ldlt (e 7 5 6 7 2 0 0 0) 0x10008 (poolKey 4194304 0 8) thr none 0 8 }

/-- The small machine with a lattice region on dies 0 and 1, an access in its turn at a cell. -/
def labCell (t : Thread) (type : Nat) (op : AccOp) (size : Nat) : State :=
  { labRegion t type 5 with dieQ := [{ acc true (some 2) with op := op, size := size, va := 0x10008, key := poolKey 4194304 0 8 }] }

def cellAcc (op : AccOp) (size : Nat) : Access := { acc true (some 2) with op := op, size := size, va := 0x10008, key := poolKey 4194304 0 8 }

/-- A join that raises a cell and one that does not, with a parked lane whose threshold is met and one whose threshold is not; JINC; a round due and not; a value on its way; the
window at a cell's offset and off it; a die to fence and one fenced. -/
theorem witness_LatticeAndFenceEventResults :
    (∀ v ∈ [5, 6], ∀ thr ∈ [6, 7], let s := labCell (atCell thr) 1 (.join v) 4
     Due s (cellAcc (.join v) 4) s ∧ (tbGet (s.part 0).regions 2).map Region.type = some 1 ∧ InCell 1 v ∧ anyPoison (s.readBytes (poolKey 4194304 0 8) 4) = false ∧
      (s.gang wp.wg.gang).state ≠ .saved ∧ (s.gang wp.wg.gang).state ≠ .resuming ∧ tbGet (s.warp wp).lanes 0 = some (atCell thr) ∧ metCell 1 (joinCell 1 (s.readNat (poolKey 4194304 0 8) 4) (cellOperand 1 v)) thr = decide (thr ≤ max 5 v)) ∧
    (Due (labCell (th []) 7 (.jinc 1 3) 16) (cellAcc (.jinc 1 3) 16) (labCell (th []) 7 (.jinc 1 3) 16) ∧ 3 < 4 ∧ (tbGet ((labCell (th []) 7 (.jinc 1 3) 16).part 0).regions 2).map Region.type = some 7) ∧
    (let s := labRegion (th []) 1 5
     (tbGet (s.part 0).regions 2).map (fun r => (r.since, r.rounds, r.period)) = some (0, 0, 1024) ∧ (s.part 0).ticks < 0 + 1 * 1024 ∧
      0 + 1 * 1024 ≤ ({ s with parts := [(0, { s.part 0 with ticks := 1024 })] }.part 0).ticks ∧ roundsTo 0 1 [0, 1] 0 1 ∧ ¬roundsTo 0 1 [0] 0 0) ∧
    (let d : Delta := ⟨4, 0, 2, 8, 0, 9, false, [], 0⟩
     let s := { labRegion (th []) 1 5 with deltas := [d] }
     s.deltas.find? (fun x => x.id == d.id) = some d ∧ (tbGet (s.part d.part).regions d.entry).map Region.type = some 1 ∧ (s.die d.dest).fenced = false ∧
      s.replicaKey d.part d.dest (0x10000 + d.off) = none ∧ d.poison = false ∧ InCell 1 d.value) ∧
    (let s0 := labMap (th []) (3 * 2 ^ 60 + 0x3F0)
     let s := { s0 with parts := [(0, { s0.part 0 with regions := [(2, ⟨0, 65536, 1, 0, 1, 1024, 0, 0⟩)] })] }
     s.hasPart 0 = true ∧ (s.fn 1).tdisp ≠ .error ∧ ((s.part 0).regions.find? fun r => natBit r.2.flags 0).map Prod.fst = some 2 ∧ cellWidth 1 = 4 ∧ (65532 : Nat) % 4 = 0 ∧
      (s.replicaKey 0 (((s.diesOf 0).head?).getD 0) (0 + 4092)).isSome = true ∧ (s.replicaKey 0 0 (0 + 8)).isSome = true) ∧
    ((lab (th [])).part 0).regions.find? (fun r => natBit r.2.flags 0) = none ∧ ((lab (th [])).die 3).fenced = false ∧
    ({ lab (th []) with dies := [(3, { Die.idle with fenced := true })] }.die 3).fenced = true := by
  refine ⟨?_, ⟨due_of (by decide +kernel), by decide +kernel⟩, ?_, ?_, by decide +kernel, by decide +kernel, by decide +kernel, by decide +kernel⟩
  · intro v hv thr ht
    unfold InCell
    simp only [List.mem_cons, List.not_mem_nil, or_false] at hv ht
    rcases hv with rfl | rfl <;> rcases ht with rfl | rfl <;> exact ⟨due_of (by decide +kernel), by decide +kernel⟩
  · exact ⟨by decide +kernel, by decide +kernel, by decide +kernel, ⟨by decide +kernel, by decide +kernel, by decide +kernel, show rankOf [0, 1] 1 = (rankOf [0, 1] 0 + 1) % 2 by decide +kernel⟩, fun h => h.2.2.1 rfl⟩
  · unfold InCell
    decide +kernel
/-- The small machine with one settlement of its first page, which has this entry, its slices done, and a fault queue of a size. -/
def labSettle (leaf : Nat) (x : Settle) (fqlog : Nat) : State :=
  let s := labMap (th []) leaf
  { s with
      parts := [(0, { s.part 0 with settles := [x], slices := [⟨.page 0, 0, 0, 0⟩] })]
      fns := [(1, { Fn.reset with fqbase := 4096, fqlog := fqlog })] }

/-- The leaf of the first page. -/
def labLeaf (e : Nat) : Leaf := ⟨2 ^ 40 + 262144, e, 65536⟩

/-- A settlement of the first page. -/
def settle (why : SettleWhy) (answer old : Option Nat) : Settle := ⟨0, 0, rootGang 0, why, [{ who := .thread ⟨wp, 0⟩, va := 0, pc := 0, entry := 0 }], none, answer, old, []⟩

theorem serves_of {e : Nat} {x : Settle} {n : Nat} (h : (labSettle e x n).walk 0 x.va = .leaf (labLeaf e) ∧ x.seq = none ∧ x.va < 2 ^ 55 ∧ ((labSettle e x n).part 0).settles = [x] ∧
    ((labSettle e x n).part 0).held = [] ∧ x.va % (labLeaf e).size = 0) : Serves (labSettle e x n) 0 x (labLeaf e) := ⟨h.2.2.2.1, h.2.1, h.1, h.2.2.2.2.1, h.2.2.1, h.2.2.2.2.2⟩

/-- A page of kind 7 that the host answers, refuses, has no queue for, or is asked for; one of kind 5 that starts to move, and moves; an eviction made and not; an answer, and none. -/
theorem witness_PageEventResults :
    (∀ a ∈ [some 0x40000, some 0, none], ∀ n ∈ [3, 4, 12, 13], let e := 7 * 2 ^ 60 + 0x3C0
     Serves (labSettle e (settle (.notPresent 1) a none) n) 0 (settle (.notPresent 1) a none) (labLeaf e) ∧ pteKind (labLeaf e).entry = 7 ∧
      (labSettle e (settle (.notPresent 1) a none) n).slotFree 0 = true ∧
      ((labSettle e (settle (.notPresent 1) a none) n).part 0).hostLine = [] ∧ ((labSettle e (settle (.notPresent 1) a none) n).fn 1).masked 1 = true) ∧
    (∀ k ∈ [5, 6], let e := k * 2 ^ 60 + 0x100003C0
     Serves (labSettle e (settle .migrate none none) 4) 0 (settle .migrate none none) (labLeaf e) ∧ pteKind (labLeaf e).entry = k ∧ natBit (labLeaf e).entry 11 = false) ∧
    (let e := 8 * 2 ^ 60 + 0x100003C0
     let x := settle .migrate none (some (5 * 2 ^ 60 + 0x100003C0))
     let s := labSettle e x 4
     Serves s 0 x (labLeaf e) ∧ pteKind (labLeaf e).entry = 8 ∧ s.pageBusy 0 x.va 65536 = false ∧ ((s.frameFor 0 x.die (65536 / 65536)).isSome = true) ∧
      (s.takeSlices 0 (s.pageSlices 0 x.die x.va 65536 (5 * 2 ^ 60 + 0x100003C0) (s.header x.gang).prio)).2 = true ∧
      { s with dieQ := [{ acc true none with va := 65535 }] }.pageBusy 0 x.va 65536 = true) ∧
    (let e := 8 * 2 ^ 60 + 0x3C0
     let v : Evict := ⟨0, 65536, some (2 * 2 ^ 60 + 0x3C0), some (5 * 2 ^ 60 + 0x40000), none, 0, 0⟩
     let s := labMap (th []) e
     let s1 := { s with parts := [(0, { s.part 0 with evicts := [v], slices := [⟨.page 0, 0, 0, 0⟩] })] }
     (s1.part 0).evicts.find? (fun y => y.va == v.va) = some v ∧ v.va < 2 ^ 55 ∧ v.target = some (5 * 2 ^ 60 + 0x40000) ∧ s1.walk 0 v.va = .leaf (labLeaf e) ∧
      pteKind (labLeaf e).entry = 8 ∧ s1.pageBusy 0 v.va v.size = false ∧ v.size = (labLeaf e).size ∧ pteKind (5 * 2 ^ 60 + 0x40000) = 5 ∧
      (s1.takeSlices 0 (s1.pageSlices 0 v.die v.va v.size (5 * 2 ^ 60 + 0x40000 + 0x3C0) 0)).2 = true ∧
      { s1 with dieQ := [{ acc true none with va := 65535 }] }.pageBusy 0 v.va v.size = true) ∧
    (∀ pinned : Bool, let e := 2 * 2 ^ 60 + 10 * 65536 + (if pinned then 0xBC0 else 0x3C0)
     let v : Evict := ⟨0, 65536, none, some (5 * 2 ^ 60 + 0x40000), none, 0, 0⟩
     let s := labMap (th []) e
     let s1 := { s with parts := [(0, { s.part 0 with evicts := [v] })] }
     (s1.part 0).evicts.find? (fun y => y.va == v.va) = some v ∧ s1.walk 0 v.va = .leaf (labLeaf e) ∧ pteKind (labLeaf e).entry = 2 ∧
      natBit (labLeaf e).entry 11 = pinned ∧ s1.evictable 0 v.die [] (v.va, labLeaf e) = !pinned) ∧
    (let s := lab (th [])
     let s1 (now : Nat) : State := { s with clk := now, parts := [(0, { s.part 0 with hostEntries := [⟨1, 0x40000, 1, 0⟩] })] }
     s.hasPart 0 = true ∧ (s.part 0).hostEntries.find? (fun e => e.va == 0x40000) = none ∧ ((s1 0).part 0).hostEntries.find? (fun e => e.va == 0x40000) = some ⟨1, 0x40000, 1, 0⟩ ∧
      ((s1 0).part (1 - 1)).hostEntries.find? (fun e => e.seq == 1) = some ⟨1, 0x40000, 1, 0⟩ ∧ (s1 1049999999).clk < 0 + 1050000000 ∧ 0 + 1050000000 ≤ (s1 1050000000).clk) ∧
    (let e : LogEntry := ⟨0, 1, 1, 0x100000000, .ld x0, 0xFFFE000000000008, []⟩
     let s := { lab (th []) with warps := [(wp, { Warp.absent with lanes := [(0, th [])], cur := some grp, log := [e] })] }
     (s.warp wp).log = [e] ∧ tbGet (s.warp wp).lanes e.lane = some (th []) ∧ (s.part 0).settles = [] ∧ found s .load e.va (2 ^ (x0.modA.toNat % 8)) = .ok 8 false false none ∧
      (let y : Settle := settle .migrate none none
       y.va = s.settleBase 0 0xFFF8 y.why)) ∧
    (let s : State := { lab (th []) with fns := [(1, { Fn.reset with tdisp := .locked })] }
     ((s.fn 1).tdisp = .locked ∨ (s.fn 1).tdisp = .run) ∧ (s.fn 1).ideKey = false) := by
  refine ⟨?_, ?_, ⟨serves_of (by decide +kernel), by decide +kernel⟩, by decide +kernel, by decide +kernel, by decide +kernel, by decide +kernel, by decide +kernel⟩
  · intro a ha n hn
    simp only [List.mem_cons, List.not_mem_nil, or_false] at ha hn
    rcases ha with rfl | rfl | rfl <;> rcases hn with rfl | rfl | rfl | rfl <;> exact ⟨serves_of (by decide +kernel), by decide +kernel⟩
  · intro k hk
    simp only [List.mem_cons, List.not_mem_nil, or_false] at hk
    rcases hk with rfl | rfl <;> exact ⟨serves_of (by decide +kernel), by decide +kernel⟩

/-- A command of the root gang's workgroup with a completion barrier at 0x100 of its scratch. -/
def cmdOf (op : CmdOp) (done : Bool) : Cmd :=
  { id := 3, srcs := [⟨wp, 0⟩], wg := ⟨rootGang 0, 0⟩, bar := 0xFFFE000000000100, barKey := 256, op := op, headAt := 0, walked := 0, done := done, after := [], behind := [],
    claim := none, bytes := [], got := [], todo := [], moving := false }

/-- A record of 64 bytes of the scratch, of one format or another. -/
def labTensor (format : Nat) : Tensor := ⟨0xFFFE000000002000, format, 1, 0, 0, [64, 1, 1, 1, 1], [64, 1, 1, 1, 1], [0, 0, 0, 0]⟩

/-- The small machine with commands at the head of its queues and a tile. -/
def labCmds (c : Cmd) (st : TileState) : State := labTile (th []) st [c]

/-- The tile of the small machine. -/
def tileOf (st : TileState) : Tile := ⟨⟨rootGang 0, 0⟩, 0xFFFE000000002000, 4096, st, 0⟩

/-- A COPY of 4 bytes a lane: two lanes of the scratch. -/
def copyLanes : List (Nat × Nat × Nat × Nat) :=
  [(0xFFFE000000001000, 0xFFFE000000002000, 0xFFFE000000000100, 256), (0xFFFE000000001004, 0xFFFE000000002080, 0xFFFE000000000100, 256)]

/-- The state after a command's lines have got homes. -/
def homed (s : State) (core : Nat) (c : Cmd) (need : Need) (ls : List Nat) : State := (s.lineHomes (cmdWho core c) need ls).1

theorem homes_of {s : State} {w : Who} {need : Need} {ls : List Nat} {tab : LineTable} (h : (s.lineHomes w need ls).2.toOption = some tab) :
    s.lineHomes w need ls = ((s.lineHomes w need ls).1, .ok tab) := by
  generalize s.lineHomes w need ls = r at h
  obtain ⟨a, b⟩ := r
  cases b with
  | error e => cases h
  | ok v => cases h; rfl

/-- What `CanMove` asks, as one decidable statement. -/
abbrev Movable (s : State) (core : Nat) (c : Cmd) (need : Need) (ls : List Nat) (tab : LineTable) : Prop :=
  (s.lineHomes (cmdWho core c) need ls).2.toOption = some tab ∧
    ((homed s core c need ls).takeSlices c.wg.gang.part ((homed s core c need ls).cmdSlices c tab)).2 = true ∧ ∀ e ∈ tab, s.lineBusy core c e.2 = false

theorem canMove_of {s : State} {core : Nat} {c : Cmd} {need : Need} {ls : List Nat} {tab : LineTable} (h : Movable s core c need ls tab) : ∃ s1, CanMove s core c need ls s1 tab :=
  ⟨_, ⟨⟨homed s core c need ls, homes_of h.1, Prod.ext rfl h.2.1⟩, h.2.2⟩⟩

/-- The small machine whose workgroup belongs to a gang of launch 5, in a partition of one mode, with a page of one kind. -/
def labView (c : Cmd) (kind : Nat) : State :=
  { labUser (th []) .running with
      parts := [(0, { (labUser (th []) .running).part 0 with mode := 1 })]
      cores := [(1, { Core.idle with copyQ := [c], tlb := [⟨0, 65536, 65536, entry kind 0, true⟩] })] }

/-- A COPY that reads its first line, one that waits for it, one that writes, also half a byte, also a line whose translation is gone, poison for the host, a snapshotted page; a line on its home. -/
theorem witness_EngineTransferResults :
    let c := cmdOf (.copy 4 copyLanes) false
    let l := 0xFFFE000000002000 / 64
    let tab : LineTable := [(l, some ⟨0x2000, false⟩)]
    let put (va : Nat) (p : Bool) (half : Option Bool) : Cmd := { c with moving := true, todo := [(va, [⟨3, p⟩], half), (va + 64, [⟨4, false⟩], none)] }
    (let s := labCmds c .empty
     AtWork s 0 0 (.copyComplete 0) c ∧ Ready s 0 c ∧ c.moving = false ∧ (s.readsOf 0 c).find? (fun l => (tbGet c.got l).isNone) = some l ∧ (∃ s1, CanMove s 0 c .engineRead [l] s1 tab) ∧
      AtHome ⟨0x2000, false⟩ ∧ { s with gangs := [(rootGang 0, { Gang.fresh with state := .saved })] }.cmdReady 0 c = false ∧
      { s with dieQ := [{ acc false none with id := 2, place := 2, key := 0x2004, lane := s.laneOf 0 0x2000 }] }.lineBusy 0 c (some ⟨0x2000, false⟩) = true) ∧
    (∀ half ∈ [none, some false, some true], let y := put 0xFFFE000000002001 false half
     let s := labCmds y .empty
     AtWork s 0 0 (.copyComplete 0) y ∧ Ready s 0 y ∧ y.moving = true ∧ WithinLine l [(0xFFFE000000002001, [⟨3, false⟩], half)] ∧ (∃ s1, CanMove s 0 y .engineWrite [l] s1 tab)) ∧
    (let y := put 0x10000 false none
     let s := labCmds y .empty
     AtWork s 0 0 (.copyComplete 0) y ∧ Ready s 0 y ∧ ∃ s1, CanMove s 0 y .engineWrite [1024] s1 [(1024, none)]) ∧
    (let y := { cmdOf (.copy 4 copyLanes) false with moving := true, todo := [(0x10000, [⟨3, true⟩], none)] }
     let s := { labPage (th []) (entry 5 0) with cores := [(0, { Core.idle with copyQ := [y], tlb := [⟨0, 65536, 65536, entry 5 0, true⟩] })], parts := [(0, { (lab (th [])).part 0 with slices := [⟨.cmd 3 0, 0, 0, 0⟩] })] }
     AtWork s 0 0 (.copyComplete 0) y ∧ Ready s 0 y ∧ (∃ s1, CanMove s 0 y .engineWrite [1024] s1 [(1024, some ⟨keyHost 1 0, false⟩)]) ∧ boundOff (keyHost 1 0) = true ∧
      anyPoison [(⟨3, true⟩ : PByte)] = true) ∧
    (let y := { cmdOf (.copy 4 copyLanes) false with wg := ⟨g5, 0⟩ }
     let s := labView y 2
     AtWork s 1 0 (.copyComplete 1) y ∧ Ready s 1 y ∧ ∃ s1, CanMove s 1 y .engineRead [1024] s1 [(1024, some ⟨2 ^ 40, true⟩)]) := by
  refine ⟨⟨.copy _ [] _ _ rfl rfl, ?_⟩, ?_, ⟨.copy _ [] _ _ rfl rfl, ?_⟩, ⟨.copy _ [] _ _ rfl rfl, ?_⟩, ⟨.copy _ [] _ _ rfl rfl, ?_⟩⟩
  · unfold Ready Works AtHome
    exact ⟨by decide +kernel, by decide +kernel, by decide +kernel, canMove_of (by decide +kernel), by decide +kernel, by decide +kernel, by decide +kernel⟩
  · intro half hh
    unfold Ready Works WithinLine
    simp only [List.mem_cons, List.not_mem_nil, or_false] at hh
    rcases hh with rfl | rfl | rfl <;> exact ⟨.copy _ [] _ _ rfl rfl, by decide +kernel, by decide +kernel, by decide +kernel, canMove_of (by decide +kernel)⟩
  · unfold Ready Works
    exact ⟨by decide +kernel, canMove_of (by decide +kernel)⟩
  · unfold Ready Works
    exact ⟨by decide +kernel, canMove_of (by decide +kernel), by decide +kernel, by decide +kernel⟩
  · unfold Ready Works
    exact ⟨by decide +kernel, canMove_of (by decide +kernel)⟩

/-- A COPY that has read its lines, its destinations known; a walk tile of BULK.in that has read its own, of 8-bit and of 4-bit elements, and of BULK.out; a byte of its image and one past it. -/
theorem witness_EngineListResults :
    (let c := { cmdOf (.copy 4 copyLanes) false with got := [(0xFFFE000000002000 / 64, List.replicate 64 ⟨7, false⟩), (0xFFFE000000002080 / 64, List.replicate 64 ⟨8, false⟩)] }
     let s := labCmds c .empty
     AtWork s 0 0 (.copyComplete 0) c ∧ Ready s 0 c ∧ c.moving = false ∧ (∀ l ∈ s.readsOf 0 c, (tbGet c.got l).isSome = true) ∧ 4 ∣ 64 ∧ (∀ m ∈ copyLanes, m.1 % 4 = 0) ∧
      ∃ s1 tab, s.lineHomes { cmdWho 0 c with counts := false } .engineWrite (linesOf (copyLanes.map Prod.fst)) = (s1, .ok tab)) ∧
    (∀ format ∈ [4, 1], ∀ out : Bool,
     let got := (natsFrom (0xFFFE000000002000 / 64) 64).map fun l => (l, List.replicate 64 (⟨7, false⟩ : PByte))
     let c := { cmdOf (if out then .bulkOut 3 (labTensor format) [0] else .bulkIn 3 (labTensor format) [0]) false with got := got }
     let s := labCmds c (if out then .draining else .filling)
     (s.core 0).bulkQ.find? Cmd.walking = some c ∧ c.op.walk = some (3, labTensor format, [0], out) ∧ tbGet (s.core 0).tiles 3 = some (tileOf (if out then .draining else .filling)) ∧
      Ready s 0 c ∧ (∀ l ∈ s.readsOf 0 c, (tbGet c.got l).isSome = true) ∧ (tileOf .filling).va % 64 = 0) ∧
    (labTensor 4).imgByte [0] 0 0 = .mem 0xFFFE000000002000 ∧ (labTensor 1).imgByte [0] 0 0 = .halves (.mem 0xFFFE000000002000 false) (.mem 0xFFFE000000002000 true) ∧
    (labTensor 4).imgByte [1] 0 127 = .fill 0 ∧ { labTensor 1 with size := [63, 1, 1, 1, 1], box := [63, 1, 1, 1, 1] }.imgByte [0] 9 31 = .halves (.mem 0xFFFE00000000201F false) (.fill 9) := by
  unfold Ready Works
  refine ⟨⟨.copy _ [] _ _ rfl rfl, by decide +kernel, by decide +kernel, by decide +kernel, by decide +kernel, by decide +kernel, _, _,
      homes_of (tab := [(0xFFFE000000001000 / 64, some ⟨0x1000, false⟩)]) (by decide +kernel)⟩, ?_, by decide +kernel⟩
  intro f hf a
  simp only [List.mem_cons, List.not_mem_nil, or_false] at hf
  rcases hf with rfl | rfl <;> cases a <;> decide +kernel

/-- The holding buffer of die 0 holds these tiles. -/
def labHeld (s : State) (ps : List Machine.Parked) : State := { s with dies := [(0, { Die.idle with holding := ps })] }

/-- A tile parked for the root gang's member, or for another one. -/
def parkedFor (mask : Nat) (bytes : List PByte) : Machine.Parked := ⟨4, rootGang 0, 0, 0, mask, [], [], bytes⟩

/-- A COPY with all written; a walk tile with all written, the first or the last; a BULK done or not; an MCAST with room and without; an MCRECV that finds a tile, finds none, has claimed one, has moved one of its tiles, has drained it. -/
theorem witness_EngineEventResults :
    (let c := { cmdOf (.copy 4 copyLanes) false with moving := true }
     let s := labCmds c .empty
     (s.core 0).copyQ = [c] ∧ Ready s 0 c ∧ c.todo = [] ∧ ∀ o ∈ copyLanes.map (fun m => m.2.2.2), o ≠ 256 → Apart 256 16 o 16) ∧
    (∀ size ∈ [64, 4096], ∀ out : Bool, let r := { labTensor 4 with size := [size, 1, 1, 1, 1], box := [size, 1, 1, 1, 1] }
     let c := { cmdOf (if out then .bulkOut 3 r [0] else .bulkIn 3 r [0]) false with moving := true }
     let s := labCmds c (if out then .draining else .filling)
     (s.core 0).bulkQ.find? Cmd.walking = some c ∧ Ready s 0 c ∧ c.op.walk = some (3, r, [0], out) ∧ (tbGet (s.core 0).tiles 3).isSome = true ∧
      decide (r.imageBytes ≤ tileLo 1) = decide (size = 64)) ∧
    (∀ done : Bool, ∀ out : Bool, let c := cmdOf (if out then .bulkOut 3 (labTensor 4) [0] else .bulkIn 3 (labTensor 4) [0]) done
     let s := labCmds c .draining
     (s.core 0).bulkQ = [c] ∧ c.op.walk = some (3, labTensor 4, [0], out) ∧ (tbGet (s.core 0).tiles 3).isSome = true ∧ c.done = done ∧ Works s c.wg.gang ∧ Lives s c.wg ∧
      s.tagged 256 = true) ∧
    (let c := cmdOf (.mcast 3 1 0) false
     let s := labCmds c .draining
     (s.core 0).mcastQ = [c] ∧ tbGet (s.core 0).tiles 3 = some (tileOf .draining) ∧ (tileOf .draining).va % 64 = 0 ∧ (tileOf .draining).size % 64 = 0 ∧ s.reparkers 0 = [] ∧ Ready s 0 c ∧
      (s.gang c.wg.gang).parked = [] ∧ s.mcastAhead 0 c = false ∧ (s.die 0).holding = [] ∧ Lives s c.wg ∧
      (∃ s1, CanMove s 0 c .engineRead (linesIn (tileOf .draining).va 4096) s1 ((natsFrom 0 64).map fun i => ((tileOf .draining).va / 64 + i, some ⟨8192 + 64 * i, false⟩))) ∧
      ¬(((labHeld s (List.replicate 16 (parkedFor 1 []))).die 0).holding.filter fun (p : Machine.Parked) => p.gang == c.wg.gang).length < 16) ∧
    (let c := cmdOf (.mcrecv 3 0 0) false
     let s := labCmds c .filling
     let s1 (mask : Nat) : State := { labHeld s [parkedFor mask [⟨7, false⟩]] with warps := [(wp, { Warp.absent with lanes := [(0, { th [] with wait := .mcrecv 3 8 })] })] }
     (s.core 0).mcastQ = [c] ∧ tbGet (s.core 0).tiles 3 = some (tileOf .filling) ∧ Ready s 0 c ∧ (s.gang c.wg.gang).parked = [] ∧ (s.die 0).holding = [] ∧ Ready (s1 1) 0 c ∧
      ((s1 1).die 0).holding = [parkedFor 1 [⟨7, false⟩]] ∧ forMe c 0 0 (parkedFor 1 [⟨7, false⟩]) ∧ ¬forMe c 0 0 (parkedFor 2 [⟨7, false⟩]) ∧ c.srcs.head? = some ⟨wp, 0⟩ ∧
      (tbGet ((s1 1).warp wp).lanes 0).map Thread.wait = some (.mcrecv c.id 8)) ∧
    (∀ moving : Bool, let c := { cmdOf (.mcrecv 3 0 0) false with claim := some 4, bytes := [⟨7, false⟩], moving := moving }
     let s := labHeld (labCmds c .filling) [parkedFor 1 [⟨7, false⟩]]
     AtWork s 0 2 (.mcrecvComplete 0) c ∧ Ready s 0 c ∧ c.todo = [] ∧ (tileOf .filling).va % 64 = 0) ∧
    (∀ mask ∈ [1, 3], let c := { cmdOf (.mcrecv 3 0 0) true with claim := some 4, bytes := [⟨7, false⟩] }
     let s := labHeld (labCmds c .filling) [parkedFor mask [⟨7, false⟩]]
     (s.core 0).mcastQ = [c] ∧ tbGet (s.core 0).tiles 3 = some (tileOf .filling) ∧ Ready s 0 c ∧ (s.gang c.wg.gang).parked = [] ∧ parkedFor mask [⟨7, false⟩] ∈ (s.die 0).holding) := by
  unfold Ready Works Lives Apart forMe
  refine ⟨by decide +kernel, ?_, ?_, ⟨by decide +kernel, by decide +kernel, by decide +kernel, by decide +kernel, by decide +kernel, by decide +kernel, by decide +kernel, by decide +kernel,
    by decide +kernel, by decide +kernel, canMove_of (by decide +kernel), by decide +kernel⟩, by decide +kernel, ?_, by decide +kernel⟩
  · intro size hs out
    simp only [List.mem_cons, List.not_mem_nil, or_false] at hs
    rcases hs with rfl | rfl <;> cases out <;> decide +kernel
  · intro a b; cases a <;> cases b <;> decide +kernel
  · intro moving
    cases moving <;> exact ⟨.mcrecv _ [] 3 0 0 4 (tileOf .filling) rfl rfl (by decide +kernel) rfl rfl (by decide +kernel), by decide +kernel⟩

/-- A round that has started or not, dropped or not, of an integer format, of one whose groups are summed, of F64. -/
theorem witness_MatrixEventResults :
    (∀ started : Bool, ∀ dropped : Bool, let e : MatEntry := { round with started := started, dropped := dropped, a := some ⟨⟨rootGang 0, 0⟩, [], [], [], some 0, false⟩, b := some ⟨⟨rootGang 0, 0⟩, [], [], [], some 0, false⟩ }
     let s := labSlot (th []) (some 0) .ready [e]
     (s.core 0).matQ = [e] ∧ e.behind = [] ∧ e.started = started ∧ e.dropped = dropped ∧ (tbGet (s.core 0).accs (e.op.sword.toNat / 2 ^ 16 % 8)).isSome = true ∧
      e.op.fword.toNat % 16 ≤ 1 ∧ e.op.fword.toNat / 256 % 16 = 0 ∧ e.op.fword.getLsbD 14 = false ∧ Lives s e.wg) ∧
    (∀ f ∈ [0x4102, 0x207], let o : OpSlot := ⟨⟨rootGang 0, 0⟩, [(0, 0x7F)], [], [0], some (f % 16), false⟩
     let e : MatEntry := { round with started := true, op := ⟨BitVec.ofNat 32 f, 0x10202, 0x100, 256⟩, a := some o, b := some o }
     let s := labSlot (th []) (some (f % 16)) .ready [e]
     (s.core 0).matQ = [e] ∧ (tbGet (s.core 0).accs 1).isSome = true ∧ 2 ≤ e.op.fword.toNat % 16 ∧ e.op.fword.toNat % 16 ≤ 7 ∧
      e.op.fword.toNat / 256 % 16 = (if e.op.fword.toNat % 16 = 7 then 2 else 1) ∧ Lives s e.wg) ∧
    ((labSlot (th []) none .ready [round]).core 0).hasWork 3 = true := by
  unfold Lives
  refine ⟨?_, by decide +kernel, by decide +kernel⟩
  intro a b; cases a <;> cases b <;> decide +kernel
/-- The small machine, or the machine at reset, with Nightjar ready and one record in a function's ring, its fields by offset and width (Table 17-1). -/
def labCmd (s : State) (fn op part : Nat) (fields : List (Nat × Nat × Nat)) : State :=
  ([(0, 8, 1), (8, 2, op), (10, 1, part)] ++ fields).foldl (fun (a : State) (f : Nat × Nat × Nat) => a.writeNat (keyHost fn (0x1000 + 64) + f.1) f.2.1 f.2.2)
    { s with ready := s.ready ||| BitVec.ofNat 128 (2 ^ 77), fns := [(fn, { Fn.reset with ringbase := 0x1000, ringlog := 4, cmdcell := 1 })] }

theorem rings_of {s : State} {fn op : Nat} {fs : List (Nat × Nat)} (h : s.fnTurn fn = true ∧ (s.nextCmd fn).seq = (s.fn fn).expected ∧ (s.nextCmd fn).op = op ∧
    (s.nextCmd fn).restZero fs = true ∧ (s.nextCmd fn).reserved = 0 ∧ (fn ≠ 0 → (s.nextCmd fn).part = 0)) : Rings s fn op fs (s.nextCmd fn) :=
  ⟨h.1, rfl, h.2.1, h.2.2.1, h.2.2.2.1, h.2.2.2.2.1, h.2.2.2.2.2⟩

/-- A CREATE of row 0 and port 0 by a header at 0x8000 of the host's memory, of 64 KiB. -/
def labCreate (s : State) (h : Header) (mode : Nat) (fields : List (Nat × Nat × Nat)) : State :=
  let s1 := labCmd s 0 1 0 ([(0x10, 4, 1), (0x16, 2, mode), (0x18, 8, 1), (0x20, 8, 0x8000), (0x28, 8, 65536)] ++ fields)
  [(0, 8, h.entry), (8, 8, h.params), (16, 8, h.handler), (32, 8, h.shape), (40, 4, h.e2), (44, 4, h.e3), (48, 4, h.e4), (52, 4, h.e5), (56, 8, h.control)].foldl
    (fun (a : State) (f : Nat × Nat × Nat) => a.writeNat (keyHost 0 0x8000 + f.1) f.2.1 f.2.2) { s1 with poolz := 1, ready := s1.ready ||| BitVec.ofNat 128 (2 ^ 4 + 2 ^ 36) }

/-- Every rung of the ladder; a CREATE that succeeds in each mode up to the last, of a wrong mode, without its resources, of a bad header, of a partition that exists; the other
commands on a partition that is there and one that is not, registers that are and are not, the last die and the one past it. -/
theorem witness_CommandResults :
    (lab (th [])).fnTurn 0 = false ∧ (∀ q ∈ [(4, 0), (4, 8), (0x0B, 0), (0x0B, 1)], let s := labCmd (lab (th [])) 0 q.1 q.2 []
      s.fnTurn 0 = true ∧ ((s.nextCmd 0).op = 4 ↔ q.1 = 4) ∧ (s.nextCmd 0).part = q.2) ∧
    (let s := labCmd (lab (th [])) 1 1 0 []
     s.fnTurn 1 = true ∧ (s.nextCmd 1).seq = (s.fn 1).expected ∧ (s.nextCmd 1).op = 1) ∧
    ((labCmd (lab (th [])) 0 4 0 [(0x20, 1, 1)]).nextCmd 0).restZero [(0x10, 8)] = false ∧ ((labCmd (lab (th [])) 0 4 0 [(11, 1, 1)]).nextCmd 0).reserved ≠ 0 ∧
    (∀ mode ∈ [0, 3, 4], ∀ h ∈ [labHeader, { labHeader with e2 := 2 }], let s := labCreate State.reset h mode []
     let r := s.nextCmd 0
     Rings s 0 1 [(0x10, 48)] r ∧ s.hasPart 0 = false ∧ s.parts.length < 16 ∧ r.part = 0 ∧ r.arg 0x16 2 = mode ∧ r.arg 0x28 8 = 65536 ∧
      s.claimReady ⟨r.arg 0x10 4, r.arg 0x14 2, r.arg 0x18 8⟩ = true ∧ s.claimTaken ⟨r.arg 0x10 4, r.arg 0x14 2, r.arg 0x18 8⟩ = false ∧
      (headerOf (s.hostRead 0 (r.arg 0x20 8) 64)).rootOk s.sliceLimit = decide (h.e2 = 1)) ∧
    (let s := labCmd State.reset 0 1 0 [(0x10, 4, 1), (0x18, 8, 1), (0x28, 8, 65536)]
     Rings s 0 1 [(0x10, 48)] (s.nextCmd 0) ∧ s.claimReady ⟨1, 0, 1⟩ = false) ∧
    (let s := labCreate { State.reset with parts := [(1, { Part.absent with rows := 1 })] } labHeader 0 []
     Rings s 0 1 [(0x10, 48)] (s.nextCmd 0) ∧ s.hasPart 0 = false ∧ s.claimReady ⟨1, 0, 1⟩ = true ∧ s.claimTaken ⟨1, 0, 1⟩ = true) ∧
    (let s := labCreate (lab (th [])) labHeader 0 []
     Rings s 0 1 [(0x10, 48)] (s.nextCmd 0) ∧ s.hasPart (s.nextCmd 0).part = true) ∧
    (let s := labCreate { State.reset with parts := (natsFrom 1 16).map fun p => (p, Part.absent) } labHeader 0 []
     Rings s 0 1 [(0x10, 48)] (s.nextCmd 0) ∧ s.hasPart 0 = false ∧ 16 ≤ s.parts.length) ∧
    (∀ op ∈ [2, 5, 6], ∀ p ∈ [0, 1], let s := labCmd (lab (th [])) 0 op p []
     Rings s 0 op [] (s.nextCmd 0) ∧ (s.nextCmd 0).part = p ∧ s.hasPart p = decide (p = 0) ∧ (s.part 0).suspended = false) ∧
    (let s := { labCmd (lab (th [])) 0 5 0 [] with gangs := [], parts := [(0, { Part.absent with suspended := true }), (1, Part.absent)] }
     (s.part 0).suspended = true ∧ (s.part 1).suspended = false ∧ s.gangs = [] ∧ Rings s 0 5 [] (s.nextCmd 0)) ∧
    (∀ fn ∈ [0, 1], ∀ n ∈ [1, 2, 4, 9], let s := labCmd (lab (th [])) fn 3 0 [(0x10, 8, n), (0x18, 4, 7)]
     let r := s.nextCmd fn
     Rings s fn 3 [(0x10, 8), (0x18, 16)] r ∧ r.arg 0x10 8 = n ∧ r.arg 0x18 16 = 7 ∧ (partReg n = none ↔ n = 9) ∧
      (∀ w setBy readBy, partReg n = some (w, setBy, readBy) → setBy.testBit (if fn = 0 then 0 else 1) = decide ((fn = 0 ∧ n ≤ 2) ∨ (fn = 1 ∧ n = 4))) ∧ (regValueOk n 7 = true ↔ n ≠ 9)) ∧
    (∀ fn ∈ [0, 1], ∀ n ∈ [1, 3, 4, 9], let s := labCmd (lab (th [])) fn 4 0 [(0x10, 8, n)]
     Rings s fn 4 [(0x10, 8)] (s.nextCmd fn) ∧ (s.nextCmd fn).arg 0x10 8 = n ∧ (s.fn fn).masked 0 = true ∧
      (∀ w setBy readBy, partReg n = some (w, setBy, readBy) → readBy.testBit (if fn = 0 then 0 else 1) = decide (n = 3 ∨ (fn = 0 ∧ n = 1) ∨ (fn = 1 ∧ n = 4)))) ∧
    (∀ d ∈ [0, 3, 4], let s := labCmd (lab (th [])) 0 7 0 [(0x10, 8, d)]
     Rings s 0 7 [(0x10, 8)] (s.nextCmd 0) ∧ (s.nextCmd 0).arg 0x10 8 = d ∧ (s.nextCmd 0).part = 0) ∧ 3 < 4 := by
  refine ⟨by decide +kernel, by decide +kernel, by decide +kernel, by decide +kernel, by decide +kernel, ?_, ⟨rings_of (by decide +kernel), by decide +kernel⟩,
    ⟨rings_of (by decide +kernel), by decide +kernel⟩, ⟨rings_of (by decide +kernel), by decide +kernel⟩, ⟨rings_of (by decide +kernel), by decide +kernel⟩, ?_,
    ⟨by decide +kernel, by decide +kernel, by decide +kernel, rings_of (by decide +kernel)⟩, ?_, ?_, ?_, by decide +kernel⟩
  · intro m hm h hh
    simp only [List.mem_cons, List.not_mem_nil, or_false] at hm hh
    rcases hm with rfl | rfl | rfl <;> rcases hh with rfl | rfl <;> exact ⟨rings_of (by decide +kernel), by decide +kernel⟩
  · intro o ho p hp
    simp only [List.mem_cons, List.not_mem_nil, or_false] at ho hp
    rcases ho with rfl | rfl | rfl <;> rcases hp with rfl | rfl <;> exact ⟨rings_of (by decide +kernel), by decide +kernel⟩
  · intro fn hf n hn
    simp only [List.mem_cons, List.not_mem_nil, or_false] at hf hn
    rcases hf with rfl | rfl <;> rcases hn with rfl | rfl | rfl | rfl <;>
      exact ⟨rings_of (by decide +kernel), by decide +kernel, by decide +kernel, by decide +kernel, (fun _ _ _ h => by simp only [partReg] at h; cases h <;> decide +kernel), by decide +kernel⟩
  · intro fn hf n hn
    simp only [List.mem_cons, List.not_mem_nil, or_false] at hf hn
    rcases hf with rfl | rfl <;> rcases hn with rfl | rfl | rfl | rfl <;>
      exact ⟨rings_of (by decide +kernel), by decide +kernel, by decide +kernel, (fun _ _ _ h => by simp only [partReg] at h; cases h <;> decide +kernel)⟩
  · intro d hd
    simp only [List.mem_cons, List.not_mem_nil, or_false] at hd
    rcases hd with rfl | rfl | rfl <;> exact ⟨rings_of (by decide +kernel), by decide +kernel⟩
/-- The small machine where launch 5 of a header waits, a die of it holding ranges. -/
def labWait (h : Header) (f : Launch → Launch) (rows : Nat) (d : Die) : State :=
  let s := lab (th [])
  { s with parts := [(0, { s.part 0 with rows := rows, launches := [(0, Launch.start labHeader 0 0), (5, f (Launch.start h 0 1))] })], dies := [(0, d)] }

/-- A cooperative launch; one whose gangs take two rows of two cores. -/
def coop : Header := { labHeader with control := labHeader.control + 2 ^ 41 }
def square : Header := { labHeader with shape := labHeader.shape + 2 * 2 ^ 52 }

/-- A die with a range of one gang. -/
def handedDie (redo : Bool) : Die := { Die.idle with handed := [⟨0, 5, [0], redo⟩] }

/-- The place in the queue of launch 5. -/
def x5 (h : Header) (f : Launch → Launch) (redo : Bool) : Queued := ⟨5, f (Launch.start h 0 1), redo⟩

/-- Nothing waits; a launch with room on the die, gangs of it given back, gangs discarded; room on another die only; a cooperative one. -/
theorem witness_GangEventResults_handout :
    (let s := labWait labHeader (fun l => { l with walk := 1 }) 1 Die.idle
     (∀ r ∈ (s.die 0).reserved, r.1 ≠ 0) ∧ (s.part 0).queue = [] ∧ ((s.part 0).lastHand = none)) ∧
    (∀ f ∈ [(fun l => l, false), (fun (l : Launch) => { l with walk := 1, again := [0] }, false), (fun (l : Launch) => { l with walk := 1, redo := [0] }, true)],
     let s := labWait labHeader f.1 1 Die.idle
     s.places 0 = true ∧ 0 ∈ s.diesOf 0 ∧ (s.part 0).lastHand = none ∧ (s.die 0).reserved = [] ∧ (s.part 0).queue = [] ++ x5 labHeader f.1 f.2 :: [] ∧
      s.resumeFirst 0 labHeader.prio = false ∧ s.logPage 0 5 = none ∧ (s.part 0).nextGangs (x5 labHeader f.1 f.2) = [0] ∧ labHeader.cooperative = false ∧
      s.reports 0 (firstGang 0 5 [0]) labHeader = true ∧ s.launch 0 5 = f.1 (Launch.start labHeader 0 1)) ∧
    (let s := labWait square (fun l => l) (1 + 2 ^ 8 + 2 ^ 9) Die.idle
     s.places 0 = true ∧ 0 ∈ s.diesOf 0 ∧ s.reports 0 (firstGang 0 5 [0]) square = false ∧ s.anyReports (firstGang 0 5 [0]) square = true) ∧
    (let s := labWait coop (fun l => l) 1 Die.idle
     (s.part 0).queue = [] ++ x5 coop (fun l => l) false :: [] ∧ coop.cooperative = true) := by
  refine ⟨by decide +kernel, ?_, by decide +kernel, by decide +kernel⟩
  intro f hf
  simp only [List.mem_cons, List.not_mem_nil, or_false] at hf
  rcases hf with rfl | rfl | rfl <;> decide +kernel

/-- A range: placed, of an ended launch, suspended, without room; discarded gangs and others. -/
theorem witness_GangEventResults_place :
    (∀ redo : Bool, let s := labWait labHeader (fun l => { l with walk := 1 }) 1 (handedDie redo)
     (s.die 0).handed = ⟨0, 5, [0], redo⟩ :: [] ∧ (s.launch 0 5).ending = none ∧ s.places 0 = true ∧ s.heldBack ⟨0, 5, [0], redo⟩ = false ∧ s.logPage 0 5 = none ∧
      s.chooseRect g5 (s.header g5) 0 = some 0 ∧ (s.header g5).valid s.sliceLimit = true ∧ (0 : Nat) < 4 ∧
      (labWait labHeader (fun l => { l with walk := 1 }) 0 (handedDie redo)).chooseRect g5 labHeader 0 = none) ∧
    ((labWait labHeader (fun l => { l with ending := some (4, 0x12, 0, 0) }) 1 (handedDie false)).launch 0 5).ending.isSome = true ∧
    (let s := labWait labHeader (fun l => { l with walk := 1 }) 1 (handedDie false)
     { s with parts := [(0, { s.part 0 with suspended := true })] }.places 0 = false) := by
  refine ⟨?_, by decide +kernel, by decide +kernel⟩
  intro r
  cases r <;> decide +kernel
/-- A gang of a launch whose gangs are all placed, one not PLACING; a root gang whose core has room for it, and one whose core is taken. -/
theorem witness_GangEventResults_placement :
    (g5.launch ≠ 0 ∧ ((labUser (th []) .placing).gang g5).state = .placing ∧ (labHeader.cooperative = true → False) ∧ ((labUser (th []) .running).gang g5).state ≠ .placing) ∧
    (let s := labUser (th []) .running
     let waits : State := { s with gangs := [(rootGang 0, { Gang.fresh with state := .placing })], wgs := [], warps := [] }
     ((rootGang 0).launch = 0 ∧ (waits.gang (rootGang 0)).state = .placing ∧ waits.coreFits 0 0 (waits.header (rootGang 0)) = true) ∧
      { waits with parts := [(0, { waits.part 0 with rows := 2 })] }.coreFits 0 0 (waits.header (rootGang 0)) = false) := by
  refine ⟨by decide +kernel, by decide +kernel, by decide +kernel⟩

/-- Lanes that have ended, one that still runs; a gang that retires with an access, a store on its way to its scratch, and without. -/
theorem witness_GangEventResults_retire :
    (∀ w ∈ [Wait.exited, .exitWait, .ready], ∀ st ∈ [GangState.running, .retiring], let s := labUser { th [] with wait := w } st
     g5.launch ≠ 0 ∧ (s.gang g5).state = st ∧ (s.warps.map Prod.fst).Nodup ∧ (∀ v ∈ s.warps, (v.2.lanes.map Prod.fst).Nodup) ∧ s.threadsOf g5 = [⟨wp5, 0⟩] ∧
      (s.thread ⟨wp5, 0⟩).wait = w ∧ s.gangQuiet g5 = true) ∧
    (let s := labUser { th [] with wait := .exited } .retiring
     (∀ w ∈ s.warps, ∀ l ∈ w.2.lanes, l.2.stores = []) ∧ { s with cores := [(1, { Core.idle with tracker := [(0, ⟨g5, [⟨wp5, 0⟩]⟩)] })] }.gangQuiet g5 = false) := by
  refine ⟨?_, by decide +kernel, by decide +kernel⟩
  intro w hw st hs
  simp only [List.mem_cons, List.not_mem_nil, or_false] at hw hs
  rcases hw with rfl | rfl | rfl <;> rcases hs with rfl | rfl <;> decide +kernel

/-- A lane stopped at its YIELD, one blocked, one that runs, one inside an atomic that no gate holds. -/
theorem witness_GangEventResults_drain :
    (∀ w ∈ [Wait.drained 8, .exited, .ready, .atomic 7 5 false [0] 8], let s := labUser { th [] with wait := w } .draining
     (s.gang g5).state = .draining ∧ s.threadsOf g5 = [⟨wp5, 0⟩] ∧ (s.thread ⟨wp5, 0⟩).wait = w ∧ s.heldLog ⟨wp5, 0⟩ = false ∧ s.heldFull ⟨wp5, 0⟩ = false ∧
      s.atGate ⟨wp5, 0⟩ = false) ∧
    ((labUser (th []) .running).gang g5).state ≠ .draining := by
  refine ⟨?_, by decide +kernel⟩
  intro w hw
  simp only [List.mem_cons, List.not_mem_nil, or_false] at hw
  rcases hw with rfl | rfl | rfl | rfl <;> decide +kernel
/-- A gang whose save can end, beside a lane whose CTXSAVE waits for it; one with an access on its way. -/
def labSave : State :=
  let s := labUser { th [] with wait := .exitWait } .saving
  { s with warps := s.warps ++ [(wp, { Warp.absent with lanes := [(0, { th [] with ctx := some (g5, none) })] })] }

/-- What SAVING gives: frames of the partition's HBM, room in the slice; quiet and not. -/
theorem witness_GangEventResults_save :
    (let s := labSave
     let s1 := s.rollbackGang g5
     (s.gang g5).state = .saving ∧ s1.gangQuiet g5 = true ∧ s1.gangLanded g5 = true ∧ s1.scratchQuiet g5 = true ∧ s.wgsOf g5 = [⟨g5, 0⟩] ∧ s1.wgsOf g5 = [⟨g5, 0⟩] ∧
      (s1.imagePlaces g5 [⟨g5, 0⟩]).isSome = true ∧ (∀ m ∈ ((s1.imagePlaces g5 [⟨g5, 0⟩]).map Prod.snd).getD [], m.1 = ⟨g5, 0⟩ ∧ 65536 ≤ m.2.2 ∧ m.2.1 + m.2.2 ≤ 9000000000) ∧
      (s.wg ⟨g5, 0⟩).core < 256 ∧ (s.wg ⟨g5, 0⟩).base + ((s.header g5).scratch + 65535) / 65536 * 65536 ≤ 16777216 ∧ (s.part 0).ports = 1 ∧
      (s.thread ⟨wp, 0⟩).ctx = some (g5, none) ∧ (⟨wp, 0⟩ : ThreadId).gang ≠ g5) ∧
    ({ labSave with coreQ := [{ acc false none with gang := g5 }] }.rollbackGang g5).gangLanded g5 = false ∧
    ((labUser (th []) .running).gang g5).state ≠ .saving := by
  refine ⟨by decide +kernel, by decide +kernel, by decide +kernel⟩

/-- Every byte of one port is a byte of its partition's HBM. -/
theorem witness_GangEventResults_save_key (q : Nat) (h : q < 9000000000) : (hbmKey 1 q).isSome = true := by
  have hp : portsOn 1 0 = [0] := by decide +kernel
  have h1 : ¬17592186044416 ≤ q := by omega
  have h2 : q / 4398046511104 % 4 = 0 := by omega
  have h3 : q % 4398046511104 = q := by omega
  have h4 : ¬9000000000 ≤ q := by omega
  simp [hbmKey, h1, h2, h3, hp, Config.portBytes, h4, Nat.mod_one]

/-- A saved gang with a rectangle, without one, held by software. -/
theorem witness_GangEventResults_resume :
    (let s0 := labUser { th [] with wait := .drained 8 } .saved
     let s := { s0 with wgs := [(⟨rootGang 0, 0⟩, ⟨0, 0, 0, 0, [], ⟨0, [], []⟩⟩), (⟨g5, 0⟩, ⟨0, 0, 131072, 65536, [], ⟨0, [], []⟩⟩)] }
     (s.gang g5).state = .saved ∧ s.lostImage g5 = false ∧ s.mayResume g5 = true ∧ s.imageQuiet g5 = true ∧ (s.header g5).cooperative = false ∧ s.resumeRect g5 = some 0 ∧
      s.imageDead g5 = false ∧ (s.header g5).valid s.sliceLimit = true ∧ (s.header g5).e1 = 1 ∧
      { s with parts := [(0, { s.part 0 with rows := 0 })] }.resumeRect g5 = none ∧
      { s with gangs := [(g5, { s.gang g5 with held := true })] }.mayResume g5 = false) ∧
    (let s := labUser { th [] with wait := .drained 8 } .resuming
     (s.gang g5).state = .resuming ∧ (s.header g5).cooperative = false ∧ (s.gang g5).flush = [] ∧ s.deltas = [] ∧ (s.thread ⟨wp5, 0⟩).wait = .drained 8 ∧ s.canRestore g5 = true ∧
      let s1 := { s with gangs := [(g5, { s.gang g5 with flush := [4] })], deltas := [⟨4, 0, 2, 8, 0, 9, false, [], 0⟩] }
      ∃ d ∈ s1.deltas, d.id ∈ (s1.gang g5).flush) ∧
    (let s := labUser (th []) .resuming
     let kept : Core := { Core.idle with slots := [(3, ⟨⟨g5, 0⟩, [], [], [], none, false⟩)] }
     { s with gangs := [(g5, { s.gang g5 with cores := [(0, kept)] })], cores := [(1, { Core.idle with slots := [(3, ⟨⟨rootGang 0, 0⟩, [], [], [], none, false⟩)] })] }.canRestore g5 = false) := by
  refine ⟨by decide +kernel, by decide +kernel, by decide +kernel⟩
/-- A launch of a priority with the whole of a slice for its scratch. -/
def wholeSlice (prio : Nat) : Header := { labHeader with control := 16384 + prio * 2 ^ 27 }

/-- A victim of priority 0 on core 1, a core of which is kept for another gang; a launch of a priority that waits, since 1,024 clk or one less, with a budget. -/
def labPreempt (prio budget now : Nat) (clean : Bool) : State :=
  let s := labUser (th []) .running
  { s with
      clk := now
      gangs := [(rootGang 0, { Gang.fresh with state := .running }), (g5, { Gang.fresh with state := .running, topCore := 1, clean := clean })]
      parts := [(0, { s.part 0 with
        regs := [(1, budget + 2 ^ 40)]
        starved := some (⟨0, 6, 0⟩, 0)
        launches := [(0, Launch.start labHeader 0 0), (5, { Launch.start (wholeSlice 0) 0 1 with walk := 1 }), (6, Launch.start (wholeSlice prio) 0 2)] })]
      dies := [(0, { Die.idle with reserved := [(0, [0, 2, 3, 4, 5, 6, 7], ⟨0, 9, 0⟩)] })] }

/-- The victim one priority below, with a budget that saving meets and one that nothing meets, clean and not. -/
theorem witness_PreemptionResults :
    (∀ budget ∈ [1, 1000000], ∀ clean : Bool, let s := labPreempt 1 budget 1024 clean
     let w : Waiting := ⟨⟨0, 6, 0⟩, wholeSlice 1⟩
     s.headGang 0 = some w ∧ s.chooseVictims w = some 1 ∧ w.gang.part = 0 ∧ s.places 0 = true ∧ (s.part 0).starved = some (w.gang, 0) ∧ 0 + 1024 ≤ s.clk ∧ s.isReserved w.gang = false ∧ s.noRect w = true ∧
      s.victims (rectCores w.hdr.gshape 1) = [g5] ∧ (s.header g5).cooperative = false ∧ (s.part 0).reg 1 % 2 ^ 32 = budget) ∧
    (labPreempt 1 0 1024 true).headGang 0 = some ⟨⟨0, 6, 0⟩, wholeSlice 1⟩ ∧ ((labPreempt 1 0 1024 true).part 0).reg 1 % 2 ^ 32 = 0 ∧ (labPreempt 1 1 1023 true).clk < 0 + 1024 ∧
    (labPreempt 0 1 1024 true).chooseVictims ⟨⟨0, 6, 0⟩, wholeSlice 0⟩ = none ∧ (lab (th [])).headGang 0 = none := by
  refine ⟨?_, by decide +kernel, by decide +kernel, by decide +kernel, by decide +kernel, by decide +kernel⟩
  intro b hb c
  simp only [List.mem_cons, List.not_mem_nil, or_false] at hb
  rcases hb with rfl | rfl <;> cases c <;> decide +kernel
/-- Launch 5 of two gangs, in a partition of a mode, with these gangs. -/
def labLaunched (mode : Nat) (h : Header) (f : Launch → Launch) (gs : List (Nat × Gang)) : State :=
  let s := labMap (th []) (4 * 2 ^ 60 + 0x3F0)
  { s with
      gangs := (rootGang 0, { Gang.fresh with state := .running }) :: gs.map fun g => (⟨0, 5, g.1⟩, g.2)
      parts := [(0, { s.part 0 with mode := mode, launches := [(0, Launch.start labHeader 0 0), (5, f { Launch.start h 0 1 with walk := 2 })] })] }

/-- A header of two gangs. -/
def two : Header := { labHeader with shape := labHeader.shape + 2 ^ 12, e2 := 2 }

/-- A RETIRED gang with a private byte. -/
def retired (stored : List Nat) : Gang := { Gang.fresh with state := .retired, stored := stored, view := [(64, ⟨9, false⟩)] }

/-- An access a gate holds. -/
def gated (gang id : Nat) : Access := { acc true none with id := id, gang := ⟨0, 5, gang⟩, src := .thread ⟨⟨⟨⟨0, 5, gang⟩, 0⟩, 0⟩, 0⟩, op := .atom 0 0 1 false true, va := 64, key := keySram 0 64 }

/-- A merge due and not, with and without a conflict. -/
theorem witness_LaunchEventResults_merge :
    (let s := labLaunched 1 two (fun l => l) [(0, retired [64]), (1, retired [])]
     (s.part 0).mode = 1 ∧ s.allRetired 0 5 = true ∧ (s.launch 0 5).ending = none ∧ (s.launch 0 5).merged = false ∧ s.byRank 0 5 = [0, 1] ∧ (s.gang ⟨0, 5, 1⟩).stored = [] ∧
      (s.gang ⟨0, 5, 1⟩).atoms = [] ∧ (s.gang ⟨0, 5, 0⟩).atoms = [] ∧ (s.gang ⟨0, 5, 0⟩).stored = [64] ∧ s.settling 0 (64 - 64 % 8) = false ∧ (s.sharedKey 0 64).isSome = true) ∧
    (let s := labLaunched 1 two (fun l => l) [(0, retired [64]), (1, retired [64])]
     s.allRetired 0 5 = true ∧ s.byRank 0 5 = [0, 1] ∧ (0 : Nat) ≠ 1 ∧ 64 ∈ (s.gang ⟨0, 5, 0⟩).stored ∧ 64 ∈ (s.gang ⟨0, 5, 1⟩).stored) ∧
    (labLaunched 0 two (fun l => l) [(0, retired [64])]).allRetired 0 5 = true ∧ ((labLaunched 0 two (fun l => l) []).part 0).mode ≠ 1 := by
  refine ⟨by decide +kernel, by decide +kernel, by decide +kernel, by decide +kernel⟩

/-- An end with its record, with its arrival at the home the launch was accepted with and at another, with neither, with another status; none due. -/
theorem witness_LaunchEventResults_end :
    (∀ f ∈ [fun (l : Launch) => { l with status := 64 }, fun l => { l with hdr := { two with donebar := 64 }, doneKey := keySram 0 64 }, fun l => { l with hdr := { two with donebar := 64 } },
        fun l => l, fun l => { l with status := 64, ending := some (4, 0x12, 0, 1) }, fun l => { l with status := 64, divergent := [1] }],
     let s0 := labLaunched 0 two f [(0, retired []), (1, retired [])]
     let s := { s0 with tags := ((s0.sharedKey 0 64).toList) }
     s.allRetired 0 5 = true ∧ (s.launch 0 5).chunks = [] ∧ (s.launch 0 5).versions = [] ∧ (s.part 0).held = [] ∧
      ∃ leaf key, s.devTarget 0 64 = .ready leaf key ∧ isRemote key = false ∧ Apart leaf.place 8 key 16 ∧ pteKind leaf.entry = 4 ∧ s.tagged key = true) ∧
    (labLaunched 0 two (fun l => l) [(0, { Gang.fresh with state := .running })]).allRetired 0 5 = false ∧
    (let s := labLaunched 0 two (fun l => { l with hdr := { two with donebar := 64 }, doneKey := keySram 0 64 }) []
     (s.launch 0 5).doneKey = keySram 0 64 ∧ keySram 0 64 ≠ 0) := by
  refine ⟨?_, by decide +kernel, by decide +kernel⟩
  intro f hf
  simp only [List.mem_cons, List.not_mem_nil, or_false] at hf
  unfold Apart
  rcases hf with rfl | rfl | rfl | rfl | rfl | rfl <;>
    exact ⟨by decide +kernel, by decide +kernel, by decide +kernel, by decide +kernel, ⟨2 ^ 40 + 262144, 4 * 2 ^ 60 + 0x3F0, 65536⟩, keySram 0 64, by decide +kernel, by decide +kernel,
      by decide +kernel, by decide +kernel, by decide +kernel⟩
/-- A fault of each kind and fate: of a gang that runs, of a root gang, of one that is gone, of a launch that has ended. -/
theorem witness_LaunchEventResults_fault :
    (∀ f ∈ [fun (l : Launch) => l, fun l => { l with relaunches := [(0, 2)] }, fun l => { l with relaunches := [(0, 2)], replays := 2 }], ∀ contained : Bool,
     let s := labLaunched 0 { two with control := two.control + if contained then 2 ^ 40 else 0 } f [(0, { Gang.fresh with state := .running })]
     (s.gang ⟨0, 5, 0⟩).state.resident = true ∧ (s.launch 0 5).ending = none ∧ (s.header ⟨0, 5, 0⟩).contained = contained ∧ (s.gang ⟨0, 5, 0⟩).clean = true ∧
      (s.header ⟨0, 5, 0⟩).cooperative = false) ∧
    (let s := labLaunched 0 two (fun l => { l with ending := some (4, 0x12, 0, 1) }) [(0, { Gang.fresh with state := .running }), (1, retired [])]
     (s.gang ⟨0, 5, 0⟩).state.resident = true ∧ (s.launch 0 5).ending ≠ none ∧ (s.gang ⟨0, 5, 1⟩).state.resident = false ∧ (s.gang ⟨0, 5, 1⟩).state ≠ .saved) ∧
    ((rootGang 0).launch = 0 ∧ (0x17 : Byte).toNat = 0x17 ∧ (0x1B : Byte).toNat = 0x1B ∧ (0x12 : Byte).toNat ≠ 0x17) := by
  refine ⟨?_, by decide +kernel, by decide +kernel⟩
  intro f hf c
  simp only [List.mem_cons, List.not_mem_nil, or_false] at hf
  rcases hf with rfl | rfl | rfl <;> cases c <;> decide +kernel

/-- A gate past its time whose list names a gang that waits, and before it. -/
theorem witness_LaunchEventResults_gate :
    (let s0 := labLaunched 3 two (fun l => { l with lists := [(64, [(1, 1)])] }) [(0, { Gang.fresh with state := .running }), (1, { Gang.fresh with state := .queued })]
     let s (now rows : Nat) : State := { s0 with clk := now, gateQ := [gated 0 7], parts := [(0, { s0.part 0 with rows := rows })] }
     (s 65536 0).gateQ.find? (fun a => a.id == 7) = some (gated 0 7) ∧ (s 65536 0).gateQ.find? (fun a => a.id == 8) = none ∧
      (tbGet ((s 65536 0).launch 0 5).lists (64 - 64 % 8)).getD [] = [(1, 1)] ∧ (gated 0 7).heldSince + 65536 ≤ (s 65536 0).clk ∧
      ((s 65536 0).gang ⟨0, 5, 1⟩).state = .queued ∧ ((s 65536 0).launch 0 5).ending = none ∧ (s 65536 0).dies = [] ∧
      (s 65536 0).noRect ⟨⟨0, 5, 1⟩, (s 65536 0).header ⟨0, 5, 1⟩⟩ = true ∧ ((s 65536 0).gang ⟨0, 5, 0⟩).state = .running ∧
      (s 65536 0).gateQ.filter (fun b => b.gang.part == 0 && b.gang.launch == 5) = gated 0 7 :: [] ∧ ¬(gated 0 7).heldSince + 65536 ≤ (s 65535 0).clk ∧
      (s 65536 1).noRect ⟨⟨0, 5, 1⟩, (s 65536 1).header ⟨0, 5, 1⟩⟩ = false) := by decide +kernel

/-- A launch whose lanes all wait, its oldest held access admitted; one with nothing held. -/
theorem witness_LaunchEventResults_stuck :
    (let s0 := labLaunched 3 two (fun l => { l with lists := [(64, [(1, 1)])] }) [(0, { Gang.fresh with state := .running }), (1, { Gang.fresh with state := .retired })]
     let s : State := { s0 with gateQ := [gated 0 7], warps := [(⟨⟨⟨0, 5, 0⟩, 0⟩, 0⟩, { Warp.absent with lanes := [(0, { th [] with wait := .atomic 7 5 false [0] 8 })] })] }
     s.gateQ.filter (fun b => b.gang.part == 0 && b.gang.launch == 5) = gated 0 7 :: [] ∧ s0.gateQ = [] ∧ (s.part 0).mode = 3 ∧ s.nonePlacing 0 5 = true ∧
      s.gangsOf 0 5 = [⟨0, 5, 0⟩, ⟨0, 5, 1⟩] ∧ (s.gang ⟨0, 5, 1⟩).state.resident = false ∧ s.threadsOf ⟨0, 5, 0⟩ = [⟨⟨⟨⟨0, 5, 0⟩, 0⟩, 0⟩, 0⟩] ∧
      s.laneStuck ⟨⟨⟨⟨0, 5, 0⟩, 0⟩, 0⟩, 0⟩ = true ∧ (s.part 0).logCount = 0 ∧ (gated 0 7).snap = false ∧ isRemote (gated 0 7).key = false ∧
      (gated 0 7).op = .atom 0 0 1 false true ∧ (gated 0 7).size = 4) := by decide +kernel

/-- A range the distributor acts on, one it does not; a discarded one of a launch and another; a gang that drains and whose launch has ended; engines that stand for a save and that do not; a launch whose record LAUNCH has stored, and one whose store is on its way. -/
theorem witness_GangEventResults_order :
    (let s := labWait labHeader (fun l => { l with walk := 1 }) 1 (handedDie true)
     Acts s ⟨0, 5, [0], true⟩ ∧ ¬Acts { s with parts := [(0, { s.part 0 with suspended := true })] } ⟨0, 5, [0], true⟩ ∧ Ahead s ⟨0, 5, [0], true⟩ ⟨0, 5, [1], false⟩ ∧
      ¬Ahead s ⟨0, 5, [0], true⟩ ⟨0, 5, [1], true⟩) ∧
    (let s0 := labUser { th [] with wait := .exited } .draining
     let s : State := { s0 with parts := [(0, { s0.part 0 with launches := [(0, Launch.start labHeader 0 0), (5, { Launch.start labHeader 0 1 with walk := 1, ending := some (4, 0x12, 0, 0) })] })] }
     (s.gang g5).state = .draining ∧ (s.launch 0 5).ending.isSome = true ∧ s.gangQuiet g5 = true) ∧
    (labSave.rollbackGang g5).enginesStand g5 = true ∧
    (∀ id ∈ [7, 8], let s := { labLaunched 0 two (fun l => { l with status := 64, recordId := some 7 }) [(0, retired []), (1, retired [])] with dieQ := [{ acc false none with id := id }] }
     s.allRetired 0 5 = true ∧ (s.launch 0 5).recordId = some 7 ∧ ((∃ a ∈ s.inFlight, a.id = 7) ↔ id = 7)) := by
  unfold Acts Ahead
  refine ⟨by decide +kernel, by decide +kernel, by decide +kernel, ?_⟩
  intro id hi
  simp only [List.mem_cons, List.not_mem_nil, or_false] at hi
  rcases hi with rfl | rfl <;> decide +kernel
/-- A device whose package has power since clk 0, on its way through Table 18-4. -/
def powered (now : Nat) : State := { State.reset with power := true, risen := [(128, 0)], clk := now }

/-- Nightjar's own start at its bound and one clk past it; a function before what it waits for, and after; no power; the cap's ends; a failed function of each kind. -/
theorem witness_PowerEventResults :
    (Starts (powered 315000000) 77 0 ∧ (∀ b, boundOf 77 = some b → (powered 315000000).clk - 0 ≤ b) ∧ ¬(∀ b, boundOf 77 = some b → (powered 315000001).clk - 0 ≤ b)) ∧
    (Starts { powered 9 with ready := BitVec.ofNat 128 (2 ^ 77), risen := [(77, 9)] } 0 9 ∧ boundOf 0 = some 1575000000) ∧
    (∀ t, ¬Starts (powered 9) 0 t) ∧ (∀ t, ¬Starts State.reset 77 t) ∧
    (∀ bit ∈ [0, 3, 4, 35, 36, 47, 48, 127], ({ powered 9 with ready := BitVec.ofNat 128 (2 ^ 128 - 1) } : State).ready.getLsbD bit = true) ∧ State.reset.ready.getLsbD 0 = false ∧
    (1200 ≤ (1200 : Word).toNat ∧ (3400 : Word).toNat ≤ 3400 ∧ ¬1200 ≤ (1199 : Word).toNat) := by
  refine ⟨⟨⟨rfl, by decide +kernel, by decide +kernel, by decide +kernel, by decide +kernel, rfl, .inl (by decide +kernel)⟩, ?_, ?_⟩,
    ⟨⟨rfl, by decide +kernel, by decide +kernel, by decide +kernel, by decide +kernel, rfl, .inr (by decide +kernel)⟩, by decide +kernel⟩, ?_, ?_, by decide +kernel, by decide +kernel, by decide +kernel⟩
  · intro b hb
    have : boundOf 77 = some 315000000 := by decide +kernel
    rw [this] at hb
    cases hb
    decide +kernel
  · intro h
    exact absurd (h 315000000 (by decide +kernel)) (by decide +kernel)
  · rintro t ⟨-, -, -, -, -, h, -⟩
    rw [show tbGet (powered 9).risen (waitsFor 0) = none by decide +kernel] at h
    exact nomatch h
  · rintro t ⟨h, -⟩
    exact absurd h (by decide +kernel)

/-- A request of device 1 for partition 0, in sequence. -/
def ask (op : PeerOp) (len : Nat) : PeerRequest := { device := 1, lane := 0, seq := 0, part := 2, target := 0, pa := 0, len := len, op := op }

/-- The small machine that grants device 1's partition 2 its memory, or not. -/
def labGrant (g : Bool) : State := { lab (th []) with parts := [(0, { (lab (th [])).part 0 with regs := if g then [(0x47, 2 ^ 24 + 2 ^ 16 + 2 * 2 ^ 8)] else [] })] }

/-- Bytes of a page that wait for the host's DMA, under a budget and without a limit; the grant of a millisecond due and not; a link in use and the one past the last; a peer silent and not; the last
route and one past it; requests: the device's own, out of sequence, not granted, not backed, a read, a write, an atomic. -/
theorem witness_LinkEventResults :
    (∀ share ∈ [3, 0xFFFFFFFF], let s0 := labSettle (7 * 2 ^ 60) (settle .migrate none none) 4
     let x : Slice := ⟨.page 0, 0, 65537, 5⟩
     let s := { s0 with parts := [(0, { s0.part 0 with budget := 1, slices := [x], grant := share })] }
     s.nextSlice 0 = some (0, x) ∧ x.owner = .page 0 ∧ (s.part 0).grant = share ∧ s.nextSlice 1 = none) ∧
    ((1 : Nat) * 1050000 ≤ ({ lab (th []) with clk := 1050000 } : State).clk ∧ ({ lab (th []) with clk := 1049999 } : State).clk < (0 + 1) * 1050000) ∧
    ({ lab (th []) with ready := BitVec.ofNat 128 (2 ^ 71) } : State).ready.getLsbD (48 + 23) = true ∧ 24 ≤ 24 ∧ (lab (th [])).ready.getLsbD 48 = false ∧
    (let s : State := { lab (th []) with clk := 1050000000, dieQ := [{ acc true none with key := keyPeer 1 8 }] }
     ∃ a, (a ∈ s.coreQ ∨ a ∈ s.dieQ) ∧ 2 ^ 80 ≤ a.key ∧ (a.key - 2 ^ 80) / 2 ^ 64 = 1 ∧ a.heldSince + 1050000000 ≤ s.clk) ∧
    (255 < 256 ∧ 256 ≤ 256) ∧ (ask .read 4).device ≠ (lab (th [])).devid ∧ ({ lab (th []) with devid := 1 } : State).devid = (ask .read 4).device ∧
    (tbGet (lab (th [])).peerSeq (1, 0)).getD 0 = (ask .read 4).seq ∧ ({ ask .read 4 with seq := 1 } : PeerRequest).seq ≠ (tbGet (lab (th [])).peerSeq (1, 0)).getD 0 ∧
    (∀ g : Bool, (labGrant g).hasPart 0 = true ∧ ((∃ k < 8, let v := smGet 0 ((labGrant g).part 0).regs (0x40 + k); v.testBit 24 = true ∧ v / 2 ^ 16 % 256 = 1 ∧ v / 2 ^ 8 % 16 = 2) ↔ g = true)) ∧
    (∀ k ∈ (natsFrom 0 8).map (hbmKey 1), k ≠ none) ∧ ((natsFrom 0 8).map (hbmKey 1)).Nodup ∧ hbmKey 1 (2 ^ 42) = none ∧
    (∀ up : Bool, let s : State := { lab (th []) with ready := if up then BitVec.ofNat 128 (2 ^ 75) else 0 }
     (∃ k, 48 ≤ k ∧ k < 76 ∧ s.ready.getLsbD k = true) ↔ up = true) ∧
    ((ask (.write [1, 2, 3, 4]) 4).op = .write [1, 2, 3, 4] ∧ (ask (.atom 6 3 (2 ^ 64 - 1)) 8).op = .atom 6 3 (2 ^ 64 - 1) ∧ 2 ^ 64 - 1 < 2 ^ (8 * 8)) := by
  refine ⟨?_, by decide +kernel, by decide +kernel, by decide +kernel, by decide +kernel, ⟨{ acc true none with key := keyPeer 1 8 }, by decide +kernel⟩, by decide +kernel, by decide +kernel, by decide +kernel,
    by decide +kernel, by decide +kernel, ?_, by decide +kernel, by decide +kernel, by decide +kernel, ?_, by decide +kernel⟩
  · intro n hn
    simp only [List.mem_cons, List.not_mem_nil, or_false] at hn
    rcases hn with rfl | rfl <;> decide +kernel
  · intro g; cases g <;> decide +kernel
  · intro up
    cases up
    · refine ⟨?_, fun h => nomatch h⟩
      rintro ⟨k, -, -, h⟩
      simp at h
    · exact ⟨fun _ => rfl, fun _ => ⟨75, by decide +kernel⟩⟩

/-- The first and the last byte of each range of registers; functions that are there and are not, at liberty or locked, with and without entries of the host. -/
theorem witness_BarWriteResults :
    hears (lab (th [])) 1 ∧ ¬hears { lab (th []) with fns := [(1, { Fn.reset with tdisp := .locked })] } 1 ∧ hears { lab (th []) with fns := [(1, { Fn.reset with tdisp := .locked, ideKey := true })] } 1 ∧
    there (lab (th [])) 0 ∧ there (lab (th [])) 1 ∧ ¬there (lab (th [])) 2 ∧ ¬there (lab (th [])) 17 ∧ ((lab (th [])).fn 1).tdisp = .unlocked ∧ ((lab (th [])).fn 1).fqbaseNext = none ∧
    ((lab (th [])).fn 1).fqlogNext = none ∧ ((lab (th [])).part 0).hostEntries = [] ∧ ({ lab (th []) with fns := [(1, { Fn.reset with tdisp := .locked })] }.fn 1).tdisp ≠ .unlocked ∧
    State.reset.parts = [] ∧ (lab (th [])).parts ≠ [] ∧ (0x3000 ≤ 0x37F8 ∧ 0x37F8 < 0x3800 ∧ 0x37F8 % 8 = 0 ∧ 0x3000 % 4 = 0) ∧ 0x4000 % 32 = 0 ∧ 0x5FE4 % 32 = 4 ∧ 0x5FE8 % 32 = 8 ∧ 0x5FF0 % 32 = 16 := by
  unfold hears there
  decide +kernel

/-- A responder in each state; a function in a session whose interface is in each state; none without Nightjar. -/
theorem witness_SecurityEventResults :
    (∀ n ∈ [0, 1, 2, 3, 4, 5], ∀ d ∈ [Tdisp.unlocked, .locked, .run, .error],
      let s : State := { lab (th []) with ready := BitVec.ofNat 128 (2 ^ 77), fns := [(1, { Fn.reset with spdm := n, tdisp := d })] }
      s.ready.getLsbD 77 = true ∧ there s 1 ∧ (s.fn 1).spdm = n ∧ (s.fn 1).tdisp = d) ∧
    (lab (th [])).ready.getLsbD 77 = false := by
  unfold there
  refine ⟨?_, by decide +kernel⟩
  intro n hn d hd
  simp only [List.mem_cons, List.not_mem_nil, or_false] at hn hd
  rcases hn with rfl | rfl | rfl | rfl | rfl | rfl <;> rcases hd with rfl | rfl | rfl | rfl <;> decide +kernel
theorem witness_StepKeepsMemoryCanonical : ∃ s s' : State, s.mem ≠ [] ∧ Memory.wf s.mem = true ∧ step s = .next s' :=
  ⟨labBar, _, by decide +kernel, by decide +kernel, rfl⟩

theorem witness_DecodeReadsBackEncode : (Instr.iadd x0).wf = true ∧ Instr.exitBase.wf = true ∧ (Instr.addi 5 0 (some 4)).wf = true := by decide +kernel

/-- The small machine whose first code page holds these words, a thread of a gang in a group, its warp to move next. -/
def labCode (s : State) (w : WarpId) (t : Thread) (g : Option Issue) (ws : List Word) : State :=
  ((natsFrom 0 ws.length).zip ws).foldl (fun a c => a.writeNat (2 ^ 40 + 4 * c.1) 4 c.2.toNat)
    { s with
        warps := [(w, { Warp.absent with lanes := [(0, t)], cur := g })], turns := [⟨0, .warp w, []⟩]
        cores := (natsFrom 0 2).map fun c => (c, { Core.idle with tlb := [⟨0, 0x100000000, 65536, entry 2 0, true⟩], walkTlb := [⟨0, 0x100000000, 65536, entry 2 0, true⟩] }) }

/-- The state at the warp's turn, and after its fetch. -/
def atTurn (s : State) (w : WarpId) : State := ({ s with turns := [] } : State).noteTurn w
def fetched (s : State) (w : WarpId) (n : Nat) : State :=
  let s1 := ((atTurn s w).fetch ⟨w, 0⟩ 0x100000000).1
  (s1.takeSlices w.gang.part (s1.fetchSlices ⟨w, 0⟩ 0x100000000 n)).1

theorem turn_of {s : State} {w : WarpId} (h : s.turns = [⟨0, .warp w, []⟩] ∧ (({ s with turns := [] } : State).outOfTurn w = false) ∧ (atTurn s w).issues w.gang = true ∧
    ((atTurn s w).launch w.gang.part w.gang.launch).ending = none) : WarpTurn s w (atTurn s w) := ⟨⟨0, [], [], h.1, h.2.1, rfl⟩, h.2.2.1, h.2.2.2⟩

theorem fetches_of {s : State} {w : WarpId} {g : Issue} {ws : List Word} (h : ((atTurn s w).warp w).cur = some g ∧ g.phase = .run ∧ g.overrun = none ∧ g.held = none ∧ g.lanes = [0] ∧
    g.pc = 0x100000000 ∧ ((atTurn s w).fetch ⟨w, 0⟩ 0x100000000).2 = .words ws ∧ (let s1 := ((atTurn s w).fetch ⟨w, 0⟩ 0x100000000).1
      (s1.takeSlices w.gang.part (s1.fetchSlices ⟨w, 0⟩ 0x100000000 ws.length)).2 = true)) : GroupFetches (atTurn s w) w g ws (fetched s w ws.length) := by
  obtain ⟨h1, h2, h3, h4, h5, h6, h7, h8⟩ := h
  refine ⟨h1, h2, h3, h4, ((atTurn s w).fetch ⟨w, 0⟩ 0x100000000).1, ?_, ?_⟩
  · rw [h5, h6]; exact Prod.ext rfl h7
  · rw [h5, h6]; exact Prod.ext rfl h8

/-- A span instruction at the start of its span, as its 24th and before a 25th; a boundary instruction alone and behind others; the same behind the seal, kept since it was decoded. -/
theorem witness_StepRunsDecodedInstruction :
    ∀ i ∈ [Instr.iadd x0, .exitBase], ∀ n ∈ [0, 23, 24], let g := { grp with count := n }
     let ws := encodeWords i
     let s := labCode (lab (th [])) wp (th []) (some g) ws
     let k := { g with held := some i, phase := .sealed }
     let r := labCode (lab (th [])) wp (th []) (some k) ws
     (WarpTurn s wp (atTurn s wp) ∧ GroupHas (atTurn s wp) wp g (fetched s wp ws.length) i ∧ behindSeal (fetched s wp ws.length) wp g i ∧
      (fetched s wp ws.length |>.warp wp).scoreboard g i = false ∧ (fetched s wp ws.length).nancBusy wp i = false) ∧
     (WarpTurn r wp (atTurn r wp) ∧ GroupHas (atTurn r wp) wp k (atTurn r wp) i ∧ k.phase = .sealed ∧ ((atTurn r wp).warp wp).landed k.lanes = true ∧
      ((atTurn r wp).warp wp).scoreboard k i = false) ∧
     (i.form.boundary = true ↔ i = .exitBase) := by
  intro i hi n hn
  simp only [List.mem_cons, List.not_mem_nil, or_false] at hi hn
  rcases hi with rfl | rfl <;> rcases hn with rfl | rfl | rfl <;>
    exact ⟨⟨turn_of (by decide +kernel), ⟨by decide +kernel, by decide +kernel, .inr ⟨_, fetches_of (by decide +kernel),
        by decide +kernel, by decide +kernel, by decide +kernel, by decide +kernel, by decide +kernel⟩⟩, .inl (by decide +kernel), by decide +kernel, by decide +kernel⟩,
      ⟨turn_of (by decide +kernel), ⟨by decide +kernel, by decide +kernel, .inl ⟨by decide +kernel, rfl, by decide +kernel⟩⟩, by decide +kernel, by decide +kernel, by decide +kernel⟩, by decide +kernel⟩

/-- A lane past its deadline; an event; a warp that seeks an issue slot, alone and first of two; a word's fetch, of each length; an error of each kind, a partition whose time runs. -/
theorem witness_StepRunsDecodedInstruction_rest :
    (let g := { grp with overrun := some 0 }
     let s := labCode (lab (th [])) wp (th []) (some g) (encodeWords (.iadd x0))
     WarpTurn s wp (atTurn s wp) ∧ ((atTurn s wp).warp wp).cur = some g ∧ g.overrun = some 0) ∧
    (let s : State := { lab (th []) with turns := [⟨7, .event .budgetRefill, [⟨256, false⟩]⟩] }
     s.turns = ⟨7, .event .budgetRefill, [⟨256, false⟩]⟩ :: [] ∧ Instr.budgetRefill.form.ok = false ∧ Instr.budgetRefill.words = 0 ∧ s.hasPart 0 = true ∧ (s.parts.map Prod.fst).Nodup ∧
      (s.part 0).suspended = false ∧ isSram 256 = true) ∧
    (let s := labCode (lab (th [])) wp (th []) none (encodeWords (.iadd x0))
     let x : WarpId × Warp := (wp, { Warp.absent with lanes := [(0, th [])] })
     (s.warps.map Prod.fst).Nodup ∧ s.warps = [x] ∧ s.seeksSlot x = true ∧ s.nextPc x = some 0x100000000 ∧ (∀ l ∈ x.2.lanes, l.2.stalled = false) ∧ s.slotsHeld (s.coreOf wp) = 0 ∧
      let two := { s with warps := [x, (⟨⟨rootGang 0, 0⟩, 1⟩, x.2)] }
      two.seeksSlot x = true ∧ ComesBefore two x (⟨⟨rootGang 0, 0⟩, 1⟩, x.2)) ∧
    (let s := labCode (lab (th [])) wp (th []) none (encodeWords (.iadd x0))
     ([0x100000000, 0x100000004, 0x100000008] : List Dword).all (fun p => canonical p.toNat && decide (p.toNat % 2 ^ 56 < 0xFE000000000000) &&
      (s.translate (s.who ⟨wp, 0⟩) .fetch p.toNat 4).2 == .ok (2 ^ 40 + (p.toNat - 0x100000000)) false false none) = true) ∧
    BitVec.ofNat 32 ((labCode (lab (th [])) wp (th []) none (encodeWords (.iadd x0))).readNat (2 ^ 40) 4) % 4 = 1 ∧
    BitVec.ofNat 32 ((labCode (lab (th [])) wp (th []) none (encodeWords .exitBase)).readNat (2 ^ 40) 4) % 4 = 0 ∧
    (∀ rows ∈ [0, 1], let s0 := labWait labHeader id rows Die.idle
     let s (starved : Option (GangId × Nat)) : State := { s0 with clk := 7, parts := [(0, { s0.part 0 with regs := [(1, 1)], starved := starved })] }
     (∀ o ∈ [none, some (g5, 3), some (⟨0, 4, 0⟩, 3)], (s o).hasPart 0 = true ∧ ((s o).parts.map Prod.fst).Nodup ∧ ((s o).part 0).reg 1 % 2 ^ 32 ≠ 0 ∧
      ((s o).headGang 0).map Waiting.gang = some g5 ∧ ((s o).headGang 0).map (s o).noRect = some (decide (rows = 0)))) ∧
    (isHbm (2 ^ 40) = true ∧ ({ word := 2 ^ 40, corrected := false } : Upset).corrected = false) := by
  unfold ComesBefore
  refine ⟨⟨turn_of (by decide +kernel), by decide +kernel, by decide +kernel⟩, by decide +kernel, by decide +kernel, by decide +kernel, by decide +kernel, by decide +kernel, by decide +kernel, by decide +kernel⟩

/-- Words of no instruction; a slot one past the last; a register one past the last; lookahead on an instruction without it; a privileged instruction of a thread that has no privilege; of a thread
outside the handler of its launch, and in it. -/
theorem witness_DecodeFaultResults :
    (∀ ws ∈ [[(0xFC : Word)], encodeWords (.spill (e 7 0 6 0 0 0 0 8)), encodeWords (.iadd (e 7 64 6 7 0 0 0 0)), encodeWords (.iadd { x0 with la := 1 }), encodeWords (.tlbinv (e 7 5 6 9 0 0 0 0))],
      ∀ inside : Bool, let t := { th [] with inHandler := inside }
      let s := labCode (labUser t .running) wp5 t (some grp) ws
      WarpTurn s wp5 (atTurn s wp5) ∧ GroupFetches (atTurn s wp5) wp5 grp ws (fetched s wp5 ws.length) ∧ grp.count < 24 ∧ (∀ l ∈ grp.lanes, (((fetched s wp5 ws.length).warp wp5).thread l).flt = none) ∧ grp.lanes.Nodup ∧
      grp.lanes ≠ [] ∧ ((fetched s wp5 ws.length).header g5).handler ≠ 0 ∧ (((fetched s wp5 ws.length).warp wp5).thread 0).inHandler = inside ∧ g5.launch ≠ 0) ∧
    (∃ e, decodeWords [0xFC] = .error e) ∧
    (∀ i ∈ [Instr.spill (e 7 0 6 0 0 0 0 8), .iadd (e 7 64 6 7 0 0 0 0), .iadd { x0 with la := 1 }, .tlbinv (e 7 5 6 9 0 0 0 0)], (decodeWords (encodeWords i)).toOption = some i) ∧
    (let s2 := fetched (labCode (labUser (th []) .running) wp5 (th []) (some grp) [0xFC]) wp5 1
     slotOk (.spill (e 7 0 6 0 0 0 0 8)) (s2.header g5).spillw = false ∧ slotOk (.spill (e 7 0 6 0 0 0 0 7)) (s2.header g5).spillw = true ∧
      regsOk (.iadd (e 7 64 6 7 0 0 0 0)) (s2.header g5).regs = false ∧ regsOk (.iadd (e 7 63 6 7 0 0 0 0)) (s2.header g5).regs = true ∧
      regsOk (.iadd { x0 with la := 1 }) (s2.header g5).regs = true ∧ ({ x0 with la := 1 } : Ext).la ≠ 0 ∧ (Instr.iadd x0).form.longLatency = false ∧
      (Instr.tlbinv (e 7 5 6 9 0 0 0 0)).form.privileged = true ∧ (grp.lanes.filter fun l => !s2.privileged wp5 ((s2.warp wp5).thread l) grp.pc).head? = some 0 ∧
      (Instr.iadd x0).form.privileged = false) := by
  refine ⟨?_, ⟨_, rfl⟩, by decide +kernel, by decide +kernel⟩
  intro ws hw b
  simp only [List.mem_cons, List.not_mem_nil, or_false] at hw
  rcases hw with rfl | rfl | rfl | rfl | rfl <;> cases b <;> exact ⟨turn_of (by decide +kernel), fetches_of (by decide +kernel), by decide +kernel⟩
/-! #### Groups of several lanes -/

/-- Two lanes as the group at work. -/
def duo : Issue := { grp with lanes := [0, 1] }
def labDuo (t u : Thread) : State := { lab t with warps := [(wp, { Warp.absent with lanes := [(0, t), (1, u)], cur := some duo })] }

theorem walks_run (act : State → Nat → State × LaneEnd) (s : State) (ls : List Nat) :
    Walks act LaneEnd.stops s ls (runEach act s ls).1 (runEach act s ls).2 := by
  induction ls generalizing s with
  | nil => exact .done s
  | cons l ls ih =>
    cases h : (act s l).2.stops with
    | true => simpa [runEach, h] using Walks.stop (act := act) (stops := LaneEnd.stops) s l ls h
    | false => simpa [runEach, h] using Walks.more (act := act) (stops := LaneEnd.stops) s l ls _ _ h (ih _)

theorem loner_all {s : State} (h : ∀ e ∈ (s.warp wp).lanes, e.2.wait = .ready) (k : Nat) : loner (s.thread ⟨wp, k⟩) := by
  simp only [State.thread, Warp.thread]
  cases hk : tbGet (s.warp wp).lanes k with
  | none => exact fun _ _ _ => by simp [Thread.absent]
  | some t =>
    have : ∃ e ∈ (s.warp wp).lanes, e.2 = t := by
      revert hk
      generalize (s.warp wp).lanes = m
      intro hk
      induction m with
      | nil => cases hk
      | cons a m ih =>
        simp only [tbGet] at hk
        split at hk
        · cases hk; exact ⟨a, by simp, rfl⟩
        · obtain ⟨e, he, rfl⟩ := ih hk
          exact ⟨e, by simp [he], rfl⟩
    obtain ⟨e, he, rfl⟩ := this
    exact loner_of (h e he)

theorem timely_of {s : State} {g : Issue} (h : s.focus = some wp ∧ (s.warp wp).cur = some g ∧ ∀ k ∈ g.lanes, ((s.warp wp).thread k).wd + 1 < ((s.warp wp).thread k).deadline) : Timely s := by
  intro id g' hi hg
  rw [h.1] at hi
  cases hi
  rw [h.2.1] at hg
  cases hg
  exact h.2.2

/-- What a group's ends have to be, of the statement. -/
def endsFit (s1 : State) (whole : Bool) (e : Nat × LaneEnd) : Prop :=
  match e.2 with
  | .jump _ => whole = false
  | .park w => w ≠ .ready ∧ (∀ a b c, w ≠ .logged a b c) ∧ ∀ a b c, w ≠ .together a b c
  | .fault _ => (s1.header wp.gang).handler ≠ 0 ∧ (s1.thread ⟨wp, e.1⟩).inHandler = false
  | .trap _ _ => (s1.header wp.gang).handler ≠ 0 ∧ (s1.thread ⟨wp, e.1⟩).inHandler = false
  | .deliver _ _ => whole = false ∧ (s1.header wp.gang).handler ≠ 0 ∧ (s1.thread ⟨wp, e.1⟩).inHandler = false
  | .broken => False
  | .exhausted _ => False
  | _ => True

/-- Two lanes meet what is asked of a group at a boundary instruction, and end so. -/
def GroupMeets (s : State) (i : Instr) (whole : Bool) (act : State → ThreadId → Dword → Dword → State × LaneEnd) (ends : List (Nat × LaneEnd)) : Prop :=
  s.focus = some wp ∧ (s.warp wp).cur = some duo ∧ duo.lanes.Nodup ∧ Timely s ∧ ∃ s1,
    Walks (guardedAct i wp duo act) LaneEnd.stops s duo.lanes s1 ends ∧ (∀ k, loner (s1.thread ⟨wp, k⟩)) ∧ (∀ k ∈ duo.lanes, (s1.thread ⟨wp, k⟩).wait = .ready) ∧
    ∀ e ∈ ends, endsFit s1 whole e

theorem meets_of {s : State} {i : Instr} {whole : Bool} {act : State → ThreadId → Dword → Dword → State × LaneEnd} {ends : List (Nat × LaneEnd)}
    (h : s.focus = some wp ∧ (s.warp wp).cur = some duo ∧ (∀ k ∈ duo.lanes, ((s.warp wp).thread k).wd + 1 < ((s.warp wp).thread k).deadline) ∧
      (runEach (guardedAct i wp duo act) s duo.lanes).2 = ends ∧ (∀ e ∈ ((runEach (guardedAct i wp duo act) s duo.lanes).1.warp wp).lanes, e.2.wait = .ready) ∧
      ∀ k ∈ duo.lanes, ((runEach (guardedAct i wp duo act) s duo.lanes).1.thread ⟨wp, k⟩).wait = .ready)
    (he : ∀ e ∈ ends, endsFit (runEach (guardedAct i wp duo act) s duo.lanes).1 whole e) : GroupMeets s i whole act ends := by
  obtain ⟨h1, h2, h3, h4, h5, h6⟩ := h
  subst h4
  exact ⟨h1, h2, by decide, timely_of ⟨h1, h2, h3⟩, _, walks_run _ _ _, loner_all h5, h6, he⟩

/-- The kind of a lane's end at a load or store. -/
def memKind : MemEnd → Nat
  | .done _ => 0
  | .fault _ => 1
  | .log _ _ _ _ => 2
  | .hold => 3
  | .broken => 4

/-- A branch that lane 0 takes and lane 1, its guard false, falls through; a barrier both lanes wait at; a trap that leaves lane 1 at the instruction; an atomic of both, which park; a load whose lane 1 has its guard false, one that waits for a page. -/
theorem witness_GroupResults :
    (let s := labDuo { th [] with preds := 1 } (th [])
     let i := Instr.bra (e 0 0 0 0 0 0 0 16)
     laneAct s i = some (actBra 16) ∧ GroupMeets s i false (actBra 16) [(0, .jump 0x100000040), (1, .go)]) ∧
    (let s := labDuo (th []) (th [])
     laneAct s (.trapBase 7) = some (actTrap 0x13 7) ∧ GroupMeets s (.trapBase 7) false (actTrap 0x13 7) [(0, .deliver ⟨0x13, 0, 7⟩ 0x100000004), (1, .deliver ⟨0x13, 0, 7⟩ 0x100000004)]) ∧
    (let s := labDuo (th []) (th [])
     GroupMeets s (.atom xWin) true (actRmw (.atom xWin)) [(0, .park (.atomic 0 5 false [] 0x10000000C)), (1, .park (.atomic 1 5 false [] 0x10000000C))]) ∧
    GroupMeets (labDuo (ill 6) (th [])) (.barwait xBar) false (actBarwait xBar) [(0, .fault ⟨0x11, 0xFFFE000000000000, 17⟩)] ∧
    (let s := labDuo (th [(6, 8)]) (th [])
     GroupMeets s (.wsync (e 7 0 0 0 0 0 0 0)) false actWsync [(0, .park (.wsync 0x10000000C)), (1, .park (.wsync 0x10000000C))]) ∧
    (∀ guard ∈ [7, 0], let s := labDuo { th [] with preds := 1 } (th [])
     let x := { xWin with guard := guard }
     s.focus = some wp ∧ (s.warp wp).cur = some duo ∧ duo.phase = .run ∧ duo.lanes.Nodup ∧ Timely s ∧
      ∃ s1 ends, Walks (fun a l => actLd x a ⟨wp, l⟩ duo) MemEnd.stops s (duo.lanes.filter fun l => ((s.warp wp).thread l).guard x.guard) s1 ends ∧
        ends.map (fun e => (e.1, memKind e.2)) = if guard = 7 then [(0, 0), (1, 0)] else [(0, 0)]) := by
  refine ⟨⟨rfl, meets_of (by decide +kernel) ?_⟩, ⟨rfl, meets_of (by decide +kernel) ?_⟩, meets_of (by decide +kernel) ?_, meets_of (by decide +kernel) ?_, meets_of (by decide +kernel) ?_, ?_⟩
  · intro e he
    simp only [List.mem_cons, List.not_mem_nil, or_false] at he
    rcases he with rfl | rfl
    · exact rfl
    · exact trivial
  · intro e he
    simp only [List.mem_cons, List.not_mem_nil, or_false] at he
    rcases he with rfl | rfl <;> exact ⟨rfl, by decide +kernel⟩
  · intro e he
    simp only [List.mem_cons, List.not_mem_nil, or_false] at he
    rcases he with rfl | rfl <;> exact ⟨nofun, nofun, nofun⟩
  · intro e he
    simp only [List.mem_cons, List.not_mem_nil, or_false] at he
    subst he
    exact ⟨by decide +kernel, by decide +kernel⟩
  · intro e he
    simp only [List.mem_cons, List.not_mem_nil, or_false] at he
    rcases he with rfl | rfl <;> exact ⟨nofun, nofun, nofun⟩
  · intro guard hg
    simp only [List.mem_cons, List.not_mem_nil, or_false] at hg
    rcases hg with rfl | rfl
    · refine ⟨rfl, rfl, rfl, by decide, timely_of (g := duo) (by decide +kernel), _, _, .more _ 0 [1] _ _ ?_ (.more _ 1 [] _ _ ?_ (.done _)), ?_⟩ <;> decide +kernel
    · refine ⟨rfl, rfl, rfl, by decide, timely_of (g := duo) (by decide +kernel), _, _, .more _ 0 [] _ _ ?_ (.done _), ?_⟩ <;> decide +kernel


/-- A load that waits for the page of its lane 1, its group held; one that needs the operand log while it holds four instructions. -/
theorem witness_GroupResults_held :
    (let s0 := labDuo (th []) (th [(6, 0x10000)])
     let s : State := { s0 with cores := [(0, { Core.idle with tlb := [⟨0, 65536, 65536, entry 5 0, true⟩] })], parts := [(0, { s0.part 0 with regs := [(4, 1)], touches := [((0, 65536), 1)] })] }
     memKind (actLd xPage s ⟨wp, 1⟩ duo).2 = 2) ∧
    (let four : List LogEntry := (natsFrom 1 4).map fun n => ⟨0, n, 1, 0x100000000, .ld xPage, 0x10008, []⟩
     4 ≤ ({ Warp.absent with log := four }).logged) := by decide +kernel

/-- A valid header and one that is none; a finite number, a NaN and an infinity of each format; a number past an integer type's range. -/
theorem witness_HeaderRules :
    labHeader.valid 9000000 = true ∧ ({ labHeader with e2 := 2 }).valid 9000000 = false ∧ ({ labHeader with entry := 0x100000002 }).valid 9000000 = false := by decide +kernel

theorem witness_ArithmeticIsExact :
    (∀ f ∈ [f16, bf16, f32, f64], finite f 0 ∧ ¬finite f ((2 ^ f.eb - 1) * 2 ^ f.mb) ∧ ¬finite f ((2 ^ f.eb - 1) * 2 ^ f.mb + 1)) ∧ (1 : Nat) ≠ 0 := by
  unfold finite
  decide +kernel

theorem witness_ConversionSaturates :
    f32.read false 0x60000000 = .fin false 8388608 42 ∧ (2 ^ 31 - 1 : ℤ) < 8388608 * 2 ^ 42 ∧ f32.read false 0x7FC00000 = .nan false ∧ f32.read false 0xFF800000 = .inf true := by
  decide +kernel

theorem witness_SpecialFunctionValues :
    f32.read false 0x3F800000 = .fin false 8388608 (-23) ∧ finite f32 (sfuRcp 0x3F800000 false (.fin false 8388608 (-23))).bits ∧ (65536 : ℚ) < number false 13176795 (-7) := by
  refine ⟨by decide +kernel, by unfold finite; decide +kernel, ?_⟩
  unfold number
  norm_num

end Sys2Proof.Tests
end

/-! The base forms of spec/02: a base RR instruction against its extended one (R38), and the base RI instructions (R39). -/

namespace Sys2Proof.BaseForms

open Sys2Proof.Machine Sys2Proof.Claim Sys2Proof.Laws

/-! ### Fields as numbers (Tables 2-1, 2-2, 2-5) -/

theorem toNat_field (w : Word) (lo n : Nat) : (field w lo n).toNat = w.toNat / 2 ^ lo % 2 ^ n := by
  simp [field, BitVec.extractLsb'_toNat, Nat.shiftRight_eq_div_pow]

theorem toNat_len (w : Word) : (field w 0 2).toNat = w.toNat % 4 := by
  rw [toNat_field, Nat.pow_zero, Nat.div_one]
  rfl

theorem toNat_major (w : Word) : (field w 2 6).toNat = w.toNat / 4 % 64 := toNat_field w 2 6

theorem toNat_baseB (w : Word) : (field w 17 9).toNat = w.toNat / 2 ^ 17 % 512 := toNat_field w 17 9

theorem toNat_baseMinor (w : Word) : (field w 26 6).toNat = w.toNat / 2 ^ 26 := by
  rw [toNat_field]
  have := w.isLt
  omega

theorem toNat_extMinor (w : Word) : (field w 8 8).toNat = w.toNat / 256 % 256 := toNat_field w 8 8

/-! ### A base RR instruction and its extended one stand at paired places and do the same (R38) -/

/-- What makes an instruction the base RR instruction of a major and a minor with these extended fields and this effect on a lane. -/
structure IsBaseRR (i : Instr) (major minor : BitVec 6) (x : Ext) (lane : Thread → LaneOut) : Prop where
  code : encodeWords i = encodeRR major minor x.d x.b x.lit
  fields : i.ext = x
  size : i.words = if x.lit.isSome then 3 else 1
  meaning : ∀ s, exec i s = spanOn i lane s

/-- What makes an instruction the extended one of a major and a minor with these fields and this effect on a lane. -/
structure IsExtended (i : Instr) (major : BitVec 6) (minor : BitVec 8) (x : Ext) (lane : Thread → LaneOut) : Prop where
  code : encodeWords i = encodeExt major minor x
  fields : i.ext = x
  meaning : ∀ s, exec i s = spanOn i lane s

theorem samePlace_of_codes {base ext : Instr} {mb me m : BitVec 6} {m' : BitVec 8} {d b : RegIdx} {lit : Option Dword} {x : Ext}
    (hb : encodeWords base = encodeRR mb m d b lit) (he : encodeWords ext = encodeExt me m' x) (hm : m.toNat = m'.toNat) :
    SamePlace mb.toNat me.toNat base ext := by
  have hbase : (encodeWords base).headD 0 = rrWord (if lit.isSome then 2 else 0) mb m d b := by rw [hb]; rfl
  have hext : (encodeWords ext).headD 0 = extWord0 x.modA x.retain (if x.lit.isSome then 3 else 1) x.la x.guard m' me := by
    rw [he]; rfl
  unfold SamePlace
  rw [hbase, hext]
  simp only [← toNat_major, ← toNat_baseMinor, ← toNat_extMinor, rr_major, rr_minor, ext_major, ext_minor]
  exact ⟨trivial, trivial, hm⟩

/-- In the first run of a span the threads after an instruction depend on its fields and its lanes' effects alone. -/
theorem runSpan_thread_congr {s : State} {i j : Instr} {f : Warp → Issue → Nat → LaneOut} {id : WarpId} {g : Issue}
    (hf : s.focus = some id) (hc : (s.warp id).cur = some g) (hp : g.phase = .run)
    (hd : ∀ k ∈ g.lanes, ((s.warp id).thread k).wd + 1 < ((s.warp id).thread k).deadline) (hx : i.ext = j.ext) (t : ThreadId) :
    (s.runSpan i f).thread t = (s.runSpan j f).thread t := by
  rw [State.runSpan_eq hf hc (overrun_none hd) hp, State.runSpan_eq hf hc (overrun_none hd) hp, hx]
  simp only [State.thread, State.warp_setWarp]
  split <;> rfl

theorem sameEffect_of_meanings {base ext : Instr} {lit : Option Dword} {lane : Thread → LaneOut}
    (hb : ∀ s, exec base s = spanOn base lane s) (he : ∀ s, exec ext s = spanOn ext lane s) (hx : base.ext = ext.ext)
    (hw : base.words = if lit.isSome then 3 else 1) : SameEffect base ext lit := by
  intro s id g hf hc hp hd
  refine ⟨_, _, g.advance base, hb s, he s, runSpan_thread_congr hf hc hp hd hx, ?_, ?_, rfl⟩
  · rw [State.runSpan_eq hf hc (overrun_none hd) hp, State.warp_setWarp_self]
  · simp only [Issue.advance, hw]
    split <;> rfl

theorem base_like_extended {base ext : Instr} {mb me m : BitVec 6} {m' : BitVec 8} {x : Ext} {lane : Thread → LaneOut}
    (hb : IsBaseRR base mb m x lane) (he : IsExtended ext me m' x lane) (hm : m.toNat = m'.toNat) :
    SamePlace mb.toNat me.toNat base ext ∧ SameEffect base ext x.lit :=
  ⟨samePlace_of_codes hb.code he.code hm,
    sameEffect_of_meanings hb.meaning he.meaning (hb.fields.trans he.fields.symm) hb.size⟩

/-- R38 for instructions with B: where encoder, operand fields and `exec` give both the same minor, fields and lane function, which the
tables of the model say of each pair by computation, the base form has the extended one's effect. -/
theorem baseOf_of_lane (mb me m : BitVec 6) (lane : Ext → Thread → LaneOut) {base : RegIdx → RegIdx → Option Dword → Instr}
    {ext : Ext → Instr}
    (hb : ∀ d b lit, IsBaseRR (base d b lit) mb m (baseFields d d b lit) (lane (baseFields d d b lit)) := by
      exact fun _ _ _ => ⟨rfl, rfl, rfl, fun _ => rfl⟩)
    (he : ∀ x, IsExtended (ext x) me (m.setWidth 8) x (lane x) := by exact fun _ => ⟨rfl, rfl, fun _ => rfl⟩) :
    BaseOf mb.toNat me.toNat base ext :=
  fun d b lit => base_like_extended (hb d b lit) (he _) (BitVec.toNat_setWidth_of_le (by decide)).symm

/-- R38 for instructions without B, whose field is zero and which take no literal. -/
theorem baseOf1_of_lane (mb me m : BitVec 6) (lane : Ext → Thread → LaneOut) {base : RegIdx → Instr} {ext : Ext → Instr}
    (hb : ∀ d, IsBaseRR (base d) mb m (baseFields d d 0 none) (lane (baseFields d d 0 none)) := by
      exact fun _ => ⟨rfl, rfl, rfl, fun _ => rfl⟩)
    (he : ∀ x, IsExtended (ext x) me (m.setWidth 8) x (lane x) := by exact fun _ => ⟨rfl, rfl, fun _ => rfl⟩) :
    BaseOf1 mb.toNat me.toNat base ext :=
  fun d => base_like_extended (hb d) (he _) (BitVec.toNat_setWidth_of_le (by decide)).symm

/-- MOV reads no A. -/
theorem mov_like_extended (d b : RegIdx) (lit : Option Dword) :
    SamePlace 0x04 0x0C (.movBase d b lit) (.mov (baseFields d 0 b lit)) ∧
      SameEffect (.movBase d b lit) (.mov (baseFields d 0 b lit)) lit :=
  base_like_extended (mb := 0x04) (me := 0x0C) (m := 0x00) (m' := 0x00) (lane := laneMov (baseFields d 0 b lit))
    ⟨rfl, rfl, rfl, fun _ => rfl⟩ ⟨rfl, rfl, fun _ => rfl⟩ rfl

/-! ### BOOL3 in base form -/

theorem bitsOf_false (n : Nat) : bitsOf n (fun _ => false) = 0 := by
  have sum_zeros : ∀ l : List Nat, sumNat (l.map fun _ => 0) = 0 := by
    intro l
    induction l with
    | nil => rfl
    | cons _ l ih => simp only [List.map_cons, sumNat, ih]
  exact sum_zeros _

/-- The function of the base form is 0, whose table has no bit set. -/
theorem bool3Base_zero (d b : RegIdx) (lit : Option Dword) : Op3 (.bool3Base d b lit) (baseFields d d b lit) fun _ _ _ => 0 := by
  refine op3 (f := fun a b c => _) (fun _ => rfl) fun a b' c => ?_
  have no_bit : ∀ n, (0 : BitVec 23).getLsbD n = false := fun _ => BitVec.getLsbD_zero
  simp only [Ext.ofRR, no_bit, bitsOf_false]
  rfl

theorem bool3Base_takes_zero {d b : RegIdx} {s : State} {id : WarpId} {g : Issue} {l : Nat} {t : Thread}
    (h : InSpan s (.bool3Base d b none) id g l t) :
    Takes s (.bool3Base d b none) id g l t (wordAt d 0 ((t.reg d).p || (t.reg b).p)) [] 0 := by
  have hc : (t.reg 0).p = false := rfl
  simpa only [baseFields, Ext.zero, Thread.srcB, hc, Bool.or_false] using bool3Base_zero d b none s id g l t h

/-! ### Base words that are no instruction -/

theorem decodeWords_error_of_base {w : Word} (rest : List Word) (hlen : w.toNat % 4 = 0 ∨ w.toNat % 4 = 2)
    (hb : ∀ lit, (lit = none → w.toNat % 4 = 0) → baseInstr w lit = none) : ∃ e, decodeWords (w :: rest) = .error e := by
  rcases hlen with h | h
  · exact ⟨.unassigned, by simp only [decodeWords, toNat_len, h, hb none fun _ => h, accept]⟩
  · match rest with
    | [] => exact ⟨.truncated, by simp only [decodeWords, toNat_len, h]⟩
    | [_] => exact ⟨.truncated, by simp only [decodeWords, toNat_len, h]⟩
    | lo :: hi :: _ =>
      have hn : baseInstr w (some (pairOf lo hi)) = none := hb _ nofun
      exact ⟨.unassigned, by simp only [decodeWords, toNat_len, h, hn, accept]⟩

theorem baseInt_unary_none {minor : Nat} {d b : RegIdx} {lit : Option Dword} (hm : minor = 5 ∨ minor = 6)
    (hb : ¬(b = 0 ∧ lit = none)) : baseInt minor d b lit = none := by
  rcases hm with rfl | rfl <;> exact if_neg hb

theorem baseBit_unary_none {minor : Nat} {d b : RegIdx} {lit : Option Dword} (hm : minor = 7 ∨ 9 ≤ minor ∧ minor ≤ 12)
    (hb : ¬(b = 0 ∧ lit = none)) : baseBit minor d b lit = none := by
  obtain rfl | rfl | rfl | rfl | rfl : minor = 7 ∨ minor = 9 ∨ minor = 10 ∨ minor = 11 ∨ minor = 12 := by omega
  all_goals exact if_neg hb

theorem baseMov_none {minor : Nat} {d b : RegIdx} {lit : Option Dword} (hm : minor ≠ 0) : baseMov minor d b lit = none := by
  match minor, hm with
  | _ + 1, _ => rfl

/-- A word that names a B, by its field or by its length, is not read as one without (R48). -/
theorem names_b {w : Word} {lit : Option Dword} (h : w.toNat / 2 ^ 17 % 512 ≠ 0 ∨ w.toNat % 4 = 2) (hl : lit = none → w.toNat % 4 = 0) :
    ¬(field w 17 9 = 0 ∧ lit = none) := by
  rintro ⟨hb, hn⟩
  have hb' : w.toNat / 2 ^ 17 % 512 = 0 := by rw [← toNat_baseB, hb]; rfl
  have := hl hn
  omega

theorem baseInstr_unread_b_none {w : Word} {lit : Option Dword}
    (hm : w.toNat / 4 % 64 = 0x01 ∧ (w.toNat / 2 ^ 26 = 0x05 ∨ w.toNat / 2 ^ 26 = 0x06) ∨
      w.toNat / 4 % 64 = 0x02 ∧ (w.toNat / 2 ^ 26 = 0x07 ∨ 0x09 ≤ w.toNat / 2 ^ 26 ∧ w.toNat / 2 ^ 26 ≤ 0x0C))
    (hb : ¬(field w 17 9 = 0 ∧ lit = none)) : baseInstr w lit = none := by
  simp only [← toNat_major, ← toNat_baseMinor] at hm
  rcases hm with ⟨hmaj, hmin⟩ | ⟨hmaj, hmin⟩
  · simp only [baseInstr, hmaj]
    exact baseInt_unary_none hmin hb
  · simp only [baseInstr, hmaj]
    exact baseBit_unary_none hmin hb

theorem baseInstr_mov_minor_none {w : Word} {lit : Option Dword} (hmaj : w.toNat / 4 % 64 = 0x04) (hmin : w.toNat / 2 ^ 26 ≠ 0) :
    baseInstr w lit = none := by
  rw [← toNat_major] at hmaj
  rw [← toNat_baseMinor] at hmin
  simp only [baseInstr, hmaj]
  exact baseMov_none hmin

/-! ### Base RI instructions (R39) -/

/-- d := f d v, the poison of d passing. -/
theorem takes_ri {s : State} {i : Instr} {id : WarpId} {g : Issue} {l : Nat} {t : Thread} {d : RegIdx} {imm : BitVec 15}
    {lit : Option Dword} {f : Word → Word → Word} (h : InSpan s i id g l t) (hx : exec i s = spanOn i (laneRI d imm lit f) s) :
    Takes s i id g l t (wordAt d (f (t.reg d).v (riValue imm lit)) (t.reg d).p) [] 0 := by
  refine takes_on h hx (faultIn_never _ _ rfl rfl) ?_ rfl ?_
  · simp only [laneRI, out32, regWrites_one]
  · simp only [laneRI, out32, ite_self]

theorem takes_moviBase {s : State} {id : WarpId} {g : Issue} {l : Nat} {t : Thread} {d : RegIdx} {imm : BitVec 15}
    {lit : Option Dword} (h : InSpan s (.moviBase d imm lit) id g l t) :
    Takes s (.moviBase d imm lit) id g l t (wordAt d (riValue imm lit) false) [] 0 :=
  takes_on (h' := fun _ => out32 d false (riValue imm lit)) h rfl (faultIn_never _ _ rfl rfl) (regWrites_one ..) rfl rfl

/-- Accepting answers well-formed instructions alone. -/
theorem wf_of_accept {o : Option Instr} {i : Instr} (h : accept o = .ok i) : i.wf = true := by
  unfold accept at h
  split at h
  · cases h
  · split at h
    · cases h; assumption
    · cases h

theorem wf_of_decodeWords {ws : List Word} {i : Instr} (h : decodeWords ws = .ok i) : i.wf = true := by
  unfold decodeWords at h
  split at h
  · cases h
  · split at h
    · exact wf_of_accept h
    · exact wf_of_accept h
    · exact wf_of_accept h
    · exact wf_of_accept h
    · cases h

theorem form_ok_of_wf {i : Instr} (h : i.wf = true) : i.form.ok = true := by
  simp only [Instr.wf, Ext.fits, Bool.and_eq_true] at h
  obtain ⟨⟨⟨⟨⟨hok, _⟩, _⟩, _⟩, _⟩, _⟩ := h
  exact hok

/-- A shift of Table 2-3 with a count past 31 does not fit its form. -/
theorem decodeWords_ne_shift {i : Instr} {readsD : Bool} {imm : BitVec 15} {lit : Option Dword}
    (hf : i.form = riForm readsD imm lit (riShiftOk imm lit)) (hv : 32 ≤ (riValue imm lit).toNat) (ws : List Word) :
    decodeWords ws ≠ .ok i := by
  intro h
  have hok := form_ok_of_wf (wf_of_decodeWords h)
  simp only [hf, riForm, riShiftOk, Bool.and_eq_true, decide_eq_true_eq] at hok
  obtain ⟨_, hle⟩ := hok
  omega

/-! ### The statements -/

/-- Settles O4: a base instruction and its extended one have the same fields and the same lane function, so their runs differ in where
the group stands alone; base words that name an unread B, or a minor MOV lacks, are no instruction in the decoder's tables. -/
theorem baseHasExtendedEffect : Obligations.BaseHasExtendedEffect := by
  refine ⟨?int, ?bit, ?fp32, mov_like_extended, fun _ _ _ _ _ _ _ => bool3Base_takes_zero, ?rejected⟩
  case int =>
    exact ⟨baseOf_of_lane 0x01 0x01 0x00 laneIadd, baseOf_of_lane 0x01 0x01 0x01 laneIsub, baseOf_of_lane 0x01 0x01 0x02 laneIaddc,
      baseOf_of_lane 0x01 0x01 0x03 laneImin, baseOf_of_lane 0x01 0x01 0x04 laneImax, baseOf1_of_lane 0x01 0x01 0x05 laneIabs,
      baseOf1_of_lane 0x01 0x01 0x06 laneIneg, baseOf_of_lane 0x01 0x01 0x07 laneIamin, baseOf_of_lane 0x01 0x01 0x08 laneIamax,
      baseOf_of_lane 0x01 0x01 0x09 laneIsad, baseOf_of_lane 0x01 0x01 0x0A laneIadd64, baseOf_of_lane 0x01 0x01 0x0B laneIsub64⟩
  case bit =>
    exact ⟨baseOf_of_lane 0x02 0x03 0x00 laneShl, baseOf_of_lane 0x02 0x03 0x01 laneShr, baseOf_of_lane 0x02 0x03 0x02 laneSar,
      baseOf_of_lane 0x02 0x03 0x03 laneRotl, baseOf_of_lane 0x02 0x03 0x04 laneBand, baseOf_of_lane 0x02 0x03 0x05 laneBor,
      baseOf_of_lane 0x02 0x03 0x06 laneBxor, baseOf1_of_lane 0x02 0x03 0x07 laneBnot, baseOf_of_lane 0x02 0x03 0x08 laneBool3,
      baseOf1_of_lane 0x02 0x03 0x09 lanePopc, baseOf1_of_lane 0x02 0x03 0x0A laneClz, baseOf1_of_lane 0x02 0x03 0x0B laneCtz,
      baseOf1_of_lane 0x02 0x03 0x0C laneBrev, baseOf_of_lane 0x02 0x03 0x0D laneBfe, baseOf_of_lane 0x02 0x03 0x0E laneBfi,
      baseOf_of_lane 0x02 0x03 0x0F laneFunnel, baseOf_of_lane 0x02 0x03 0x10 laneShl64, baseOf_of_lane 0x02 0x03 0x11 laneShr64,
      baseOf_of_lane 0x02 0x03 0x12 laneSar64⟩
  case fp32 =>
    exact ⟨baseOf_of_lane 0x03 0x05 0x00 (laneFadd 1), baseOf_of_lane 0x03 0x05 0x01 (laneFsub 1),
      baseOf_of_lane 0x03 0x05 0x02 (laneFmul 1), baseOf_of_lane 0x03 0x05 0x03 (laneFfma 1),
      baseOf_of_lane 0x03 0x05 0x04 (laneFmin 1), baseOf_of_lane 0x03 0x05 0x05 (laneFmax 1)⟩
  case rejected =>
    intro w rest major minor hlen hno
    refine decodeWords_error_of_base rest hlen fun lit hl => ?_
    rcases hno with ⟨hm, hb⟩ | ⟨hmaj, hmin⟩
    · exact baseInstr_unread_b_none hm (names_b hb hl)
    · exact baseInstr_mov_minor_none hmaj hmin

/-- Settles O5: every lane function is `laneRI` of Table 2-3's operation but MOVI's, and the decoder accepts no count past 31. -/
theorem baseImmediateResults : Obligations.BaseImmediateResults := by
  intro d imm lit s id g l t v r
  have hv : v = riValue imm lit := rfl
  rw [hv]
  refine ⟨fun h => takes_ri h rfl, takes_moviBase, fun h => takes_ri h rfl, fun _ h => takes_ri h rfl, fun _ h => takes_ri h rfl,
    fun _ h => takes_ri h rfl, fun hc ws => ⟨?_, ?_, ?_⟩⟩
  · exact decodeWords_ne_shift rfl hc ws
  · exact decodeWords_ne_shift rfl hc ws
  · exact decodeWords_ne_shift rfl hc ws

end Sys2Proof.BaseForms

/-! Arithmetic of spec/06 with flags or with a fixed function: division (R109), packed half width (R114), RAND (R117). -/

namespace Sys2Proof.LaneArithmetic

open Sys2Proof.Machine Sys2Proof.Claim Sys2Proof.BaseForms

/-! ### One-word results with flags, and the trap they may take (R104, R105) -/

/-- What a lane's poison leaves of the flags of its result (R104). -/
def keptFlags (p : Bool) (fl : Flags) : Flags := if p then 0 else fl

@[simp] theorem keptFlags_false (fl : Flags) : keptFlags false fl = fl := rfl

/-- A trap's fault carries the lane's place in the span in bits 8 and up of its info (Table 15-3). -/
theorem atIndex_trap {kind : Nat} (addr info n : Nat) (hk : kind = 0x0F ∨ kind = 0x10) :
    FaultInfo.atIndex ⟨kind, addr, info⟩ n = ⟨kind, addr, info + 256 * n⟩ := by
  rw [Nat.mul_comm 256 n]
  rcases hk with rfl | rfl <;> rfl

section outcome
variable {s : State} {i : Instr} {id : WarpId} {g : Issue} {l : Nat} {t : Thread} {lane : Thread → LaneOut} {d : RegIdx} {p : Bool}
  {v : Word} {fl : Flags} {cls : TrapClass}

/-- A word is written with its flags where these take no trap. -/
theorem takes_out32 (h : InSpan s i id g l t) (hx : exec i s = spanOn i lane s) (hl : lane t = out32 d p v fl cls)
    (ht : flagTrap t.fmode cls (keptFlags p fl) = none) : Takes s i id g l t (wordAt d v p) [] (keptFlags p fl) := by
  refine takes_on h hx ?_ ?_ ?_ ?_ <;> rw [hl]
  · exact ht
  · exact regWrites_one d ⟨v, p⟩
  · rfl
  · rfl

/-- A word without flags is written. -/
theorem takes_word (h : InSpan s i id g l t) (hx : exec i s = spanOn i lane s) (hl : lane t = out32 d p v) :
    Takes s i id g l t (wordAt d v p) [] 0 := by
  simpa only [keptFlags, ite_self] using takes_out32 h hx hl rfl

/-- Flags that take a trap are noted at the lane's place in the span. -/
theorem notes_out32 (h : InSpan s i id g l t) (hx : exec i s = spanOn i lane s) (hl : lane t = out32 d p v fl cls) {kind info : Nat}
    (ht : flagTrap t.fmode cls (keptFlags p fl) = some ⟨kind, 0, info⟩) (hk : kind = 0x0F ∨ kind = 0x10) :
    Notes s i id g l t ⟨kind, 0, info + 256 * (g.count + 1)⟩ := by
  refine notes_on h hx ?_ (atIndex_trap 0 info _ hk)
  rw [hl]
  exact ht

end outcome

/-- A float result of one word in the words of R104 and R105. -/
theorem floats_out32 {i : Instr} {lane : Thread → LaneOut} {d : RegIdx} {r : Thread → FRes} {p : Thread → Bool}
    (hx : ∀ s, exec i s = spanOn i lane s)
    (hl : ∀ t, lane t = out32 d (p t) (BitVec.ofNat 32 (r t).bits) (r t).flags .float) : Floats i d 1 r p :=
  fun s _ _ _ t h =>
    ⟨fun clear => takes_out32 h (hx s) (hl t) (if_pos clear), fun trapped => notes_out32 h (hx s) (hl t) (if_neg trapped) (.inl rfl)⟩

/-! ### Division (R109) -/

/-- DZ is enabled by %fmode.trapen[6]. -/
theorem flagTrap_DZ (fmode : Word) : flagTrap fmode .intDiv flagDZ = if fmode.getLsbD 6 then some ⟨0x10, 0, 0⟩ else none := by
  have hit : flagDZ &&& trapEnables fmode = if fmode.getLsbD 6 then flagDZ else 0 := by
    have hb : (trapEnables fmode).getLsbD 3 = fmode.getLsbD 6 := by simp [trapEnables]
    rw [show flagDZ = BitVec.twoPow 5 3 from rfl, BitVec.twoPow_and, hb]
    rfl
  simp only [flagTrap, hit]
  split <;> rfl

theorem flagTrap_intDiv_zero (fmode : Word) : flagTrap fmode .intDiv 0 = none := by
  simp [flagTrap]

/-- The outcomes of a division of b: the quotient or remainder q, or z by zero, with DZ or its trap, or neither where poison passes (R104,
R109). -/
theorem division_outcomes {s : State} {i : Instr} {id : WarpId} {g : Issue} {l : Nat} {t : Thread} {lane : Thread → LaneOut} {d : RegIdx}
    {p : Bool} {b q z : Word} (h : InSpan s i id g l t) (hx : exec i s = spanOn i lane s) (hq : b ≠ 0 → lane t = out32 d p q)
    (hz : b = 0 → lane t = out32 d p z flagDZ .intDiv) :
    (b ≠ 0 → Takes s i id g l t (wordAt d q p) [] 0) ∧
    (b = 0 → p = false → t.fmode.getLsbD 6 = false → Takes s i id g l t (wordAt d z p) [] flagDZ) ∧
    (b = 0 → p = false → t.fmode.getLsbD 6 = true → Notes s i id g l t ⟨0x10, 0, 256 * (g.count + 1)⟩) ∧
    (b = 0 → p = true → Takes s i id g l t (wordAt d z p) [] 0) := by
  refine ⟨fun hb => takes_word h hx (hq hb), ?untrapped, ?trapped, ?poisoned⟩
  case untrapped =>
    rintro hb rfl hm
    have ht : flagTrap t.fmode .intDiv (keptFlags false flagDZ) = none := by rw [keptFlags_false, flagTrap_DZ, hm]; rfl
    exact takes_out32 h hx (hz hb) ht
  case trapped =>
    rintro hb rfl hm
    have ht : flagTrap t.fmode .intDiv (keptFlags false flagDZ) = some ⟨0x10, 0, 0⟩ := by
      rw [keptFlags_false, flagTrap_DZ, if_pos hm]
    simpa only [Nat.zero_add] using notes_out32 h hx (hz hb) ht (.inr rfl)
  case poisoned =>
    rintro hb rfl
    exact takes_out32 h hx (hz hb) (flagTrap_intDiv_zero _)

/-- Res of R108 without .sat wraps. -/
theorem resInt32_wraps (signed : Bool) (v : Int) : BitVec.ofNat 32 (resInt false signed 32 v) = BitVec.ofInt 32 v := by
  apply BitVec.eq_of_toNat_eq
  simp only [resInt, Bool.false_eq_true, if_false, BitVec.toNat_ofInt, BitVec.toNat_ofNat]
  omega

section divide
variable {x : Ext} {t : Thread}

theorem laneIdiv_zero (hb : (t.srcB x).v = 0) :
    laneIdiv x t = out32 x.d ((t.reg x.a).p || (t.srcB x).p) 0xFFFFFFFF flagDZ .intDiv := if_pos hb

theorem laneIdiv_nonzero (hb : (t.srcB x).v ≠ 0) :
    laneIdiv x t =
      out32 x.d ((t.reg x.a).p || (t.srcB x).p) (res32 x ((typed x (t.reg x.a).v).tdiv (typed x (t.srcB x).v))) := by
  simp only [laneIdiv, if_neg hb, truncDiv, srcInt_typed, resInt32]

theorem laneIrem_zero (hb : (t.srcB x).v = 0) :
    laneIrem x t = out32 x.d ((t.reg x.a).p || (t.srcB x).p) (t.reg x.a).v flagDZ .intDiv := if_pos hb

theorem laneIrem_nonzero (hb : (t.srcB x).v ≠ 0) :
    laneIrem x t =
      out32 x.d ((t.reg x.a).p || (t.srcB x).p)
        (BitVec.ofInt 32 ((typed x (t.reg x.a).v).tmod (typed x (t.srcB x).v))) := by
  simp only [laneIrem, if_neg hb, truncDiv, srcInt_typed, resInt32_wraps, ← Int.tmod_def]

end divide

/-! ### Modifiers that are no instruction (R48) -/

/-- Where modA[0] is the one modifier an instruction has, nothing else of the two fields is set. -/
theorem mods_zero_of_modsIn {x : Ext} (h : x.modsIn 1 0 = true) : x.modA.toNat / 2 = 0 ∧ x.modB = 0 := by
  have low_bit : ∀ a : BitVec 6, a &&& ~~~1 = 0 → a.toNat / 2 = 0 := by decide
  simp only [Ext.modsIn, Bool.and_eq_true, beq_iff_eq] at h
  obtain ⟨hA, hB⟩ := h
  exact ⟨low_bit _ hA, by rwa [show (~~~0 : BitVec 5) = BitVec.allOnes 5 from rfl, BitVec.and_allOnes] at hB⟩

/-- The form of IREM and of RAND takes modA[0] alone. -/
theorem decodeWords_ne_of_mods {i : Instr} {x : Ext} (hf : i.form.ok = (x.modsIn 1 0 && x.imm == 0))
    (hm : x.modA.toNat / 2 ≠ 0 ∨ x.modB ≠ 0) (ws : List Word) : decodeWords ws ≠ .ok i := by
  intro hd
  have hok := form_ok_of_wf (wf_of_decodeWords hd)
  rw [hf, Bool.and_eq_true] at hok
  obtain ⟨hin, _⟩ := hok
  obtain ⟨hA, hB⟩ := mods_zero_of_modsIn hin
  exact hm.elim (· hA) (· hB)

/-- Settles O2: by zero the lane's result carries DZ, which poison drops and %fmode.trapen[6] traps; else it is the truncated quotient or
remainder; IREM's form has no .sat. -/
theorem divisionResults : Obligations.DivisionResults := by
  intro x s id g l t
  refine ⟨fun h => division_outcomes h rfl laneIdiv_nonzero laneIdiv_zero,
    fun h => division_outcomes h rfl laneIrem_nonzero laneIrem_zero, fun sat => ?_⟩
  have past_low : ∀ a : BitVec 6, a.getLsbD 1 = true → a.toNat / 2 ≠ 0 := by decide
  exact decodeWords_ne_of_mods (x := x) rfl (.inl (past_low _ sat))

/-! ### Packed half width (R114) -/

/-- Mode() of Table 1-5 by the two bits of %fmode. -/
theorem fmodeRnd_eq (fmode : Word) :
    fmodeRnd fmode =
      if fmode.getLsbD 1 then (if fmode.getLsbD 0 then .rdn else .rup) else if fmode.getLsbD 0 then .rtz else .rne := by
  have two_bits : ∀ b : BitVec 2, b.toNat = 2 * (b.getLsbD 1).toNat + (b.getLsbD 0).toNat := by decide
  simp only [fmodeRnd, two_bits, BitVec.getLsbD_extractLsb']
  cases fmode.getLsbD 0 <;> cases fmode.getLsbD 1 <;> rfl

theorem roundCode_eq (t : Thread) (code : Nat) : roundCode t.fmode code = modeOf t code := by
  match code with
  | 1 => rfl
  | 2 => rfl
  | 3 => rfl
  | 4 => rfl
  | 0 => exact fmodeRnd_eq t.fmode
  | _ + 5 => exact fmodeRnd_eq t.fmode

theorem flushCode_eq (t : Thread) (code : Nat) : flushCode t.fmode code = flushOf t code := by
  match code with
  | 1 => rfl
  | 2 => rfl
  | 0 => rfl
  | _ + 3 => rfl

/-- The rounding and flush of modA are those of R112. -/
theorem modesA_eq (t : Thread) (x : Ext) : t.modesA x = (modeOf t (x.modA.toNat % 8), flushOf t (x.modA.toNat / 8 % 4)) := by
  have hr : x.roundA = x.modA.toNat % 8 := congrArg (· % 8) (Nat.div_one _)
  rw [Thread.modesA, roundCode_eq, flushCode_eq, hr]
  rfl

theorem halfAt_eq (v : Word) (i : Nat) : halfAt v i = (v.extractLsb' (16 * i) 16).toNat := by
  rw [halfAt, BitVec.extractLsb'_toNat, Nat.shiftRight_eq_div_pow, Nat.pow_mul]

/-- Element i of a word in the format and with the flush the instruction names (R62, R112). -/
def element (x : Ext) (t : Thread) (v : Word) (i : Nat) : FVal :=
  (halfFmt (x.modABit 5)).read (flushOf t (x.modA.toNat / 8 % 4)) (v.extractLsb' (16 * i) 16).toNat

/-- Two elements in one word, with the OR of their flags (R66). -/
def bothElements (r : Nat → FRes) : FRes := ⟨(r 0).bits + 65536 * (r 1).bits, (r 0).flags ||| (r 1).flags⟩

/-- An instruction whose lanes pack two elements is a float instruction of their pair. -/
theorem floats_packHalf {i : Instr} {lane : Thread → LaneOut} {d : RegIdx} {r : Thread → Nat → FRes} {p : Thread → Bool}
    (hx : ∀ s, exec i s = spanOn i lane s) (hl : ∀ t, lane t = packHalf d (p t) (r t)) :
    Floats i d 1 (fun t => bothElements (r t)) p :=
  floats_out32 hx hl

/-- R114 for a rule of two operands. -/
theorem floats_half2 {i : Instr} {x : Ext} (op : Fmt → Rnd → Bool → FVal → FVal → FRes)
    (hx : ∀ s, exec i s = spanOn i (half2 op x) s) :
    Floats i x.d 1
      (fun t => bothElements fun i =>
        op (halfFmt (x.modABit 5)) (modeOf t (x.modA.toNat % 8)) (flushOf t (x.modA.toNat / 8 % 4)) (element x t (t.reg x.a).v i)
          (element x t (t.srcB x).v i))
      (fun t => poisonAB t x 1) := by
  refine floats_packHalf hx fun t => ?_
  simp only [half2, modesA_eq, halfAt_eq]
  rfl

/-- R114 for the product and sum. -/
theorem floats_hfma2 (x : Ext) :
    Floats (.hfma2 x) x.d 1
      (fun t => bothElements fun i =>
        (halfFmt (x.modABit 5)).fmaF (modeOf t (x.modA.toNat % 8)) (flushOf t (x.modA.toNat / 8 % 4)) (element x t (t.reg x.a).v i)
          (element x t (t.srcB x).v i) (element x t (t.reg x.c).v i))
      (fun t => poisonAB t x 1 || (t.reg x.c).p) := by
  refine floats_packHalf (lane := laneHfma2 x) (fun _ => rfl) fun t => ?_
  simp only [laneHfma2, modesA_eq, halfAt_eq]
  rfl

/-- Settles O9: each lane function packs the results of its rule on elements 0 and 1. -/
theorem halfResults : Obligations.HalfResults := by
  intro x
  refine ⟨?add, ?mul, ?fma, ?min, ?max⟩
  case add => exact floats_half2 Fmt.addV fun _ => rfl
  case mul => exact floats_half2 Fmt.mulF fun _ => rfl
  case fma => exact floats_hfma2 x
  case min => exact floats_half2 (fun f _ _ a b => f.minmaxF false a b) fun _ => rfl
  case max => exact floats_half2 (fun f _ _ a b => f.minmaxF true a b) fun _ => rfl

/-! ### RAND (R117) -/

/-- One round of RAND on a value with a key. -/
def randRound (v k : Word) : Word :=
  let y := (v ^^^ k) * 0x9E3779B1
  y ^^^ (y >>> 16)

/-- The key of round i (R117). -/
def roundKey (key : Word) (i : Nat) : Word := key + BitVec.ofNat 32 i * 0x7F4A7C15

theorem roundKey_zero (key : Word) : roundKey key 0 = key := by simp [roundKey]

theorem roundKey_succ (key : Word) (i : Nat) : roundKey key i + 0x7F4A7C15 = roundKey key (i + 1) := by
  simp only [roundKey, BitVec.ofNat_add, BitVec.add_mul, BitVec.one_mul, BitVec.add_assoc]

/-- The defining equation. `delta` opens both sides at once: comparing calls of `randRounds`, the kernel would count the constant of R117
up from zero. -/
theorem randRounds_succ (n : Nat) (v k : Word) : randRounds (n + 1) v k = randRounds n (randRound v k) (k + 0x7F4A7C15) := by
  delta randRounds
  rfl

/-- RAND's rounds from round i on fold its round over their keys. -/
theorem randRounds_eq_foldl (key : Word) (n i : Nat) (v : Word) :
    randRounds n v (roundKey key i) = (List.range' i n).foldl (fun v j => randRound v (roundKey key j)) v := by
  induction n generalizing i v with
  | zero => rfl
  | succ n ih => rw [randRounds_succ, roundKey_succ, ih, List.range'_succ, List.foldl_cons]

/-- RAND's result from its counter and key. -/
theorem randRounds_six (key ctr : Word) :
    randRounds 6 ctr key = [1, 2, 3, 4, 5].foldl (fun v i => randRound v (roundKey key i)) (randRound ctr key) := by
  have h := randRounds_eq_foldl key 6 0 ctr
  rwa [roundKey_zero, show List.range' 0 6 = [0, 1, 2, 3, 4, 5] from rfl, List.foldl_cons, roundKey_zero] at h

/-- A normal binary32 magnitude from its two fields. -/
theorem magnitude_f32_normal {ex fr : Nat} (h0 : 0 < ex) (h1 : ex < 256) (hf : fr < 2 ^ 23) :
    magnitude f32 (ex * 2 ^ 23 + fr) = ((2 ^ 23 + fr : Nat) : ℚ) * 2 ^ ((ex : ℤ) - 150) := by
  have he : (ex * 2 ^ 23 + fr) / 2 ^ 23 % 2 ^ 8 = ex := by omega
  have hr : (ex * 2 ^ 23 + fr) % 2 ^ 23 = fr := by omega
  simp only [magnitude, f32, he, hr, if_neg (Nat.pos_iff_ne_zero.1 h0)]
  push_cast
  congr 2
  omega

/-- A nonzero number of at most 24 bits, moved up until bit 23 is its highest. -/
theorem shifted_bounds {m : Nat} (h0 : m ≠ 0) (hm : m < 2 ^ 24) :
    m.log2 ≤ 23 ∧ 2 ^ 23 ≤ m * 2 ^ (23 - m.log2) ∧ m * 2 ^ (23 - m.log2) < 2 ^ 24 := by
  have hk : m.log2 < 24 := (Nat.log2_lt h0).2 hm
  have split : 2 ^ m.log2 * 2 ^ (23 - m.log2) = 2 ^ 23 := by rw [← Nat.pow_add]; congr 1; omega
  have low : 2 ^ m.log2 * 2 ^ (23 - m.log2) ≤ m * 2 ^ (23 - m.log2) := Nat.mul_le_mul_right _ (Nat.log2_self_le h0)
  have high : m * 2 ^ (23 - m.log2) < 2 ^ (m.log2 + 1) * 2 ^ (23 - m.log2) := Nat.mul_lt_mul_of_pos_right Nat.lt_log2_self (by positivity)
  rw [Nat.pow_succ, Nat.mul_right_comm, split] at high
  omega

/-- A nonzero number of at most 24 bits times 2^-24 is a normal number of binary32: its fields, and no flag. -/
theorem round_f32_normal (mode : Rnd) (flush : Bool) {m : Nat} (h0 : m ≠ 0) (hm : m < 2 ^ 24) :
    f32.round mode flush false m (-24) = ⟨(m.log2 + 103) * 2 ^ 23 + (m * 2 ^ (23 - m.log2) - 2 ^ 23), 0⟩ := by
  obtain ⟨hk, _, hn⟩ := shifted_bounds h0 hm
  have hs : (-24 : ℤ) - (-24 + ((m.log2 + 1 : Nat) : ℤ) - 1 - (23 : Nat)) = ((23 - m.log2 : Nat) : ℤ) := by omega
  have exact_int : ∀ k : Nat, roundInt mode false m (k : ℤ) = (m * 2 ^ k, false) := fun k => if_pos (Int.natCast_nonneg k)
  have hb : bitLen m = m.log2 + 1 := if_neg h0
  have he : ((-24 : ℤ) + ((m.log2 + 1 : Nat) : ℤ) - 1 + f32.bias).toNat = m.log2 + 103 := by simp only [Fmt.bias, f32]; omega
  have hlo : ¬ (-24 : ℤ) + ((m.log2 + 1 : Nat) : ℤ) - 1 < 1 - f32.bias := by simp only [Fmt.bias, f32]; omega
  have hhi : ¬ f32.bias < (-24 : ℤ) + ((m.log2 + 1 : Nat) : ℤ) - 1 := by simp only [Fmt.bias, f32]; omega
  rw [Fmt.round, if_neg h0]
  simp only [hb, show f32.mb = 23 from rfl, hs, exact_int, if_neg hn.ne, if_neg hlo, if_neg hhi, he]
  simp [Fmt.pack, bit01, f32, noFlags]

/-- A number of at most 24 bits times 2^-24 is a number of binary32, delivered as it is. -/
theorem round_f32_fraction (mode : Rnd) (flush : Bool) {m : Nat} (hm : m < 2 ^ 24) :
    (f32.round mode flush false m (-24)).bits < 2 ^ 31 ∧
      magnitude f32 (f32.round mode flush false m (-24)).bits = (m : ℚ) * 2 ^ (-24 : ℤ) := by
  by_cases h0 : m = 0
  · subst h0
    rw [show f32.round mode flush false 0 (-24) = ⟨0, 0⟩ from rfl]
    exact ⟨by norm_num, by norm_num [magnitude, f32]⟩
  · obtain ⟨hk, hlo, hhi⟩ := shifted_bounds h0 hm
    rw [round_f32_normal mode flush h0 hm]
    refine ⟨by dsimp only; omega, ?_⟩
    rw [magnitude_f32_normal (by omega) (by omega) (by omega), Nat.add_sub_cancel' hlo]
    push_cast
    rw [mul_assoc, ← zpow_natCast, ← zpow_add₀ two_ne_zero]
    congr 2
    omega

/-- The word of the .f32 form: no sign, and the top 24 bits of the result times 2^-24. -/
theorem fraction_word (mode : Rnd) (flush : Bool) (r : Word) :
    let v : Word := BitVec.ofNat 32 (f32.round mode flush false (r >>> 8).toNat (-24)).bits
    v.getLsbD 31 = false ∧ magnitude f32 v.toNat = ((r >>> 8).toNat : ℚ) * 2 ^ (-24 : ℤ) := by
  intro v
  have hr : (r >>> 8).toNat < 2 ^ 24 := by
    rw [BitVec.toNat_ushiftRight, Nat.shiftRight_eq_div_pow]
    omega
  obtain ⟨hbits, hmag⟩ := round_f32_fraction mode flush hr
  have hv : v.toNat = (f32.round mode flush false (r >>> 8).toNat (-24)).bits := Nat.mod_eq_of_lt (by omega)
  refine ⟨?_, by rw [hv, hmag]⟩
  rw [BitVec.getLsbD, hv]
  exact Nat.testBit_lt_two_pow hbits

theorem laneRand_word {x : Ext} (hx : x.modA.getLsbD 0 = false) : laneRand x = binary32 x fun key ctr => randRounds 6 ctr key := by
  simp only [laneRand, Ext.modABit, hx, Bool.false_eq_true, if_false]

theorem laneRand_fraction {x : Ext} (hx : x.modA.getLsbD 0 = true) :
    laneRand x =
      binary32 x fun key ctr => BitVec.ofNat 32 (f32.round .rne false false (randRounds 6 ctr key >>> 8).toNat (-24)).bits := by
  simp only [laneRand, Ext.modABit, hx, if_true]

/-- Settles O13: the six rounds fold one round over the keys; the .f32 form's number fits binary32's fraction; RAND's form has modA[0]
alone. -/
theorem randResults : Obligations.RandResults := by
  intro x mix round gen
  have six : ∀ key ctr, randRounds 6 ctr key = gen key ctr := randRounds_six
  refine ⟨?word, ?fraction, decodeWords_ne_of_mods rfl⟩
  case word =>
    intro hx
    refine op2 (fun s => ?_) six
    rw [← laneRand_word hx]
    rfl
  case fraction =>
    intro hx s id g l t h
    refine ⟨_, takes_word h rfl (congrFun (laneRand_fraction hx) t), ?_⟩
    rw [← six]
    exact fraction_word .rne false _

end Sys2Proof.LaneArithmetic
